-- ==== Sys2Proof/Word.lean ====
section
/-! DEFINITION. The words of the ZD8: bytes, 32-bit register words, 64-bit register pairs, and their plainest arithmetic
(00_scope R4-R7: little-endian everywhere, bit 0 least significant). -/

namespace Sys2Proof

/-- A byte of any memory. -/
abbrev Byte := BitVec 8
/-- A register, or an on-die address (R30): 32 bits. -/
abbrev Word := BitVec 32
/-- A register pair dn (R49), or a register of BAR0: 64 bits. -/
abbrev DWord := BitVec 64
/-- A register field of an instruction word: v0 to v127 (R45). -/
abbrev Reg := BitVec 7
/-- The low half of a pair (R49). -/
def lo32 (d : DWord) : Word := d.setWidth 32
/-- The high half of a pair (R49). -/
def hi32 (d : DWord) : Word := (d >>> 32).setWidth 32
/-- A pair from its halves, v[n] low and v[n+1] high (R49). -/
def pair (low high : Word) : DWord := high ++ low

/-- Bits [hi:lo] of a number (R7). -/
def bits (x hi lo : Nat) : Nat := x / 2 ^ lo % 2 ^ (hi + 1 - lo)
/-- Bit n of a number (R7). -/
def bit (x n : Nat) : Bool := x / 2 ^ n % 2 == 1
/-- sext(x, n) of Table 02-17: the low n bits as a two's-complement number. -/
def sext (x n : Nat) : Int :=
  let y := x % 2 ^ n
  if 2 ^ n ≤ 2 * y then (y : Int) - (2 ^ n : Nat) else y
/-- A signed number stored in n bits (two's complement, wrapping). -/
def wrapInt (n : Nat) (x : Int) : Nat := (x % ((2 ^ n : Nat) : Int)).toNat

/-- The n bytes of x, little-endian (R7). -/
def toBytes (x : Nat) : Nat → List Byte
  | 0 => []
  | n + 1 => BitVec.ofNat 8 x :: toBytes (x / 256) n
/-- The number whose little-endian bytes are given (R7). -/
def ofBytes : List Byte → Nat
  | [] => 0
  | b :: bs => b.toNat + 256 * ofBytes bs

/-- Replace bits [hi:lo] of x by v (a field write of a register map, R9). -/
def setBits (x hi lo v : Nat) : Nat :=
  x % 2 ^ lo + (v % 2 ^ (hi + 1 - lo)) * 2 ^ lo + x / 2 ^ (hi + 1) * 2 ^ (hi + 1)

/-- Round a number up to a multiple of m. -/
def ceilTo (m x : Nat) : Nat := (x + m - 1) / m * m
/-- The quotient rounded up. -/
def ceilDiv (x m : Nat) : Nat := (x + m - 1) / m

end Sys2Proof
end

