-- ==== Sys2Proof/Syntax.lean ====
section
/-! DEFINITION. The instructions of the ZD8 as data. One constructor of `Instr` per row of spec/opcode_table.json, in the
table's order: 145 instruction words (02_instruction_words) and 117 events of the engines, of system software and of the outside
world (95_what_each_step_holds). Codes inside a row are enumerations with a table of their codes. -/

namespace Sys2Proof

/-- A-class op7 00-17 (Table 02-2, Table 04-5). `u` marks the natural (.n32) forms. -/
inductive IntOp where
  | add32 | sub32 | mul32 | mulh32 | mulhu32 | mad32 | add64 | sub64 | mul64
  | min32 | max32 | minu32 | maxu32 | and | or | xor | andn | shl | shr | sar | rotl | bfx | bfxs | bfi
  deriving DecidableEq, Repr
/-- A-class op7 18-1B. -/
inductive DivOp where | div | divu | rem | remu
  deriving DecidableEq, Repr
/-- A-class op7 20-28. -/
inductive CmpOp where | seq | sne | slt | sle | sltu | sleu | seq64 | slt64 | sltu64
  deriving DecidableEq, Repr
/-- The unary group (Table 02-3). -/
inductive UnaryFn where
  | mov | not | neg | abs | clz | ctz | popc | brev | sext8 | sext16 | zext8 | zext16 | mov64 | neg64
  deriving DecidableEq, Repr
/-- A-class op7 40-43 (R140). -/
inductive ShflMode where | idx | xor | up | down
  deriving DecidableEq, Repr
/-- VOTE functions (Table 02-3). -/
inductive VoteFn where | all | any | ballot
  deriving DecidableEq, Repr
/-- WRED and WSCAN functions (Table 02-4). -/
inductive WaveFn where
  | addI | addF | minI | maxI | minU | maxU | fmin | fmax | and | or | xor | addD
  deriving DecidableEq, Repr
/-- QSWZ functions (Table 02-3). -/
inductive QswzFn where | ddxf | ddyf | ddxc | ddyc
  deriving DecidableEq, Repr
/-- F-class op7 00-08, and 10-18 for .f64 (Table 02-5). -/
inductive FpOp where | add | sub | mul | fma | min | max | minn | maxn | div
  deriving DecidableEq, Repr
/-- F-class op7 20-25 (R154). -/
inductive HalfOp where | hadd | hmul | hfma | badd | bmul | bfma
  deriving DecidableEq, Repr
/-- F-class op7 26-28 (R155). -/
inductive Dot4Fmt where | e4m3 | e5m2 | i8
  deriving DecidableEq, Repr
/-- F-class op7 30-37 (R150). -/
inductive FpCmp where | eq | lt | le | un
  deriving DecidableEq, Repr
/-- Function groups F 40 and F 41 (Table 02-6). -/
inductive FpFn where
  | abs | neg | sqrt | rcp | rsq | exp2 | log2 | sin | cos | rne | floor | ceil | trunc | fclass
  deriving DecidableEq, Repr
/-- The formats a conversion reads or writes (Table 04-9). -/
inductive CvtFmt where | f64 | f32 | f16 | bf16 | e4m3 | e5m2 | i32 | n32 | i64 | n64
  deriving DecidableEq, Repr
/-- A conversion code (Table 04-9): result, source, and the modifier .rz or .sat. -/
structure CvtCode where
  dst : CvtFmt
  src : CvtFmt
  modified : Bool := false
  deriving DecidableEq, Repr
/-- F-class op7 49-4C (R159). -/
inductive PackFmt where | half | bfloat | e4m3 | e5m2
  deriving DecidableEq, Repr
/-- I-class op5 00-0C (Table 02-9). -/
inductive ImmOp where
  | lim | limz | limh | addi | andi | ori | xori | shli | shri | sari | slti | limf | muli
  deriving DecidableEq, Repr
/-- Width of a scratchpad access in words (Table 05-2). -/
inductive MemWidth where | w1 | w2 | w4
  deriving DecidableEq, Repr
/-- E-class op7 00-03. -/
inductive IdxOp where | ldgx | stgx | ldsx | stsx
  deriving DecidableEq, Repr
/-- Atomic operations (Table 02-8), and the 64-bit minimum and maximum of R198. -/
inductive AtomOp where
  | add32 | add64 | addf32 | addf64 | min32 | max32 | minu32 | maxu32 | fmin32 | fmax32 | fmin64 | fmax64
  | and | or | xor | exch | min64 | max64 | minu64 | maxu64
  deriving DecidableEq, Repr
/-- FENCE scopes (R64). -/
inductive Scope where | wave | group | cluster | die | domain | system
  deriving DecidableEq, Repr

/-- What an access does (R447, R451). -/
inductive Access where | read | write | fetch
  deriving DecidableEq, Repr
/-- A 64-byte flit at a scale-up port (R247-R254), as the sender set it. `kind`: bits [1:0] class (0 scheduled, 1 best-effort, 2
checkpoint), bit 3 last flit of its group, bit 4 answer to a best-effort write of ours, bit 5 that answer refuses. `poison` marks the bytes
of `data` that are poison (R246). `seq` is the flit's number in its transfer; of a best-effort write and its answer the number of the copy.
`arrival` is, of a scheduled flit, the CYC of its sending plus L_fab (R245), or the CYC of the collision. -/
structure Flit where
  src : Nat
  dst : Nat
  port : Nat
  tag : Nat
  addr : Nat
  seq : Nat
  arrival : Nat
  kind : Nat
  poison : Nat
  data : List Byte
  deriving DecidableEq, Repr
/-- A TIMING halt notice (R243, R284). -/
structure Notice where
  tag : Nat
  haltAt : Nat
  code : Nat
  src : Nat
  deriving DecidableEq, Repr
/-- A PTP event message at the scale-out port (R241): kind, the sender's time and the correction, in nanoseconds. -/
structure PtpMsg where
  kind : Nat
  sent : Nat
  correction : Int
  seq : Nat
  deriving DecidableEq, Repr
/-- A message at the scale-out port (R261-R265, R465): operation (of a SEND: bit 0 it has immediate data; of a solicitation: 0 ARP,
1 IPv6), local queue pair number, packet sequence number, remote key or immediate data, address, length, sender, payload. -/
structure Packet where
  op : Nat
  qp : Nat
  psn : Nat
  rkey : Nat
  addr : Nat
  len : Nat
  src : Nat
  data : List Byte
  deriving DecidableEq, Repr
/-- A domain control message (R243): kind 0 mapping update (CYC of effect, c_base, T_base, δ), 1 hold request (h), 2 hold announcement
(h, CYC of sending), 3 pending correction (tag, e, CYC of effect, CYC of sending, position, start cycle), 4 a package's TUNE (tag, SCY, n,
position), 5 checkpoint announcement (m, CYC of the start), 6 heartbeat (position), 7 a checkpoint that another package could not finish,
8 a package that has lost a port (position, port), 9 an insertion of a launch of another package (first CYC, length, tag, position, start
cycle; log entry 103), 10 a locked launch of other packages takes its start cycle (tag, position, start cycle, start_time, its positions),
11 it ends (tag, position, start cycle), 12 a slot of the checkpoints held here is to be sent (position to send it to, slot; R469). At the master
kind 0 is what its own servo has found (log entry 104). -/
structure DomainMsg where
  kind : Nat
  args : List Nat
  deriving DecidableEq, Repr

/-- The instructions and the events of the ZD8. -/
inductive Instr where
  -- A class
  | intArithLogic (o : IntOp) (d a b : Reg)
  | uintArithLogic (o : IntOp) (d a b : Reg)
  | divRem (o : DivOp) (d a b : Reg)
  | udivRem (o : DivOp) (d a b : Reg)
  | sel (d a b : Reg)
  | usel (d a b : Reg)
  | setCompare (o : CmpOp) (d a b : Reg)
  | usetCompare (o : CmpOp) (d a b : Reg)
  | unary (f : UnaryFn) (d a : Reg)
  | uunary (f : UnaryFn) (d a : Reg)
  | shfl (m : ShflMode) (d a b : Reg)
  | bcast (d a b : Reg)
  | vote (f : VoteFn) (d a : Reg)
  | matchv (wide : Bool) (d a : Reg)
  | wred (f : WaveFn) (d a : Reg)
  | wscan (f : WaveFn) (d a : Reg)
  | qswz (f : QswzFn) (d a : Reg)
  | rds (d : Reg) (index : BitVec 7)
  | urds (d : Reg) (index : BitVec 7)
  | wrs (a : Reg) (index : BitVec 7)
  | uwrs (a : Reg) (index : BitVec 7)
  | flgrd (d : Reg)
  | uflgrd (d : Reg)
  -- F class
  | fp32Arith (o : FpOp) (d a b : Reg)
  | ufp32Arith (o : FpOp) (d a b : Reg)
  | fp64Arith (o : FpOp) (d a b : Reg)
  | ufp64Arith (o : FpOp) (d a b : Reg)
  | packedHalf (o : HalfOp) (d a b : Reg)
  | dot4 (f : Dot4Fmt) (d a b : Reg)
  | fpCompare (wide : Bool) (c : FpCmp) (d a b : Reg)
  | ufpCompare (wide : Bool) (c : FpCmp) (d a b : Reg)
  | fp32Function (f : FpFn) (d a : Reg)
  | ufp32Function (f : FpFn) (d a : Reg)
  | fp64Function (f : FpFn) (d a : Reg)
  | ufp64Function (f : FpFn) (d a : Reg)
  | cvt (c : CvtCode) (d a : Reg)
  | ucvt (c : CvtCode) (d a : Reg)
  | pack (f : PackFmt) (d a b : Reg)
  | fscl (wide : Bool) (d a b : Reg)
  | ufscl (wide : Bool) (d a b : Reg)
  -- I class
  | immediate (o : ImmOp) (d : Reg) (imm : BitVec 16)
  | uimmediate (o : ImmOp) (d : Reg) (imm : BitVec 16)
  -- M class
  | ldg (wide : Bool) (d a : Reg) (off : BitVec 10)
  | uldg (wide : Bool) (d a : Reg) (off : BitVec 10)
  | stg (wide : Bool) (src a : Reg) (off : BitVec 10)
  | ustg (wide : Bool) (src a : Reg) (off : BitVec 10)
  | lds (w : MemWidth) (d a : Reg) (off : BitVec 10)
  | ulds (w : MemWidth) (d a : Reg) (off : BitVec 10)
  | sts (w : MemWidth) (src a : Reg) (off : BitVec 10)
  | usts (w : MemWidth) (src a : Reg) (off : BitVec 10)
  | spl (d a : Reg) (off : BitVec 10)
  | uspl (d a : Reg) (off : BitVec 10)
  | sps (src a : Reg) (off : BitVec 10)
  | usps (src a : Reg) (off : BitVec 10)
  | mwait (d a : Reg) (off : BitVec 10)
  -- E class, lane forms
  | ldgxStsx (o : IdxOp) (d a b : Reg)
  | owr (k : BitVec 4) (a b : Reg)
  | ord (d a b : Reg)
  | sample (d a b : Reg)
  | samplel (d a b : Reg)
  | sampleg (d a b : Reg)
  | gath4 (d a b : Reg)
  | txq (d a b : Reg)
  | trace (d a b : Reg)
  | resume (op a b : Reg)
  | hitr (d a : Reg) (f : BitVec 7)
  | qsamp (d a b : Reg)
  | qraw (d a b : Reg)
  | qsampd (d a b : Reg)
  | visq (d : Reg) (f : BitVec 7)
  | pixw (a b : Reg)
  | srate (a b : Reg)
  | atom (o : AtomOp) (d a b : Reg)
  | red (o : AtomOp) (a b : Reg)
  | cas (wide : Bool) (d a b : Reg)
  | tkarg (d a b : Reg)
  | atom64 (o : AtomOp) (d a b : Reg)
  | red64 (o : AtomOp) (a b : Reg)
  -- E class, uniform only
  | cpy (a : Reg)
  | cpyg (a b : Reg)
  | cpys (a b : Reg)
  | close (d : Reg)
  | waitb (d b : Reg)
  | ores (k : BitVec 4) (a b : Reg)
  | orel (k : BitVec 4)
  | mma (t : BitVec 5) (a b : Reg)
  | mmac (t : BitVec 5) (a b : Reg)
  | azero (t : BitVec 5)
  | adrain (t : BitVec 5) (a b : Reg)
  | aload (t : BitVec 5) (a b : Reg)
  | msync (b : Reg)
  | hwait (k : BitVec 4) (b : Reg)
  | send (d a b : Reg)
  | recv (d a b : Reg)
  | nqack (a b : Reg)
  | nqrst (a b : Reg)
  | enq (d a b : Reg)
  | tkspawn (d a b : Reg)
  | rslot (d : Reg)
  | rpub
  | rrel
  | qtab (slot : BitVec 2) (a b : Reg)
  | qseed (slot : BitVec 2) (a : Reg)
  -- B class
  | braBrz (z : Bool) (a : Reg) (off : BitVec 17)
  | ubraUbrz (z : Bool) (a : Reg) (off : BitVec 17)
  | jmp (off : BitVec 17)
  | ujmp (off : BitVec 17)
  | call (a : Reg) (off : BitVec 17)
  | ucall (a : Reg) (off : BitVec 17)
  | ret (a : Reg)
  | uret (a : Reg)
  | mark (off : BitVec 17)
  | uloop (a : Reg) (off : BitVec 17)
  -- X class
  | nop
  | unop
  | exit
  | trap (imm : BitVec 16)
  | utrap (imm : BitVec 16)
  | brk (imm : BitVec 16)
  | ubrk (imm : BitVec 16)
  | join
  | regang
  | bar (k : BitVec 4)
  | bara (k : BitVec 4)
  | barw (k : BitVec 4)
  | gbar
  | fence (sc : Scope)
  | ufence (sc : Scope)
  | acq (p q : Reg)
  | uacq (p q : Reg)
  | rel (p : Reg)
  | urel (p : Reg)
  | bind (p b l : Reg)
  | ubind (p b l : Reg)
  | waitt (n : BitVec 4)
  | hsig (k : BitVec 4)
  | uhsig (k : BitVec 4)
  | ordb (sample : Bool)
  | orde
  | frete
  | halt
  | at (imm : BitVec 21)
  | atv (n : Reg)
  | waitc
  | tune (imm : BitVec 16)
  -- lane engine and scratchpad events
  | waveIssueTurn (g w : Nat)
  | resultArrival (g w k : Nat)
  | deferredResultArrival (g w k : Nat)
  | trapGroupSave (g : Nat)
  | trapRecordPost (part : Nat)
  | relIncrement (r : Nat)
  | mwaitWake (g w : Nat)
  | bankRequest (r : Nat)
  | localStoreRequest (r : Nat)
  | bankRetentionEntry (cluster bank : Nat)
  | correctionWriteback (word : Nat)
  | elogack (inst n : Nat)
  | einjWrite (inst : Nat) (value : BitVec 128)
  | fdlogack (n : Nat)
  | fretCommit (launch : Nat)
  -- task engine
  | hostSubmission (part : Nat) (data : List Byte)
  | intakeCardRead (part : Nat)
  | cardDispatch (launch : Nat)
  | groupPlacement (launch cluster : Nat)
  | stealRequest (launch cluster : Nat)
  | stealRetryTimer (launch cluster : Nat)
  | terminationTokenPass (launch : Nat)
  | cardCompletion (launch : Nat)
  | hostRecordPost (queue : Nat)
  | deadlineEvent (launch : Nat)
  | preemption (g : Nat)
  | groupRestore (g : Nat)
  -- copy engine and translation
  | copyPieceTransfer (copy piece : Nat)
  | faultRecordPost (part : Nat)
  | fqverdRetry (part seq : Nat)
  | fqverdFail (part seq : Nat)
  | translationWalk (part ctx va : Nat) (acc : Access)
  -- matrix engine
  | matrixCommandStart (cluster : Nat)
  | matrixCommandCompletion (cluster num : Nat)
  | stampedCommandStart (cluster num : Nat)
  -- fabric
  | flitSourceRead (send k : Nat)
  | flitSend (send k : Nat)
  | flitLanding (f : Flit)
  | collision (f : Flit) (flits : Nat)
  | linkError (f : Flit) (flits : Nat)
  | bestEffortFlit (f : Flit)
  | haltNotice (m : Notice)
  | lockedHalt (launch : Nat)
  | receiveWindowClose (launch : Nat)
  | domainControlMessage (m : DomainMsg)
  | holdRequest (cycles : Nat)
  | tuneInsertionEnd (launch : Nat)
  | tuneMismatch (tag : Nat)
  | ptpMessage (m : PtpMsg)
  | timebaseEvent (code : Nat) (delta : Int)
  | portFailure (port : Nat)
  | packetDelivery (pk : Packet)
  | rdmaWrite (pk : Packet)
  | rdmaRead (pk : Packet)
  | rdmaAtomicRequest (pk : Packet)
  | neighbourSolicitation (pk : Packet)
  | qpRetryExhausted (qp : Nat)
  | qdescStateRun (q : Nat)
  | qdescStateOff (q : Nat)
  -- strips, raster, ray, texture, quasi-random
  | stripStart (launch : Nat)
  | stripDeadline (launch : Nat)
  | binningPrimitive (launch : Nat)
  | primaryRayTrace (launch tile : Nat)
  | tileVisibilityFinal (launch tile : Nat)
  | rayRest (ray : Nat)
  | textureServe (g w k : Nat)
  | tableStoreLoad (cluster : Nat)
  -- strip ring, display, encode
  | entrySkip (head : Nat)
  | displayLineFetch (display : Nat)
  | encoderStripCopy (encoder : Nat)
  | tileRowCode (encoder : Nat) (coded : List Byte)
  | rdoffWrite (encoder value : Nat)
  | ringcfgEnable (head : Nat)
  | ringcfgDisable (head : Nat)
  -- registers of the partition manager
  | qcfgEnable (q : Nat)
  | stplValid (head : Nat)
  | stplWithdraw (head : Nat)
  | pcfgEnable (part : Nat)
  | teardown (part : Nat)
  | mownWrite (granule value : Nat)
  | scrubComplete (granule : Nat)
  | tlbinv (value : BitVec 64)
  | tlbinvComplete (part : Nat)
  | tbcfgWrite (value : BitVec 64)
  | qpctxState (qp state : Nat)
  | channelShare (part value : Nat)
  | registerWrite (host : Bool) (off : Nat) (value : BitVec 64)
  -- checkpoints, power, bring-up
  | checkpointFlit (f : Flit)
  | heartbeatMiss (pkg : Nat)
  | powerMeasurement (milliwatts : Nat)
  | childCardRead (child : Nat)
  | tileStart (launch tile : Nat)
  | launchStartCycle (launch : Nat)
  | teardownComplete (part : Nat)
  | connectionManagementMessage (pk : Packet)
  -- events without operands stand last
  | mappingUpdate
  | holdAnnounce
  | holdStart
  | holdEnd
  | regrd
  | regwr
  | attest
  | locate
  | grpctlResume
  | killgroup
  | killcard
  | preempt
  | dplink
  | memwr
  | memrd
  | checkpointAnnounce
  | checkpoint
  | checkpointEnd
  | recovery
  | throttleRestore
  | bringUp
  | functionLevelReset
  deriving DecidableEq, Repr

end Sys2Proof
end

