-- ==== Sys2Proof/WellFormed.lean ====
section
/-! DEFINITION. Which instruction terms are instructions of the opcode tables (02_instruction_words R53-R64): the checks that a
constructor's fields do not already make. An event has no operand check here: its meaning says when it can occur. -/

namespace Sys2Proof

/-- An FP64 function exists: codes 05-08 are .f32 only (Table 02-6). -/
def FpFn.has64 : FpFn → Bool
  | .exp2 | .log2 | .sin | .cos => false
  | _ => true

/-- The 16 operations of Table 02-8, ATOM at op7 40 + k. -/
def AtomOp.short : AtomOp → Bool
  | .min64 | .max64 | .minu64 | .maxu64 => false
  | _ => true

/-- The conversion codes of Table 04-9, by vb. -/
def cvtTable : List (Nat × CvtCode) :=
  [(0x00, ⟨.f64, .f32, false⟩), (0x01, ⟨.f32, .f64, false⟩), (0x02, ⟨.f16, .f32, false⟩), (0x03, ⟨.f32, .f16, false⟩),
   (0x04, ⟨.bf16, .f32, false⟩), (0x05, ⟨.f32, .bf16, false⟩), (0x06, ⟨.f16, .f64, false⟩), (0x07, ⟨.f64, .f16, false⟩),
   (0x08, ⟨.e4m3, .f32, false⟩), (0x09, ⟨.e5m2, .f32, false⟩), (0x0A, ⟨.e4m3, .f32, true⟩), (0x0B, ⟨.e5m2, .f32, true⟩),
   (0x0C, ⟨.f32, .e4m3, false⟩), (0x0D, ⟨.f32, .e5m2, false⟩)] ++
  [(0x10, ⟨.i32, .f32, false⟩), (0x11, ⟨.i32, .f32, true⟩), (0x12, ⟨.n32, .f32, false⟩), (0x13, ⟨.n32, .f32, true⟩),
   (0x14, ⟨.i32, .f64, false⟩), (0x15, ⟨.i32, .f64, true⟩), (0x16, ⟨.n32, .f64, false⟩), (0x17, ⟨.n32, .f64, true⟩),
   (0x18, ⟨.i64, .f64, false⟩), (0x19, ⟨.i64, .f64, true⟩), (0x1A, ⟨.n64, .f64, false⟩), (0x1B, ⟨.n64, .f64, true⟩),
   (0x1C, ⟨.i64, .f32, false⟩), (0x1D, ⟨.i64, .f32, true⟩)] ++
  [(0x20, ⟨.f32, .i32, false⟩), (0x21, ⟨.f32, .n32, false⟩), (0x22, ⟨.f64, .i32, false⟩), (0x23, ⟨.f64, .n32, false⟩),
   (0x24, ⟨.f64, .i64, false⟩), (0x25, ⟨.f64, .n64, false⟩), (0x26, ⟨.f32, .i64, false⟩), (0x27, ⟨.f32, .n64, false⟩)]

/-- The term is an assigned instruction (R66 gives every other word UDF). -/
def Instr.wellFormed : Instr → Bool
  | .rds _ i | .urds _ i => decide (i.toNat ≤ 28)
  | .wrs _ i | .uwrs _ i => i.toNat == 17 || i.toNat == 26 || i.toNat == 27
  | .fp64Function f _ _ | .ufp64Function f _ _ => f.has64
  | .cvt c _ _ | .ucvt c _ _ => cvtTable.any fun e => e.2 == c
  | .atom o _ _ _ => o.short
  | .red o _ _ => o.short && o != .exch
  | .atom64 o _ _ _ | .red64 o _ _ => !o.short
  | .hitr _ _ f => decide (f.toNat ≤ 5)
  | .visq _ f => decide (f.toNat ≤ 4)
  | _ => true

end Sys2Proof
end

