-- ==== Sys2Proof/Decode.lean ====
section
/-! DEFINITION. The decoder and the encoder of the 32-bit instruction word (02_instruction_words R44-R68, Tables 02-1 to 02-12).
`decode` is total: a word that is no instruction is rejected by name, and the fate of every rejected word is the UDF trap of
Table 02-13. The decoder reads the fields that the word's opcode uses and then requires the word to be the encoding of what it
read, which is R66's demand that every unused field is 0. -/

namespace Sys2Proof

/-- Why a word is not an instruction (Table 02-13, the rows that do not depend on the issuer). All raise UDF. -/
inductive DecodeError where
  /-- class 011 -/
  | reservedClass
  /-- unassigned op7, op5 or op4 for the class and P -/
  | unassignedOp
  /-- unassigned function or conversion code, FENCE scope, RDS or WRS index -/
  | unassignedFunction
  /-- a non-zero bit in an unused field, or a range, tile, slot or counter number past its last -/
  | unusedField
  deriving DecidableEq, Repr

/-- The k-th entry of a code table, counted from a first code. -/
def ofCode {α : Type} (t : List α) (base code : Nat) : Option α :=
  if base ≤ code then t[code - base]? else none
/-- The code of an entry. -/
def toCode {α : Type} [DecidableEq α] (t : List α) (base : Nat) (x : α) : Nat :=
  base + t.findIdx (fun y => decide (y = x))

def IntOp.table : List IntOp :=
  [.add32, .sub32, .mul32, .mulh32, .mulhu32, .mad32, .add64, .sub64, .mul64, .min32, .max32, .minu32, .maxu32] ++
  [.and, .or, .xor, .andn, .shl, .shr, .sar, .rotl, .bfx, .bfxs, .bfi]
def DivOp.table : List DivOp := [.div, .divu, .rem, .remu]
def CmpOp.table : List CmpOp := [.seq, .sne, .slt, .sle, .sltu, .sleu, .seq64, .slt64, .sltu64]
def UnaryFn.table : List UnaryFn :=
  [.mov, .not, .neg, .abs, .clz, .ctz, .popc, .brev, .sext8, .sext16, .zext8, .zext16, .mov64, .neg64]
def ShflMode.table : List ShflMode := [.idx, .xor, .up, .down]
def VoteFn.table : List VoteFn := [.all, .any, .ballot]
def WaveFn.table : List WaveFn := [.addI, .addF, .minI, .maxI, .minU, .maxU, .fmin, .fmax, .and, .or, .xor, .addD]
def QswzFn.table : List QswzFn := [.ddxf, .ddyf, .ddxc, .ddyc]
def FpOp.table : List FpOp := [.add, .sub, .mul, .fma, .min, .max, .minn, .maxn, .div]
def HalfOp.table : List HalfOp := [.hadd, .hmul, .hfma, .badd, .bmul, .bfma]
def Dot4Fmt.table : List Dot4Fmt := [.e4m3, .e5m2, .i8]
def FpCmp.table : List FpCmp := [.eq, .lt, .le, .un]
def FpFn.table : List FpFn :=
  [.abs, .neg, .sqrt, .rcp, .rsq, .exp2, .log2, .sin, .cos, .rne, .floor, .ceil, .trunc, .fclass]
def PackFmt.table : List PackFmt := [.half, .bfloat, .e4m3, .e5m2]
def ImmOp.table : List ImmOp :=
  [.lim, .limz, .limh, .addi, .andi, .ori, .xori, .shli, .shri, .sari, .slti, .limf, .muli]
def IdxOp.table : List IdxOp := [.ldgx, .stgx, .ldsx, .stsx]
def AtomOp.table : List AtomOp :=
  [.add32, .add64, .addf32, .addf64, .min32, .max32, .minu32, .maxu32] ++
  [.fmin32, .fmax32, .fmin64, .fmax64, .and, .or, .xor, .exch]
def AtomOp.table64 : List AtomOp := [.min64, .max64, .minu64, .maxu64]
def Scope.table : List Scope := [.wave, .group, .cluster, .die, .domain, .system]

/-- The conversion of a code (Table 04-9). -/
def CvtCode.ofCode (n : Nat) : Option CvtCode := (cvtTable.find? fun e => e.1 == n).map (·.2)
/-- The code of a conversion. -/
def CvtCode.toCode (c : CvtCode) : Nat := ((cvtTable.find? fun e => e.2 == c).map (·.1)).getD 0

/-- The M-class op4 of a scratchpad access (Table 02-10). -/
def MemWidth.lds : MemWidth → Nat
  | .w1 => 4 | .w2 => 6 | .w4 => 8

/-- A word of classes A, F, E (Table 02-1). -/
def encA (p cls op d a b : Nat) : BitVec 32 :=
  BitVec.ofNat 32 (p * 2 ^ 31 + cls * 2 ^ 28 + op * 2 ^ 21 + d * 2 ^ 14 + a * 2 ^ 7 + b)
/-- A word of class I. -/
def encI (p op d imm : Nat) : BitVec 32 := BitVec.ofNat 32 (p * 2 ^ 31 + 4 * 2 ^ 28 + op * 2 ^ 23 + d * 2 ^ 16 + imm)
/-- A word of class M. -/
def encM (p op d a off : Nat) : BitVec 32 :=
  BitVec.ofNat 32 (p * 2 ^ 31 + 5 * 2 ^ 28 + op * 2 ^ 24 + d * 2 ^ 17 + a * 2 ^ 10 + off)
/-- A word of class B. -/
def encB (p op a off : Nat) : BitVec 32 := BitVec.ofNat 32 (p * 2 ^ 31 + 6 * 2 ^ 28 + op * 2 ^ 24 + a * 2 ^ 17 + off)
/-- A word of class X. -/
def encX (p op x : Nat) : BitVec 32 := BitVec.ofNat 32 (p * 2 ^ 31 + 7 * 2 ^ 28 + op * 2 ^ 21 + x)

/-- The word of an instruction; an event has none (R44, Tables 02-1 to 02-12). -/
def encode : Instr → Option (BitVec 32)
  | .intArithLogic o d a b => some (encA 0 0 (toCode IntOp.table 0 o) d.toNat a.toNat b.toNat)
  | .uintArithLogic o d a b => some (encA 1 0 (toCode IntOp.table 0 o) d.toNat a.toNat b.toNat)
  | .divRem o d a b => some (encA 0 0 (toCode DivOp.table 0x18 o) d.toNat a.toNat b.toNat)
  | .udivRem o d a b => some (encA 1 0 (toCode DivOp.table 0x18 o) d.toNat a.toNat b.toNat)
  | .sel d a b => some (encA 0 0 0x1C d.toNat a.toNat b.toNat)
  | .usel d a b => some (encA 1 0 0x1C d.toNat a.toNat b.toNat)
  | .setCompare o d a b => some (encA 0 0 (toCode CmpOp.table 0x20 o) d.toNat a.toNat b.toNat)
  | .usetCompare o d a b => some (encA 1 0 (toCode CmpOp.table 0x20 o) d.toNat a.toNat b.toNat)
  | .unary f d a => some (encA 0 0 0x30 d.toNat a.toNat (toCode UnaryFn.table 0 f))
  | .uunary f d a => some (encA 1 0 0x30 d.toNat a.toNat (toCode UnaryFn.table 0 f))
  | .shfl m d a b => some (encA 0 0 (toCode ShflMode.table 0x40 m) d.toNat a.toNat b.toNat)
  | .bcast d a b => some (encA 0 0 0x44 d.toNat a.toNat b.toNat)
  | .vote f d a => some (encA 0 0 0x45 d.toNat a.toNat (toCode VoteFn.table 0 f))
  | .matchv wide d a => some (encA 0 0 (0x46 + wide.toNat) d.toNat a.toNat 0)
  | .wred f d a => some (encA 0 0 0x48 d.toNat a.toNat (toCode WaveFn.table 0 f))
  | .wscan f d a => some (encA 0 0 0x49 d.toNat a.toNat (toCode WaveFn.table 0 f))
  | .qswz f d a => some (encA 0 0 0x4A d.toNat a.toNat (toCode QswzFn.table 0 f))
  | .rds d i => some (encA 0 0 0x60 d.toNat 0 i.toNat)
  | .urds d i => some (encA 1 0 0x60 d.toNat 0 i.toNat)
  | .wrs a i => some (encA 0 0 0x61 0 a.toNat i.toNat)
  | .uwrs a i => some (encA 1 0 0x61 0 a.toNat i.toNat)
  | .flgrd d => some (encA 0 0 0x62 d.toNat 0 0)
  | .uflgrd d => some (encA 1 0 0x62 d.toNat 0 0)
  | .fp32Arith o d a b => some (encA 0 1 (toCode FpOp.table 0 o) d.toNat a.toNat b.toNat)
  | .ufp32Arith o d a b => some (encA 1 1 (toCode FpOp.table 0 o) d.toNat a.toNat b.toNat)
  | .fp64Arith o d a b => some (encA 0 1 (toCode FpOp.table 0x10 o) d.toNat a.toNat b.toNat)
  | .ufp64Arith o d a b => some (encA 1 1 (toCode FpOp.table 0x10 o) d.toNat a.toNat b.toNat)
  | .packedHalf o d a b => some (encA 0 1 (toCode HalfOp.table 0x20 o) d.toNat a.toNat b.toNat)
  | .dot4 f d a b => some (encA 0 1 (toCode Dot4Fmt.table 0x26 f) d.toNat a.toNat b.toNat)
  | .fpCompare wide c d a b => some (encA 0 1 (toCode FpCmp.table 0x30 c + 4 * wide.toNat) d.toNat a.toNat b.toNat)
  | .ufpCompare wide c d a b => some (encA 1 1 (toCode FpCmp.table 0x30 c + 4 * wide.toNat) d.toNat a.toNat b.toNat)
  | .fp32Function f d a => some (encA 0 1 0x40 d.toNat a.toNat (toCode FpFn.table 0 f))
  | .ufp32Function f d a => some (encA 1 1 0x40 d.toNat a.toNat (toCode FpFn.table 0 f))
  | .fp64Function f d a => some (encA 0 1 0x41 d.toNat a.toNat (toCode FpFn.table 0 f))
  | .ufp64Function f d a => some (encA 1 1 0x41 d.toNat a.toNat (toCode FpFn.table 0 f))
  | .cvt c d a => some (encA 0 1 0x48 d.toNat a.toNat c.toCode)
  | .ucvt c d a => some (encA 1 1 0x48 d.toNat a.toNat c.toCode)
  | .pack f d a b => some (encA 0 1 (toCode PackFmt.table 0x49 f) d.toNat a.toNat b.toNat)
  | .fscl wide d a b => some (encA 0 1 (0x4D + wide.toNat) d.toNat a.toNat b.toNat)
  | .ufscl wide d a b => some (encA 1 1 (0x4D + wide.toNat) d.toNat a.toNat b.toNat)
  | .immediate o d imm => some (encI 0 (toCode ImmOp.table 0 o) d.toNat imm.toNat)
  | .uimmediate o d imm => some (encI 1 (toCode ImmOp.table 0 o) d.toNat imm.toNat)
  | .ldg wide d a off => some (encM 0 (2 * wide.toNat) d.toNat a.toNat off.toNat)
  | .uldg wide d a off => some (encM 1 (2 * wide.toNat) d.toNat a.toNat off.toNat)
  | .stg wide d a off => some (encM 0 (1 + 2 * wide.toNat) d.toNat a.toNat off.toNat)
  | .ustg wide d a off => some (encM 1 (1 + 2 * wide.toNat) d.toNat a.toNat off.toNat)
  | .lds w d a off => some (encM 0 w.lds d.toNat a.toNat off.toNat)
  | .ulds w d a off => some (encM 1 w.lds d.toNat a.toNat off.toNat)
  | .sts w d a off => some (encM 0 (w.lds + 1) d.toNat a.toNat off.toNat)
  | .usts w d a off => some (encM 1 (w.lds + 1) d.toNat a.toNat off.toNat)
  | .spl d a off => some (encM 0 0xA d.toNat a.toNat off.toNat)
  | .uspl d a off => some (encM 1 0xA d.toNat a.toNat off.toNat)
  | .sps d a off => some (encM 0 0xB d.toNat a.toNat off.toNat)
  | .usps d a off => some (encM 1 0xB d.toNat a.toNat off.toNat)
  | .mwait d a off => some (encM 0 0xC d.toNat a.toNat off.toNat)
  | .ldgxStsx o d a b => some (encA 0 2 (toCode IdxOp.table 0 o) d.toNat a.toNat b.toNat)
  | .owr k a b => some (encA 0 2 0x08 k.toNat a.toNat b.toNat)
  | .ord d a b => some (encA 0 2 0x09 d.toNat a.toNat b.toNat)
  | .sample d a b => some (encA 0 2 0x10 d.toNat a.toNat b.toNat)
  | .samplel d a b => some (encA 0 2 0x11 d.toNat a.toNat b.toNat)
  | .sampleg d a b => some (encA 0 2 0x12 d.toNat a.toNat b.toNat)
  | .gath4 d a b => some (encA 0 2 0x13 d.toNat a.toNat b.toNat)
  | .txq d a b => some (encA 0 2 0x14 d.toNat a.toNat b.toNat)
  | .trace d a b => some (encA 0 2 0x18 d.toNat a.toNat b.toNat)
  | .resume op a b => some (encA 0 2 0x19 op.toNat a.toNat b.toNat)
  | .hitr d a f => some (encA 0 2 0x1A d.toNat a.toNat f.toNat)
  | .qsamp d a b => some (encA 0 2 0x1C d.toNat a.toNat b.toNat)
  | .qraw d a b => some (encA 0 2 0x1D d.toNat a.toNat b.toNat)
  | .qsampd d a b => some (encA 0 2 0x1E d.toNat a.toNat b.toNat)
  | .visq d f => some (encA 0 2 0x20 d.toNat 0 f.toNat)
  | .pixw a b => some (encA 0 2 0x21 0 a.toNat b.toNat)
  | .srate a b => some (encA 0 2 0x22 0 a.toNat b.toNat)
  | .atom o d a b => some (encA 0 2 (toCode AtomOp.table 0x40 o) d.toNat a.toNat b.toNat)
  | .red o a b => some (encA 0 2 (toCode AtomOp.table 0x50 o) 0 a.toNat b.toNat)
  | .cas wide d a b => some (encA 0 2 (0x60 + wide.toNat) d.toNat a.toNat b.toNat)
  | .tkarg d a b => some (encA 0 2 0x68 d.toNat a.toNat b.toNat)
  | .atom64 o d a b => some (encA 0 2 (toCode AtomOp.table64 0x70 o) d.toNat a.toNat b.toNat)
  | .red64 o a b => some (encA 0 2 (toCode AtomOp.table64 0x78 o) 0 a.toNat b.toNat)
  | .cpy a => some (encA 1 2 0x00 0 a.toNat 0)
  | .cpyg a b => some (encA 1 2 0x01 0 a.toNat b.toNat)
  | .cpys a b => some (encA 1 2 0x02 0 a.toNat b.toNat)
  | .close d => some (encA 1 2 0x03 d.toNat 0 0)
  | .waitb d b => some (encA 1 2 0x04 d.toNat 0 b.toNat)
  | .ores k a b => some (encA 1 2 0x10 k.toNat a.toNat b.toNat)
  | .orel k => some (encA 1 2 0x11 k.toNat 0 0)
  | .mma t a b => some (encA 1 2 0x12 t.toNat a.toNat b.toNat)
  | .mmac t a b => some (encA 1 2 0x13 t.toNat a.toNat b.toNat)
  | .azero t => some (encA 1 2 0x14 t.toNat 0 0)
  | .adrain t a b => some (encA 1 2 0x15 t.toNat a.toNat b.toNat)
  | .aload t a b => some (encA 1 2 0x16 t.toNat a.toNat b.toNat)
  | .msync b => some (encA 1 2 0x17 0 0 b.toNat)
  | .hwait k b => some (encA 1 2 0x20 k.toNat 0 b.toNat)
  | .send d a b => some (encA 1 2 0x28 d.toNat a.toNat b.toNat)
  | .recv d a b => some (encA 1 2 0x29 d.toNat a.toNat b.toNat)
  | .nqack a b => some (encA 1 2 0x2A 0 a.toNat b.toNat)
  | .nqrst a b => some (encA 1 2 0x2B 0 a.toNat b.toNat)
  | .enq d a b => some (encA 1 2 0x30 d.toNat a.toNat b.toNat)
  | .tkspawn d a b => some (encA 1 2 0x31 d.toNat a.toNat b.toNat)
  | .rslot d => some (encA 1 2 0x38 d.toNat 0 0)
  | .rpub => some (encA 1 2 0x39 0 0 0)
  | .rrel => some (encA 1 2 0x3A 0 0 0)
  | .qtab t a b => some (encA 1 2 0x40 t.toNat a.toNat b.toNat)
  | .qseed t a => some (encA 1 2 0x41 t.toNat a.toNat 0)
  | .braBrz z a off => some (encB 0 z.toNat a.toNat off.toNat)
  | .ubraUbrz z a off => some (encB 1 z.toNat a.toNat off.toNat)
  | .jmp off => some (encB 0 2 0 off.toNat)
  | .ujmp off => some (encB 1 2 0 off.toNat)
  | .call a off => some (encB 0 3 a.toNat off.toNat)
  | .ucall a off => some (encB 1 3 a.toNat off.toNat)
  | .ret a => some (encB 0 4 a.toNat 0)
  | .uret a => some (encB 1 4 a.toNat 0)
  | .mark off => some (encB 0 5 0 off.toNat)
  | .uloop a off => some (encB 1 6 a.toNat off.toNat)
  | .nop => some (encX 0 0x00 0)
  | .unop => some (encX 1 0x00 0)
  | .exit => some (encX 0 0x01 0)
  | .trap i => some (encX 0 0x02 i.toNat)
  | .utrap i => some (encX 1 0x02 i.toNat)
  | .brk i => some (encX 0 0x03 i.toNat)
  | .ubrk i => some (encX 1 0x03 i.toNat)
  | .join => some (encX 0 0x04 0)
  | .regang => some (encX 0 0x05 0)
  | .bar k => some (encX 0 0x08 k.toNat)
  | .bara k => some (encX 0 0x09 k.toNat)
  | .barw k => some (encX 0 0x0A k.toNat)
  | .gbar => some (encX 0 0x0B 0)
  | .fence s => some (encX 0 0x0C (toCode Scope.table 0 s))
  | .ufence s => some (encX 1 0x0C (toCode Scope.table 0 s))
  | .acq p q => some (encX 0 0x0D (p.toNat * 2 ^ 7 + q.toNat))
  | .uacq p q => some (encX 1 0x0D (p.toNat * 2 ^ 7 + q.toNat))
  | .rel p => some (encX 0 0x0E (p.toNat * 2 ^ 7))
  | .urel p => some (encX 1 0x0E (p.toNat * 2 ^ 7))
  | .bind p b l => some (encX 0 0x0F (p.toNat * 2 ^ 14 + b.toNat * 2 ^ 7 + l.toNat))
  | .ubind p b l => some (encX 1 0x0F (p.toNat * 2 ^ 14 + b.toNat * 2 ^ 7 + l.toNat))
  | .waitt n => some (encX 0 0x10 n.toNat)
  | .hsig k => some (encX 0 0x11 k.toNat)
  | .uhsig k => some (encX 1 0x11 k.toNat)
  | .ordb m => some (encX 0 0x12 m.toNat)
  | .orde => some (encX 0 0x13 0)
  | .frete => some (encX 0 0x14 0)
  | .halt => some (encX 1 0x20 0)
  | .at i => some (encX 1 0x21 i.toNat)
  | .atv n => some (encX 1 0x22 n.toNat)
  | .waitc => some (encX 1 0x23 0)
  | .tune i => some (encX 1 0x24 i.toNat)
  | .waveIssueTurn _ _ | .resultArrival _ _ _ | .deferredResultArrival _ _ _ | .trapGroupSave _ | .trapRecordPost _
  | .relIncrement _ | .mwaitWake _ _ | .bankRequest _ | .localStoreRequest _ | .bankRetentionEntry _ _
  | .correctionWriteback _ | .elogack _ _ | .einjWrite _ _ | .fdlogack _ | .fretCommit _ | .hostSubmission _ _
  | .intakeCardRead _ | .cardDispatch _ | .groupPlacement _ _ | .stealRequest _ _ | .stealRetryTimer _ _
  | .terminationTokenPass _ | .cardCompletion _ | .hostRecordPost _ | .deadlineEvent _ | .preemption _ | .groupRestore _
  | .copyPieceTransfer _ _ | .faultRecordPost _ | .fqverdRetry _ _ | .fqverdFail _ _ | .translationWalk _ _ _ _
  | .matrixCommandStart _ | .matrixCommandCompletion _ _ | .stampedCommandStart _ _ | .flitSourceRead _ _
  | .flitSend _ _ | .flitLanding _ | .collision _ _ | .linkError _ _ | .bestEffortFlit _ | .haltNotice _ | .lockedHalt _
  | .receiveWindowClose _ | .domainControlMessage _ | .mappingUpdate | .holdRequest _ | .holdAnnounce | .holdStart
  | .holdEnd | .tuneInsertionEnd _ | .tuneMismatch _ | .ptpMessage _ | .timebaseEvent _ _ | .portFailure _
  | .packetDelivery _ | .rdmaWrite _ | .rdmaRead _ | .rdmaAtomicRequest _ | .neighbourSolicitation _
  | .qpRetryExhausted _ | .qdescStateRun _ | .qdescStateOff _ | .stripStart _ | .stripDeadline _ | .binningPrimitive _
  | .primaryRayTrace _ _ | .tileVisibilityFinal _ _ | .rayRest _ | .textureServe _ _ _ | .tableStoreLoad _
  | .entrySkip _ | .displayLineFetch _ | .encoderStripCopy _ | .tileRowCode _ _ | .rdoffWrite _ _ | .ringcfgEnable _
  | .ringcfgDisable _ | .qcfgEnable _ | .stplValid _ | .stplWithdraw _ | .pcfgEnable _ | .teardown _ | .mownWrite _ _
  | .scrubComplete _ | .tlbinv _ | .tlbinvComplete _ | .tbcfgWrite _ | .qpctxState _ _ | .channelShare _ _
  | .registerWrite _ _ _ | .regrd | .regwr | .attest | .locate | .grpctlResume | .killgroup | .killcard | .preempt
  | .dplink | .memwr | .memrd | .checkpointAnnounce | .checkpoint | .checkpointEnd | .checkpointFlit _
  | .heartbeatMiss _ | .recovery | .powerMeasurement _ | .throttleRestore | .bringUp | .childCardRead _ | .tileStart _ _
  | .launchStartCycle _ | .teardownComplete _ | .functionLevelReset | .connectionManagementMessage _ => none

/-- The register field at bits [lo+6:lo]. -/
def regAt (w lo : Nat) : Reg := BitVec.ofNat 7 (w / 2 ^ lo)

/-- A-class words (Tables 02-2 to 02-4). -/
def readA (u : Bool) (w op : Nat) : Except DecodeError Instr :=
  let d := regAt w 14; let a := regAt w 7; let b := regAt w 0; let fn := w % 128
  let mk {α : Type} (x : Option α) (k : α → Instr) : Except DecodeError Instr :=
    match x with | some y => .ok (k y) | none => .error .unassignedFunction
  match ofCode IntOp.table 0 op, ofCode DivOp.table 0x18 op, ofCode CmpOp.table 0x20 op with
  | some o, _, _ => .ok (if u then .uintArithLogic o d a b else .intArithLogic o d a b)
  | _, some o, _ => .ok (if u then .udivRem o d a b else .divRem o d a b)
  | _, _, some o => .ok (if u then .usetCompare o d a b else .setCompare o d a b)
  | none, none, none =>
    match op, u with
    | 0x1C, false => .ok (.sel d a b)
    | 0x1C, true => .ok (.usel d a b)
    | 0x30, false => mk (ofCode UnaryFn.table 0 fn) (.unary · d a)
    | 0x30, true => mk (ofCode UnaryFn.table 0 fn) (.uunary · d a)
    | 0x40, false => .ok (.shfl .idx d a b)
    | 0x41, false => .ok (.shfl .xor d a b)
    | 0x42, false => .ok (.shfl .up d a b)
    | 0x43, false => .ok (.shfl .down d a b)
    | 0x44, false => .ok (.bcast d a b)
    | 0x45, false => mk (ofCode VoteFn.table 0 fn) (.vote · d a)
    | 0x46, false => .ok (.matchv false d a)
    | 0x47, false => .ok (.matchv true d a)
    | 0x48, false => mk (ofCode WaveFn.table 0 fn) (.wred · d a)
    | 0x49, false => mk (ofCode WaveFn.table 0 fn) (.wscan · d a)
    | 0x4A, false => mk (ofCode QswzFn.table 0 fn) (.qswz · d a)
    | 0x60, false => .ok (.rds d b)
    | 0x60, true => .ok (.urds d b)
    | 0x61, false => .ok (.wrs a b)
    | 0x61, true => .ok (.uwrs a b)
    | 0x62, false => .ok (.flgrd d)
    | 0x62, true => .ok (.uflgrd d)
    | _, _ => .error .unassignedOp

/-- F-class words (Tables 02-5 and 02-6). -/
def readF (u : Bool) (w op : Nat) : Except DecodeError Instr :=
  let d := regAt w 14; let a := regAt w 7; let b := regAt w 0; let fn := w % 128
  let mk {α : Type} (x : Option α) (k : α → Instr) : Except DecodeError Instr :=
    match x with | some y => .ok (k y) | none => .error .unassignedFunction
  match ofCode FpOp.table 0 op, ofCode FpOp.table 0x10 op with
  | some o, _ => .ok (if u then .ufp32Arith o d a b else .fp32Arith o d a b)
  | _, some o => .ok (if u then .ufp64Arith o d a b else .fp64Arith o d a b)
  | none, none =>
    match ofCode FpCmp.table 0x30 op, ofCode FpCmp.table 0x34 op with
    | some c, _ => .ok (if u then .ufpCompare false c d a b else .fpCompare false c d a b)
    | _, some c => .ok (if u then .ufpCompare true c d a b else .fpCompare true c d a b)
    | none, none =>
      match op, u with
      | 0x20, false => .ok (.packedHalf .hadd d a b)
      | 0x21, false => .ok (.packedHalf .hmul d a b)
      | 0x22, false => .ok (.packedHalf .hfma d a b)
      | 0x23, false => .ok (.packedHalf .badd d a b)
      | 0x24, false => .ok (.packedHalf .bmul d a b)
      | 0x25, false => .ok (.packedHalf .bfma d a b)
      | 0x26, false => .ok (.dot4 .e4m3 d a b)
      | 0x27, false => .ok (.dot4 .e5m2 d a b)
      | 0x28, false => .ok (.dot4 .i8 d a b)
      | 0x40, false => mk (ofCode FpFn.table 0 fn) (.fp32Function · d a)
      | 0x40, true => mk (ofCode FpFn.table 0 fn) (.ufp32Function · d a)
      | 0x41, false => mk (ofCode FpFn.table 0 fn) (.fp64Function · d a)
      | 0x41, true => mk (ofCode FpFn.table 0 fn) (.ufp64Function · d a)
      | 0x48, false => mk (CvtCode.ofCode fn) (.cvt · d a)
      | 0x48, true => mk (CvtCode.ofCode fn) (.ucvt · d a)
      | 0x49, false => .ok (.pack .half d a b)
      | 0x4A, false => .ok (.pack .bfloat d a b)
      | 0x4B, false => .ok (.pack .e4m3 d a b)
      | 0x4C, false => .ok (.pack .e5m2 d a b)
      | 0x4D, false => .ok (.fscl false d a b)
      | 0x4D, true => .ok (.ufscl false d a b)
      | 0x4E, false => .ok (.fscl true d a b)
      | 0x4E, true => .ok (.ufscl true d a b)
      | _, _ => .error .unassignedOp

/-- E-class lane words (Table 02-7, P = 0). -/
def readE (w op : Nat) : Except DecodeError Instr :=
  let d := regAt w 14; let a := regAt w 7; let b := regAt w 0
  match ofCode AtomOp.table 0x40 op, ofCode AtomOp.table 0x50 op, ofCode AtomOp.table64 0x70 op, ofCode AtomOp.table64 0x78 op with
  | some o, _, _, _ => .ok (.atom o d a b)
  | _, some .exch, _, _ => .error .unassignedOp
  | _, some o, _, _ => .ok (.red o a b)
  | _, _, some o, _ => .ok (.atom64 o d a b)
  | _, _, _, some o => .ok (.red64 o a b)
  | none, none, none, none =>
    match op with
    | 0x00 => .ok (.ldgxStsx .ldgx d a b)
    | 0x01 => .ok (.ldgxStsx .stgx d a b)
    | 0x02 => .ok (.ldgxStsx .ldsx d a b)
    | 0x03 => .ok (.ldgxStsx .stsx d a b)
    | 0x08 => .ok (.owr (BitVec.ofNat 4 (w / 2 ^ 14)) a b)
    | 0x09 => .ok (.ord d a b)
    | 0x10 => .ok (.sample d a b)
    | 0x11 => .ok (.samplel d a b)
    | 0x12 => .ok (.sampleg d a b)
    | 0x13 => .ok (.gath4 d a b)
    | 0x14 => .ok (.txq d a b)
    | 0x18 => .ok (.trace d a b)
    | 0x19 => .ok (.resume d a b)
    | 0x1A => .ok (.hitr d a b)
    | 0x1C => .ok (.qsamp d a b)
    | 0x1D => .ok (.qraw d a b)
    | 0x1E => .ok (.qsampd d a b)
    | 0x20 => .ok (.visq d b)
    | 0x21 => .ok (.pixw a b)
    | 0x22 => .ok (.srate a b)
    | 0x60 => .ok (.cas false d a b)
    | 0x61 => .ok (.cas true d a b)
    | 0x68 => .ok (.tkarg d a b)
    | _ => .error .unassignedOp

/-- E-class uniform words (Table 02-7, P = 1). -/
def readEU (w op : Nat) : Except DecodeError Instr :=
  let d := regAt w 14; let a := regAt w 7; let b := regAt w 0
  let k := BitVec.ofNat 4 (w / 2 ^ 14); let t := BitVec.ofNat 5 (w / 2 ^ 14)
  match op with
  | 0x00 => .ok (.cpy a)
  | 0x01 => .ok (.cpyg a b)
  | 0x02 => .ok (.cpys a b)
  | 0x03 => .ok (.close d)
  | 0x04 => .ok (.waitb d b)
  | 0x10 => .ok (.ores k a b)
  | 0x11 => .ok (.orel k)
  | 0x12 => .ok (.mma t a b)
  | 0x13 => .ok (.mmac t a b)
  | 0x14 => .ok (.azero t)
  | 0x15 => .ok (.adrain t a b)
  | 0x16 => .ok (.aload t a b)
  | 0x17 => .ok (.msync b)
  | 0x20 => .ok (.hwait k b)
  | 0x28 => .ok (.send d a b)
  | 0x29 => .ok (.recv d a b)
  | 0x2A => .ok (.nqack a b)
  | 0x2B => .ok (.nqrst a b)
  | 0x30 => .ok (.enq d a b)
  | 0x31 => .ok (.tkspawn d a b)
  | 0x38 => .ok (.rslot d)
  | 0x39 => .ok .rpub
  | 0x3A => .ok .rrel
  | 0x40 => .ok (.qtab (BitVec.ofNat 2 (w / 2 ^ 14)) a b)
  | 0x41 => .ok (.qseed (BitVec.ofNat 2 (w / 2 ^ 14)) a)
  | _ => .error .unassignedOp

/-- I-class words (Table 02-9). -/
def readI (u : Bool) (w : Nat) : Except DecodeError Instr :=
  let d := regAt w 16; let imm := BitVec.ofNat 16 w
  match ofCode ImmOp.table 0 (w / 2 ^ 23 % 32) with
  | some o => .ok (if u then .uimmediate o d imm else .immediate o d imm)
  | none => .error .unassignedOp

/-- M-class words (Table 02-10). -/
def readM (u : Bool) (w : Nat) : Except DecodeError Instr :=
  let d := regAt w 17; let a := regAt w 10; let off := BitVec.ofNat 10 w
  match w / 2 ^ 24 % 16, u with
  | 0, false => .ok (.ldg false d a off)
  | 0, true => .ok (.uldg false d a off)
  | 1, false => .ok (.stg false d a off)
  | 1, true => .ok (.ustg false d a off)
  | 2, false => .ok (.ldg true d a off)
  | 2, true => .ok (.uldg true d a off)
  | 3, false => .ok (.stg true d a off)
  | 3, true => .ok (.ustg true d a off)
  | 4, false => .ok (.lds .w1 d a off)
  | 4, true => .ok (.ulds .w1 d a off)
  | 5, false => .ok (.sts .w1 d a off)
  | 5, true => .ok (.usts .w1 d a off)
  | 6, false => .ok (.lds .w2 d a off)
  | 6, true => .ok (.ulds .w2 d a off)
  | 7, false => .ok (.sts .w2 d a off)
  | 7, true => .ok (.usts .w2 d a off)
  | 8, false => .ok (.lds .w4 d a off)
  | 8, true => .ok (.ulds .w4 d a off)
  | 9, false => .ok (.sts .w4 d a off)
  | 9, true => .ok (.usts .w4 d a off)
  | 10, false => .ok (.spl d a off)
  | 10, true => .ok (.uspl d a off)
  | 11, false => .ok (.sps d a off)
  | 11, true => .ok (.usps d a off)
  | 12, false => .ok (.mwait d a off)
  | _, _ => .error .unassignedOp

/-- B-class words (Table 02-11). -/
def readB (u : Bool) (w : Nat) : Except DecodeError Instr :=
  let a := regAt w 17; let off := BitVec.ofNat 17 w
  match w / 2 ^ 24 % 16, u with
  | 0, false => .ok (.braBrz false a off)
  | 0, true => .ok (.ubraUbrz false a off)
  | 1, false => .ok (.braBrz true a off)
  | 1, true => .ok (.ubraUbrz true a off)
  | 2, false => .ok (.jmp off)
  | 2, true => .ok (.ujmp off)
  | 3, false => .ok (.call a off)
  | 3, true => .ok (.ucall a off)
  | 4, false => .ok (.ret a)
  | 4, true => .ok (.uret a)
  | 5, false => .ok (.mark off)
  | 6, true => .ok (.uloop a off)
  | _, _ => .error .unassignedOp

/-- X-class words (Table 02-12). -/
def readX (u : Bool) (w op : Nat) : Except DecodeError Instr :=
  let a := regAt w 7; let b := regAt w 0; let c := regAt w 14
  let k := BitVec.ofNat 4 w; let imm := BitVec.ofNat 16 w
  let fence (x : Scope → Instr) : Except DecodeError Instr :=
    match ofCode Scope.table 0 (w % 8) with | some s => .ok (x s) | none => .error .unassignedFunction
  match op, u with
  | 0x00, false => .ok .nop
  | 0x00, true => .ok .unop
  | 0x01, false => .ok .exit
  | 0x02, false => .ok (.trap imm)
  | 0x02, true => .ok (.utrap imm)
  | 0x03, false => .ok (.brk imm)
  | 0x03, true => .ok (.ubrk imm)
  | 0x04, false => .ok .join
  | 0x05, false => .ok .regang
  | 0x08, false => .ok (.bar k)
  | 0x09, false => .ok (.bara k)
  | 0x0A, false => .ok (.barw k)
  | 0x0B, false => .ok .gbar
  | 0x0C, false => fence .fence
  | 0x0C, true => fence .ufence
  | 0x0D, false => .ok (.acq a b)
  | 0x0D, true => .ok (.uacq a b)
  | 0x0E, false => .ok (.rel a)
  | 0x0E, true => .ok (.urel a)
  | 0x0F, false => .ok (.bind c a b)
  | 0x0F, true => .ok (.ubind c a b)
  | 0x10, false => .ok (.waitt k)
  | 0x11, false => .ok (.hsig k)
  | 0x11, true => .ok (.uhsig k)
  | 0x12, false => .ok (.ordb (w % 2 == 1))
  | 0x13, false => .ok .orde
  | 0x14, false => .ok .frete
  | 0x20, true => .ok .halt
  | 0x21, true => .ok (.at (BitVec.ofNat 21 w))
  | 0x22, true => .ok (.atv b)
  | 0x23, true => .ok .waitc
  | 0x24, true => .ok (.tune imm)
  | _, _ => .error .unassignedOp

/-- The instruction whose used fields a word holds; unused fields are not looked at yet. -/
def readFields (w : Nat) : Except DecodeError Instr :=
  let u := w / 2 ^ 31 % 2 == 1
  let op := w / 2 ^ 21 % 128
  match w / 2 ^ 28 % 8 with
  | 0 => readA u w op
  | 1 => readF u w op
  | 2 => if u then readEU w op else readE w op
  | 3 => .error .reservedClass
  | 4 => readI u w
  | 5 => readM u w
  | 6 => readB u w
  | _ => readX u w op

/-- The decoder (R66): an assigned, well-formed instruction whose unused fields are all 0. -/
def decode (w : BitVec 32) : Except DecodeError Instr :=
  match readFields w.toNat with
  | .error e => .error e
  | .ok i =>
    if i.wellFormed then
      if encode i = some w then .ok i else .error .unusedField
    else .error .unassignedFunction

/-- The instruction that the decoder reads from an instruction whose bits are w, as the opcode table numbers them: every
instruction is one 32-bit word (R44); an event row has no bits and none is read. -/
def decodeTableWord (nbits w : Nat) : Option Instr :=
  if nbits = 32 then
    match decode (BitVec.ofNat 32 w) with
    | .ok i => some i
    | .error _ => none
  else none

end Sys2Proof
end

