-- ==== Sys2Proof/Machine/Sparse.lean ====
section
/-! DEFINITION. Sparse data by key, as lists in one canonical form: keys strictly rising. A map with a default lists no entry
equal to the default, so that equal contents are equal lists; the byte memory is such a map (`Mem`), whose unlisted bytes read
as 0 (19 R475 steps 4 and 5 write zeros; log entry 7 for host memory). -/

namespace Sys2Proof.Machine

/-- A finite map, keys strictly rising. -/
abbrev Map (α : Type) := List (Nat × α)

/-- The value at a key. -/
def mget {α : Type} (k : Nat) : Map α → Option α
  | [] => none
  | (j, x) :: t => if j = k then some x else mget k t
/-- The map with a key removed. -/
def mdel {α : Type} (k : Nat) : Map α → Map α
  | [] => []
  | (j, x) :: t => if j = k then t else (j, x) :: mdel k t
/-- The map with a key set. -/
def mset {α : Type} (k : Nat) (v : α) : Map α → Map α
  | [] => [(k, v)]
  | (j, x) :: t => if j < k then (j, x) :: mset k v t else if j = k then (k, v) :: t else (k, v) :: (j, x) :: t
/-- The map with the value at a key changed, where there is one. -/
def mupd {α : Type} (k : Nat) (f : α → α) : Map α → Map α
  | [] => []
  | (j, x) :: t => if j = k then (j, f x) :: t else (j, x) :: mupd k f t
/-- A key above every key of the map. -/
def mfresh {α : Type} : Map α → Nat
  | [] => 0
  | (j, _) :: t => max (j + 1) (mfresh t)

/-- Reading a map whose unlisted keys hold a default. -/
def dget {α : Type} (d : α) (k : Nat) (m : Map α) : α := (mget k m).getD d
/-- Writing it: a value equal to the default is not listed. -/
def dset {α : Type} [DecidableEq α] (d : α) (k : Nat) (v : α) (m : Map α) : Map α :=
  if v = d then mdel k m else mset k v m

/-- The keys rise strictly. -/
def rising {α : Type} : Map α → Bool
  | [] => true
  | [_] => true
  | (i, _) :: (j, y) :: t => decide (i < j) && rising ((j, y) :: t)

/-- The byte memory of every array of the module (see `Base`). -/
abbrev Mem := List Host.Cell
/-- Reading one byte. -/
def Mem.byte (m : Mem) (a : Nat) : Byte := dget 0#8 a m
/-- Writing one byte. -/
def Mem.setByte (m : Mem) (a : Nat) (b : Byte) : Mem := dset 0#8 a b m
/-- The canonical form: addresses rise strictly and no listed byte is 0. -/
def Mem.wf (m : Mem) : Bool := rising m && m.all fun c => c.2 != 0#8
/-- Reading n bytes from an address. -/
def Mem.bytes (m : Mem) (a : Nat) : Nat → List Byte
  | 0 => []
  | n + 1 => m.byte a :: Mem.bytes m (a + 1) n
/-- Writing bytes from an address. -/
def Mem.setBytes (m : Mem) (a : Nat) : List Byte → Mem
  | [] => m
  | b :: bs => Mem.setBytes (m.setByte a b) (a + 1) bs
/-- The memory with n bytes from an address zeroed. -/
def Mem.clear (m : Mem) (a n : Nat) : Mem := m.filter fun c => decide (c.1 < a) || decide (a + n ≤ c.1)
/-- Reading n bytes as a little-endian number (00 R7). -/
def Mem.load (m : Mem) (a n : Nat) : Nat := ofBytes (m.bytes a n)
/-- Writing a number as n little-endian bytes. -/
def Mem.store (m : Mem) (a n x : Nat) : Mem := m.setBytes a (toBytes x n)

/-- Where each array of the module begins in the one byte memory. The spec gives these arrays separate address spaces; the
bases only keep them apart (log entry 1). -/
structure Base where
  deriving Repr
namespace Base
/-- LPDDR6 physical address 0 (18 R444). -/
def lpddr : Nat := 0
/-- Host memory (19 R456). -/
def host : Nat := 2 ^ 65
/-- Scratchpad slice of a physical cluster (06 R185): 2 MiB. -/
def slice (c : Nat) : Nat := 2 ^ 66 + c * 2 ^ 21
/-- Local store of a cluster (05 R162): 1 MiB. -/
def local_ (c : Nat) : Nat := 2 ^ 67 + c * 2 ^ 20
/-- Operand buffer of a cluster (10 R288): 1 MiB. -/
def operand (c : Nat) : Nat := 2 ^ 68 + c * 2 ^ 20
/-- Accumulator store of a cluster (10 R288): 512 KiB. -/
def accum (c : Nat) : Nat := 2 ^ 69 + c * 2 ^ 19
/-- Direction-table store of a cluster (16 R414): 32 KiB, and above it the seeds of its slots. -/
def table (c : Nat) : Nat := 2 ^ 70 + c * 2 ^ 17
/-- Stream cache of a control core (09 R270): 16 KiB. -/
def stream (c : Nat) : Nat := 2 ^ 71 + c * 2 ^ 14
/-- Register file of a cluster, for its check bits only (01 R14): 1 MiB. -/
def regs (c : Nat) : Nat := 2 ^ 72 + c * 2 ^ 20
/-- Ray stack store of a cluster, for its check bits only (01 R14, 06 R203). -/
def rayStack (c : Nat) : Nat := 2 ^ 73 + c * 2 ^ 27
/-- The die-wide arrays 0x20 to 0x23, for their check bits only (06 R203): second-level TLB, queue store, binning buffers, line buffers. -/
def dieWide (id : Nat) : Nat := 2 ^ 74 + (id - 0x20) * 2 ^ 27
end Base

end Sys2Proof.Machine
end

