-- ==== Sys2Proof/Machine/State.lean ====
section
/-! DEFINITION. The state of one ZD8-M module as plain data (01_engines_and_ties and the chapters named at each structure), the
reasons a step can stop, and the state after reset. INVENTORY.md lists every field with its rule and its reset value. -/

namespace Sys2Proof.Machine

/-- No fault is needed: every behaviour that the spec gives is a next state. -/
inductive Fault where
  /-- Raised by nobody: the type of faults needs a constructor. Safe. -/
  | none
  deriving DecidableEq, Repr

/-- Why the model has no next state. -/
inductive Refusal where
  /-- The arm of an instruction has no meaning yet. Raised by `exec` only. Safe: nothing is claimed of the instruction. -/
  | notModelled (mnemonic : String)
  /-- An instruction was given to `exec` while no wave and no control core holds the turn. Safe: the machine issues an
  instruction only from an issuer (R44, R81). -/
  | noIssuer
  deriving DecidableEq, Repr

/-! ### Waves and groups (03, 05) -/

/-- An entry of the mark-join stack (R88): a rejoin entry of MARK, or a pending entry of BRA or BRZ. -/
structure StackEntry where
  pc : BitVec 52
  mask : BitVec 32
  rejoin : Bool
  deriving DecidableEq, Repr

/-- What a landing writes (R72, R73, R104). Registers are keyed n·32 + t. -/
inductive LandWhat where
  | regs (vals : List (Nat × Word))
  | setFlags (vals : List (Nat × BitVec 5))
  | rmode (x : BitVec 2)
  | ftz (x : BitVec 4)
  | readFlags (reg : Nat) (mask : BitVec 32)
  deriving DecidableEq, Repr

/-- An uncorrectable error met by a read (R110, R205): syndrome, array id, address. -/
structure EccHit where
  syndrome : Nat
  array : Nat
  addr : Nat
  deriving DecidableEq, Repr

/-- A point that a locked instruction reads at a CYC to come (R286, R424): its register, words and form (0 QRAW, 1 QSAMP, 2 QSAMPD), its thread,
slot and dimension, and the point before the scramble. -/
structure PointRead where
  reg : Nat
  words : Nat
  form : Nat
  thread : Nat
  slot : Nat
  dim : Nat
  raw : Nat
  cyc : Nat
  deriving DecidableEq, Repr

/-- An entry of the pending-landing queue (R105). `waiting` counts the accesses not yet performed, `arrived` is the physical
arrival, `nextFret` marks the results that land at the first slot of the next fret (R231), `acqFail` an ACQ of R236 that read below its
sequence. -/
structure Landing where
  id : Nat
  slot : Nat
  pc : BitVec 52
  width : Nat
  mask : BitVec 32
  what : LandWhat
  raise : List (Nat × BitVec 5)
  waiting : Nat
  arrived : Bool
  nextFret : Bool
  ecc : Option EccHit
  acqFail : Option Nat
  /-- it has landed at the slot where the wave stands, and lands again after the results of R231 if the fret ends here (R105) -/
  again : Bool
  /-- the points of a locked point instruction that have a seed still to come (R424) -/
  points : List PointRead := []
  deriving DecidableEq, Repr

/-- What a deferred instruction asked for (R107): its inputs as read at issue, by thread. -/
inductive DefJob where
  /-- form 0 SAMPLE, 1 SAMPLEL, 2 SAMPLEG, 3 GATH4, 4 TXQ; of each thread the binding's VA, the coordinate words and the four derivatives -/
  | texture (form : Nat) (inputs : List (Nat × Nat × List Nat))
  | trace (rays : List (Nat × Nat))
  | hitr (fn : Nat) (rays : List (Nat × Nat))
  /-- VISQ: its values are made at issue (R380) -/
  | visibility
  deriving DecidableEq, Repr

/-- A deferred counter (R107): the destination registers, the threads, the values once the engine has made them, and whether
they have arrived at the wave. -/
structure Deferred where
  id : Nat
  pc : BitVec 52
  reg : Nat
  words : Nat
  mask : BitVec 32
  job : DefJob
  value : Option (List (Nat × Word))
  arrived : Bool
  raise : List (Nat × BitVec 5)
  ecc : Option EccHit
  /-- words already made, of the threads whose ray has come to rest (R401, R403) -/
  got : List (Nat × Word)
  /-- a translation fault that awaits its verdict, with its address, and the address of one that failed (R397, R407) -/
  fault : Option (Nat × Nat)
  failed : Option Nat
  deriving DecidableEq, Repr

/-- A write that the ordered regime keeps until the commit of the fret (R229). -/
inductive BufWrite where
  | store (addr : Nat) (width : Nat) (data : Nat)
  | atomic (op : AtomOp) (addr width : Nat) (x : Nat) (dest : Option (Nat × Nat × Nat))
  | cas (addr width : Nat) (e x : Nat) (dest : Nat × Nat × Nat)
  | peg (addr : Nat)
  | hsig (k : Nat)
  | bara (k : Nat)
  /-- ENQ and TKSPAWN: address, form, target position; the landing entry and register of the status (R342, R343) -/
  | enq (addr : Nat) (onDie : Bool) (dest : Nat × Nat)
  | spawn (addr : Nat) (onDie : Bool) (target : Nat) (dest : Nat × Nat)
  | qseed (slot stream : Nat)
  /-- NQACK and NQRST: queue descriptor, whether it is a reset, and the value (R265) -/
  | queue (n : Nat) (reset : Bool) (x : Nat)
  /-- RPUB of a launch: its slot is published once what its issuer did before is performed (R433) -/
  | publish (launch : Nat)
  deriving DecidableEq, Repr

/-- A wait of the ordered regime or of a barrier that has been entered (R82, R176, R182, R232). -/
inductive Wait where
  | none
  /-- arrived at BAR k, waiting for its phase -/
  | bar (k : Nat)
  /-- ordered regime: at BAR k or GBAR, the arrival is recorded at the next commit (R229 step 3) -/
  | barPending (k : Nat)
  | gbarPending
  /-- waiting at GBAR, for the given phase of the launch -/
  | gbar (phase : Nat)
  /-- MWAIT's monitor: address, expected value, and whether MWAIT_WAKE has fired -/
  | monitor (addr : Nat) (x : Word) (woken : Bool)
  /-- MWAIT compares again when it next issues, with this pair: its monitor is disarmed (R184), or could not read the word -/
  | look (addr : Nat) (x : Word)
  /-- waiting at REGANG -/
  | regang
  /-- waiting at RSLOT for the slot of the card (R430, R432) -/
  | slot
  /-- any other instruction whose condition was false when it was last looked at -/
  | condition
  deriving DecidableEq, Repr

/-- A ray's place in traversal is `Ray` below; the wave holds the current ray token of each thread (R399). -/
structure Wave where
  /-- v0-v127 of the 32 threads, keyed n·32 + t, default 0 (R17, R49, R161) -/
  regs : Map Word
  /-- sticky FP flags, keyed by thread, default 0 (R71) -/
  fflags : Map (BitVec 5)
  rmode : BitVec 2
  ftz : BitVec 4
  pc : BitVec 52
  active : BitVec 32
  live : BitVec 32
  helper : BitVec 32
  stack : List StackEntry
  /-- slots issued (R81) -/
  slot : Nat
  pend : List Landing
  deferred : List Deferred
  /-- high halves latched by RDS 6 and RDS 8 (R28) -/
  cycHigh : Option Word
  scyHigh : Option Word
  wait : Wait
  /-- barrier tickets, by barrier (R176) -/
  tickets : Map Nat
  skip : Bool
  ended : Bool
  /-- fences issued so far: accesses of different epochs are ordered (R216, R221) -/
  epoch : Nat
  /-- ordered regime: this fret's retired slots, whether the fret has ended here, and its buffered writes (R227-R230) -/
  retired : Nat
  fretEnded : Bool
  /-- the instruction at pc has ended its fret before it and may take its slot now (R232) -/
  fretChecked : Bool
  buffer : List BufWrite
  /-- number of the open batch, unreported status and failed faults by batch (R319, R321) -/
  batch : Nat
  batchBits : Map Nat
  batchFail : Map Nat
  /-- current ray token of each thread, default 0 (R399) -/
  tokens : Map Nat
  /-- threads in an ordered section, and threads that have executed ORDE (R384) -/
  inSection : BitVec 32
  leftSection : BitVec 32
  /-- control core only: stamp base, pending stamp, next issue SCY (R268, R269, R276) -/
  stampBase : DWord
  stamp : Option DWord
  nextIssue : Nat
  /-- instructions issued since the gang was formed, and the pc of the last one (R85, R86) -/
  gangN : Nat
  lastPc : BitVec 52
  /-- this party has trapped in a launch whose other parties still run (R284) -/
  trapped : Bool
  deriving DecidableEq, Repr

def Wave.init : Wave :=
  { regs := [], fflags := [], rmode := 0, ftz := 0, pc := 0, active := 0, live := 0, helper := 0, stack := [], slot := 0,
    pend := [], deferred := [], cycHigh := none, scyHigh := none, wait := .none, tickets := [], skip := false, ended := false,
    epoch := 0, retired := 0, fretEnded := false, fretChecked := false, buffer := [], batch := 1, batchBits := [], batchFail := [], tokens := [], inSection := 0, leftSection := 0,
    stampBase := 0, stamp := none, nextIssue := 0, gangN := 0, lastPc := 0,
    trapped := false }

/-- What a group runs: lane code, or the control stream of a cluster (held as one wave of one thread, R461). -/
inductive GroupKind where | lane | stream
  deriving DecidableEq, Repr

/-- Where a group is in its life (R21, R111, R351, R355). -/
inductive GroupStatus where
  | waiting | resident | halted | stopping | saved | suspended | ended
  deriving DecidableEq, Repr

/-- A cell that a thread of a shading group shades: its top-left pixel in the strip, its fragment's id, and whether the thread is
a helper (R377). -/
structure Cell where
  x : Nat
  y : Nat
  id : Nat
  helper : Bool
  deriving DecidableEq, Repr

/-- What a shading group shades: tile, layer, and the cell of each thread, keyed wave·32 + t; a thread without one is not live. -/
structure Shade where
  tile : Nat
  layer : Nat
  cells : Map Cell
  deriving DecidableEq, Repr

/-- A group: the waves it is made of and what they share. -/
structure Group where
  launch : Nat
  kind : GroupKind
  index : Nat
  cluster : Nat
  /-- first slice (R20) -/
  s0 : Nat
  waves : List Wave
  /-- local-store block and spill run (R162) -/
  gmemBase : Nat
  spillBase : Nat
  /-- argument chunk: first record and count (R338) -/
  chunkBase : Nat
  chunkCount : Nat
  /-- barriers b0-b15: arrival count and phase (R176) -/
  barCount : Map Nat
  barPhase : Map Nat
  /-- locked regime: SCY at which a full barrier's phase completes, by barrier (R178) -/
  barDue : Map Nat
  /-- outside it: the phase of a full barrier completes once the group's writes below this number are performed, by barrier (R178) -/
  barAfter : Map Nat
  status : GroupStatus
  /-- trapped rather than pre-empted (R112) -/
  trapped : Bool
  /-- octets whose gang has parted (R86) -/
  parted : List Nat
  /-- slot of the context pool of a saved group (R355) -/
  slot : Option Nat
  /-- the token of the device-private bytes of its last save, as the free counter gave it (R356) -/
  priv : Nat
  /-- CYC at which it was placed (R351) -/
  placedAt : Nat
  /-- CYC since which residence is charged (R334) -/
  chargedFrom : Nat
  /-- CYC of the suspension under way (R351) -/
  stopFrom : Option Nat
  /-- GBAR phase the group arrived at (R180, R181) -/
  gbarArrived : Bool
  /-- shading group (R377) -/
  shade : Option Shade
  deriving DecidableEq, Repr

/-! ### Accesses under way (06, 07) -/

/-- What an access does at its bank (R211). -/
inductive ReqKind where
  | load
  /-- a load of the ordered regime, with the value that R230 fixes at its issue -/
  | seen (data : Nat)
  | store (data : Nat)
  | atomic (op : AtomOp) (x : Nat)
  | cas (e x : Nat)
  /-- the locked ACQ's peg read, with its sequence (R236) -/
  | pegRead (seq : Nat)
  /-- a REL increment whose covered writes are all performed (R220) -/
  | pegAdd
  /-- 8 bytes of an ALOAD: the cluster, the command, and the elements of its result that receive the two words (R300, R305) -/
  | tileRead (cluster num low high : Nat)
  /-- a piece word of an ADRAIN, and whether it is poison (R310) -/
  | tileWrite (data : Nat) (poison : Bool)
  deriving DecidableEq, Repr

/-- A request to one bank that has been issued and is not yet performed (R186, R172). -/
structure Req where
  id : Nat
  group : Nat
  wave : Nat
  /-- the landing entry it fills: entry id, register key base, words -/
  land : Option (Nat × Nat × Nat)
  /-- threads whose registers receive the value -/
  targets : List Nat
  step : Nat
  epoch : Nat
  slot : Nat
  /-- the bank's array: local store or scratchpad -/
  local_ : Bool
  addr : Nat
  /-- the on-die address that the instruction gave -/
  onDie : Nat
  width : Nat
  kind : ReqKind
  /-- CYC at which it reaches its bank (R34, R172) -/
  arrive : Nat
  /-- locked regime: the CYC at which it is performed (R235) -/
  due : Option Nat
  pc : BitVec 52
  deriving DecidableEq, Repr

/-- A faulted translation whose record awaits its verdict (R322, R451, R452). `engine` and `acc` are the codes of Table 18-4;
`seq` is the record's number once it is posted. -/
structure FaultRec where
  id : Nat
  part : Nat
  cluster : Nat
  ctx : Nat
  page : Nat
  acc : Nat
  engine : Nat
  seq : Option Nat
  deriving DecidableEq, Repr

/-- A TLB entry (R449): a whole page of one context. -/
structure TlbEntry where
  part : Nat
  ctx : Nat
  base : Nat
  size : Nat
  pa : Nat
  r : Bool
  w : Bool
  x : Bool
  deriving DecidableEq, Repr

/-! ### Copies (11) -/

/-- A copy under way (R312-R317). `form` is 0 CPY, 1 CPYG, 2 CPYS, 3 QTAB (R422). Pieces below `next` and those of `ahead` are complete. -/
structure Copy where
  group : Nat
  wave : Nat
  launch : Nat
  cluster : Nat
  batch : Nat
  pc : BitVec 52
  form : Nat
  src : Nat
  dst : Nat
  xb : Nat
  yr : Nat
  zp : Nat
  sspace : Nat
  dspace : Nat
  fill : Bool
  pg : Nat
  srp : Nat
  drp : Nat
  /-- index array: its on-die address, and its entries once they are read (R317) -/
  idxAddr : Nat
  idx : Option (List Nat)
  /-- accesses of the issuer that come first (R318) -/
  covers : List Nat
  next : Nat
  ahead : List Nat
  /-- locked regime: SCY of the start (R328) -/
  start : Option Nat
  /-- pieces read and not yet written: data, and the mask of the bytes that are poison (R325) -/
  fetched : Map (List Byte × Nat)
  /-- ordered regime: kept until the commit of its fret; then its place in commit order (R327) -/
  held : Bool
  order : Nat
  /-- remote pieces sent and not yet answered, and the number of those sent on each port (R244, R254, R329) -/
  remote : List Nat
  sent : Map Nat
  /-- locked regime: accesses that were under way when a stop began, by piece, 2^64 for the index array: the CYC of each (R286) -/
  early : Map Nat
  /-- QTAB: pieces that have arrived while the other piece of their dimension has not (R422) -/
  stage : Map (List Byte × Nat)
  deriving DecidableEq, Repr

/-- An entry of a cluster's replay buffer (R322): the copy, the piece, its fault record, and the data of a faulting write with the mask of its poison bytes. -/
structure Replay where
  cluster : Nat
  copy : Nat
  piece : Nat
  fault : Nat
  va : Nat
  data : Option (List Byte × Nat)
  deriving DecidableEq, Repr

/-! ### The matrix engine (10) -/

/-- An operand range record (R292). -/
structure Range where
  gbase : Nat
  gcount : Nat
  fmt : Nat
  sb : Nat
  ss : Nat
  deriving DecidableEq, Repr

/-- A matrix command (R295-R300). -/
inductive MatOp where
  | mma (a b : Range) (pa pb : Nat)
  | mmac (src conv : Nat) (b : Range) (pb : Nat)
  | azero
  | adrain (addr pitch conv : Nat) (pr : Bool)
  | aload (addr pitch : Nat) (pr : Bool)
  deriving DecidableEq, Repr

/-- A matrix command that is not complete (R301): `ranges` are the ranges it was issued with, `stamp` its SCY in a locked launch,
`start` its CYC once started, `result` the words that its completion writes, with their poison, keyed by tile element. -/
structure MatCmd where
  num : Nat
  tile : Nat
  op : MatOp
  names : List Nat
  pc : BitVec 52
  group : Nat
  stamp : Option Nat
  start : Option Nat
  result : Map (Word × Bool)
  flags : BitVec 5
  deriving DecidableEq, Repr

/-- What follows a party's accesses: an increment of 1 (R220, R274), or an update of a ring or packet queue. -/
inductive IncTarget where
  | peg (addr : Nat)
  | handoff (cluster k : Nat)
  /-- the slot of a card is published (R433) -/
  | publish (launch : Nat)
  /-- NQACK and NQRST (R265) -/
  | queue (n : Nat) (reset : Bool) (x : Nat)
  /-- a locked QSEED (R424): cluster, slot, and the 64-bit seed of its card combined with the stream -/
  | seeds (cluster slot z : Nat)
  deriving DecidableEq, Repr

/-- A REL or HSIG whose increment is not yet performed (R220, R274): its target, and the accesses it waits for. -/
structure RelWait where
  id : Nat
  group : Nat
  wave : Nat
  epoch : Nat
  target : IncTarget
  covers : List Nat
  /-- locked regime: the CYC of the increment (R235, R275) -/
  due : Option Nat
  deriving DecidableEq, Repr

/-! ### The raster engine (13) -/

/-- A snapped triangle in the bins (R369-R371): its primitive's id, its three corners (x and y in 1/256 pixel, depth as FP32 bits), and
the FP32 clip coordinates of the primitive's own vertices, for its barycentrics. -/
structure Tri where
  id : Nat
  corners : List (Int × Int × Nat)
  clip : List (List Nat)
  deriving DecidableEq, Repr

/-- A tile whose visibility has started (R374-R377). Samples are keyed (line·32 + column)·4 + sample and default to (+∞, no id);
`hits` holds, of a ray-space hit, the triangle index and the bytes of its instance and triangle as numbers; `fault` awaits a verdict on a primary ray's read, `bad` are the pages of those that failed. -/
structure TileJob where
  cluster : Nat
  samples : Map (Nat × Nat)
  hits : Map (Nat × Nat × Nat)
  traced : Bool
  fault : Option Nat
  bad : List Nat
  final : Bool
  rate : Nat
  /-- shading groups formed and not yet placed, in order; groups not yet ended -/
  pending : List Shade
  open_ : Nat
  done : Bool
  deriving DecidableEq, Repr

/-- A ray-space draw that has been binned (R373): its index, its record, and the instances of its top level that are not skipped, with their
bounds as FP64 encodings. -/
structure RayDraw where
  draw : Nat
  rec_ : Nat
  insts : List (Nat × List Nat)
  deriving DecidableEq, Repr

/-- The raster work of a launch: the strip header as a number (Table 13-1), the next draw and primitive of each binning unit, the
triangles binned, the ray-space draws met with their records, bytes used in the bin buffer and the spill pool, pages asked for, the tiles,
the rates fixed by the task engine and requested by SRATE, the importance bytes (256 for one that cannot be read), the CYC of the strip's
start, the flat words of the draws, and the tiles lowered (R352). -/
structure RasterJob where
  header : Nat
  units : Map (Nat × Nat)
  tris : List Tri
  rayDraws : List RayDraw
  bins : Nat
  pool : Nat
  pages : List Nat
  tiles : Map TileJob
  rates : Map Nat
  req : Map Nat
  importance : List Nat
  start : Nat
  flats : Map Nat
  lowered : List Nat
  /-- the deadline has ended the card's groups (R353) -/
  closed : Bool
  /-- a failed read of the header (log entry 26) -/
  failed : Bool
  made : Nat
  deriving DecidableEq, Repr

/-- A card's claim of a ring slot (R431-R434): slot, result pair, the previous entry's slot, and what has been issued. -/
structure RingClaim where
  slot : Nat
  low : Nat
  high : Nat
  prev : Option Nat
  published : Bool
  released : Bool
  deriving DecidableEq, Repr

/-! ### The ray engine (14) -/

/-- A hit or candidate (R394): parameter t' and barycentrics as FP32 bits, instance, triangle or primitive, facing, procedural, and what
HITR.USER and HITR.OBJ return. -/
structure Hit where
  t : Nat
  u : Nat
  v : Nat
  inst : Nat
  prim : Nat
  front : Bool
  proc : Bool
  user : Nat
  mask : Nat
  dx : Nat
  ox : Nat
  deriving DecidableEq, Repr

/-- A node or leaf still to be visited: the entry parameter of its box as FP32 bits, rounded down and rounded up, the level it belongs to
(0 top, 1 bottom), its kind (1 node, 2 leaf), its index and its depth. -/
structure Visit where
  entry : Nat
  above : Nat
  level : Nat
  kind : Nat
  index : Nat
  depth : Nat
  deriving DecidableEq, Repr

/-- The ray of a thread (R392-R399). `inst` is the instance whose bottom level is being traversed: its index, the object-space origin and
direction (FP32 bits). Status 15 stands for a ray that moves. -/
structure Ray where
  token : Nat
  scene : Nat
  words : List Nat
  status : Nat
  tcur : Nat
  committed : Option Hit
  candidate : Option Hit
  visits : List Visit
  inst : Option (Nat × List Nat × List Nat)
  fault : Option (Nat × Nat)
  group : Nat
  deriving DecidableEq, Repr

/-! ### Heads (17) -/

/-- A ring entry that has closed and is not consumed (R428, R437, R438): frame, strip, and its slot unless it was skipped or killed. -/
structure RingEntry where
  frame : Nat
  strip : Nat
  slot : Option Nat
  /-- an underrun event has been posted for the entry (R437) -/
  underrun : Bool
  deriving DecidableEq, Repr

/-- A head's ring beside RINGCFG (R428, R429): the open entry's frame, the slot last claimed, the entry before the open one (none at
the start, then its slot or none for a skipped one), whether an underrun of the open entry has been posted, the closed entries oldest first, the slots with a late mark, and the launch
that holds each claimed slot. -/
structure Ring where
  frame : Nat
  last : Option Nat
  prev : Option (Option Nat)
  openUnder : Bool
  entries : List RingEntry
  late : List Nat
  holders : Map Nat
  /-- display: frame and line to be fetched next -/
  nextFrame : Nat
  nextLine : Nat
  deriving DecidableEq, Repr

/-- A slice encoder's head (R438-R440): lines of the current frame in its line buffer as pixel words, the frame, lines coded, frames
since the last key frame, whether it stalls, and whether the next temporal unit is a key frame. -/
structure Enc where
  lines : List (List Nat)
  frame : Nat
  coded : Nat
  sinceKey : Nat
  stalled : Bool
  key : Bool
  deriving DecidableEq, Repr

/-! ### The fabric (08) -/

/-- A receive window (R250, R251): `from_` and `close` are SCYs of its launch. -/
structure Window where
  launch : Nat
  port : Nat
  base : Nat
  len : Nat
  src : Nat
  any_ : Bool
  from_ : Nat
  close : Option Nat
  deriving DecidableEq, Repr

/-- Flits of one group dropped for one reason, until the group's last flit has come (R252). `part` is the partition concerned, if any. -/
structure DropAcc where
  port : Nat
  cls : Nat
  src : Nat
  tag : Nat
  part : Option Nat
  reason : Nat
  dst : Nat
  cyc : Nat
  flits : Nat
  deriving DecidableEq, Repr

/-- A SEND that is not complete (R249): `read` holds the flits read and not yet sent, `next` the next to be sent. -/
structure Send where
  launch : Nat
  cluster : Nat
  pc : BitVec 52
  src : Nat
  dst : Nat
  port : Nat
  dest : Nat
  count : Nat
  t : Nat
  read : Map (List Byte × Nat)
  next : Nat
  deriving DecidableEq, Repr

/-! ### Launches and cards (01, 12) -/

/-- A footprint of a card (Table 01-7, Table 01-9). -/
structure Footprint where
  base : Nat
  len : Nat
  flags : Nat
  deriving DecidableEq, Repr

/-- The fields of a job card (Table 01-7). -/
structure Card where
  laneEntry : Nat
  controlEntry : Nat
  argBase : Nat
  argCount : Nat
  argBytes : Nat
  groups : Nat
  wavesPerGroup : Nat
  regs : Nat
  gmemKib : Nat
  spillBytes : Nat
  regime : Nat
  fretLog2 : Nat
  coop : Nat
  priority : Nat
  rectX : Nat
  rectY : Nat
  rectW : Nat
  rectH : Nat
  queue : Nat
  chunkMin : Nat
  head : Nat
  strip : Nat
  flags : Nat
  startTime : Nat
  deadline : Nat
  footprints : List Footprint
  donePeg : Nat
  doneSeq : Nat
  pgt : Nat
  qrt : Nat
  seed : Nat
  reserved : Nat
  deriving DecidableEq, Repr, Inhabited

/-- Where a launch is in its life (R43, R332, R41). -/
inductive LaunchStatus where
  | queued | dispatched | running | halting | halted | completed | rejected | killed
  deriving DecidableEq, Repr

/-- An entry of a process-group table (R260). -/
structure PgtEntry where
  pkg : Nat
  dom : Nat
  pos : Nat
  neighbours : List Nat
  shareBase : Nat
  shareCount : Nat
  deriving DecidableEq, Repr

/-- The slice turns of a locked launch (R84): the SCY of the next turn and the place that had the last one. -/
structure Turn where
  scy : Nat
  last : Option Nat
  deriving DecidableEq, Repr

/-- A termination token and its ring (R345): balances and colours by position, the token's place, colour and sum, and the clean
rounds so far. `pending` counts the spawned children not yet read. -/
structure Tree where
  ring : List Nat
  balance : Map Int
  black : Map Bool
  token : Option Nat
  tokenBlack : Bool
  tokenSum : Int
  clean : Nat
  /-- the CYC at which the token reaches its place (2 cycles a hop) -/
  tokenAt : Nat
  deriving DecidableEq, Repr

/-- What an ordered launch's waiting instructions look at: the bytes, the check patterns, the handoff counters by cluster, and whether its
strip and a slot were there to be claimed, and the GBAR phases completed, as they stood at the end of the last commit (R230, R232). -/
structure Snap where
  mem : Mem
  bad : Map (BitVec 8)
  counters : Map (Map Word)
  slot : Bool
  gbar : Nat
  deriving DecidableEq, Repr

def Tree.init (ring : List Nat) : Tree :=
  { ring := ring, balance := [], black := [], token := none, tokenBlack := false, tokenSum := 0, clean := 0, tokenAt := 0 }

/-- An entry of a binding table (R219): peg, base and length. It is in force for the REL of its `owner` (group and wave) alone, or, with none,
for that of every party; `links` are the barriers, 16 for GBAR, at which the owner has arrived since its BIND. -/
structure PegBinding where
  peg : Nat
  base : Nat
  len : Nat
  owner : Option (Nat × Nat)
  links : List Nat
  deriving DecidableEq, Repr

/-- A launch: one card on this package (R23, R37-R43). -/
structure Launch where
  card : Card
  /-- the card's address as submitted and the space it names (R341, R455) -/
  cardVa : Nat
  onDie : Bool
  part : Nat
  ctx : Nat
  status : LaunchStatus
  /-- place in its queue: cards with a lower number stand ahead of it (R332) -/
  order : Nat
  rank : Nat
  ranks : Nat
  /-- launch tag, neighbours and this package's share (R260); tag 0 without a process-group table -/
  tag : Nat
  pgt : List PgtEntry
  /-- records dealt and groups made so far (R338, R335) -/
  dealt : Nat
  made : Nat
  finished : Nat
  /-- control streams of the rectangle still running -/
  streams : Nat
  /-- cluster of the card's previous group (R335) -/
  lastCluster : Option Nat
  /-- binding table (R219) -/
  bindings : List PegBinding
  /-- bindings of the current fret, in force from the next (R219); length 0 removes the peg's entries -/
  newBindings : List PegBinding
  fret : Nat
  /-- the state at the end of the last commit, or at the start (R230, R232) -/
  snap : Option Snap
  /-- ordered regime: index of the first group of a child card (R343); 0 for any other card -/
  indexBase : Nat
  /-- GBAR phases completed (R180) -/
  gbarPhase : Nat
  /-- start cycle, the SCY at it (0, or that of a checkpoint, R470), and the cycles since that SCY did not count (R27) -/
  start : Option Nat
  scy0 : Nat
  stopped : Nat
  /-- TUNE insertion under way: first CYC and length (R257) -/
  tune : Option (Nat × Nat)
  /-- locked regime: SCY at which the last GBAR arrival completes its phase (R181) -/
  gbarDue : Option Nat
  /-- outside it: the phase that all groups have reached completes once their writes below this number are performed (R180) -/
  gbarAfter : Option Nat
  /-- slice turns, keyed cluster·32 + slice (R84) -/
  turns : Map Turn
  /-- hardware queue that holds the card (R332); none for a child card (R343) and for a card that has left -/
  hwq : Option Nat
  /-- CYC of the domain-wide halt (R283) -/
  haltAt : Option Nat
  /-- CYC at which the receive windows of a halted launch close (R284) -/
  closeAt : Option Nat
  /-- ordered regime: the commit is under way (R229) -/
  committing : Bool
  /-- a trap record of this package stands for the launch (R285) -/
  recorded : Bool
  /-- deadline already answered (R42, R353) -/
  deadlineDone : Bool
  /-- root of the card's tree: itself, or for a child card its root (R343) -/
  root : Nat
  tree : Option Tree
  /-- child card: its target cluster, until its first group is accepted (R344, R345) -/
  target : Option Nat
  /-- ordered regime: groups that have become active (R233) -/
  activated : Nat
  /-- the raster engine's work for a raster-engine card, and a strip card's claim of a slot (R431) -/
  raster : Option RasterJob
  ring : Option RingClaim
  /-- pending TUNE correction in effect (R258), and the TUNEs seen: SCY, n, and the clusters that issued it (R257) -/
  corr : Nat
  /-- changes of the correction announced: CYC of effect and value (R258) -/
  corrNext : List (Nat × Nat)
  tunes : List (Nat × Nat × List Nat)
  /-- stops that have ended: the SCY that stood, and the cycles (R27) -/
  stops : List (Nat × Nat)
  /-- insertions of TUNE: first CYC and cycles (R258) -/
  inserted : List (Nat × Nat)
  /-- cycles that TUNE has inserted (R258), and at the master the TUNEs of the packages: SCY, n, position, and CYC of arrival (R257) -/
  tuned : Nat
  reports : List (Nat × Nat × Nat × Nat)
  deriving DecidableEq, Repr

/-- An entry of a partition's intake (R332): who enters, and the accesses that come before the card is read (R342). -/
structure Intake where
  seq : Nat
  addr : Nat
  onDie : Bool
  ctx : Nat
  covers : List Nat
  deriving DecidableEq, Repr

/-- A spawned child card that has not been read (R343): its root, its form, its target position and its spawner's. -/
structure Child where
  root : Nat
  addr : Nat
  onDie : Bool
  target : Nat
  source : Nat
  covers : List Nat
  deriving DecidableEq, Repr

/-- A card rejected at submission, for the intake entries then behind it (R43): queue field, footprints, and the number below which an
entry was behind it. -/
structure Rejected where
  queue : Nat
  footprints : List Footprint
  below : Nat
  deriving DecidableEq, Repr

/-- The mapping from CYC to PTP time, T(c) = base + (c − cyc)·delta, in units of 2^-40 ns (R242). -/
structure PtpMap where
  cyc : Nat
  base : Nat
  delta : Nat
  deriving DecidableEq, Repr

/-- The table store of a cluster (R414-R417): its holder, the dimensions of each slot, the scr bits, and whether it is loaded.
The words and seeds lie in the array `Base.table`. -/
structure TableStore where
  holder : Option Nat
  dims : List Nat
  scr : Nat
  loaded : Bool
  /-- image translation faults awaiting their verdict (R416) -/
  fault : Option Nat
  failed : Bool
  /-- locked regime: SCY at which the engine's occupancy ends (R422) -/
  busy : Nat
  deriving DecidableEq, Repr

def TableStore.init : TableStore :=
  { holder := none, dims := [0, 0, 0, 0], scr := 0, loaded := true, fault := none, failed := false, busy := 0 }

/-! ### The module -/

/-- A cluster's own parts that no other structure holds (01 Table 01-2). -/
structure Cluster where
  /-- handoff counters h0-h15, default 0 (R272) -/
  h : Map Word
  /-- launch that claims the counters and the control core (R16) -/
  claim : Option Nat
  /-- operand-range records o0-o15 (R292) -/
  ranges : Map Range
  /-- matrix commands not complete, in issue order, the number of the last one issued, the CYC (SCY in a locked launch) at which
  the occupancy of the last one ends, and the flags not yet reported, by command number (R301-R303) -/
  cmds : List MatCmd
  issued : Nat
  matEnd : Nat
  matFlags : Map (BitVec 5)
  /-- locked regime: SCY at which the copy engine's occupancy ends (R278, R328) -/
  copyEnd : Nat
  store : TableStore
  /-- CYC until which a steal request of a card is not repeated, by launch (R339) -/
  stealAfter : Map Nat
  deriving DecidableEq, Repr

def Cluster.init : Cluster :=
  { h := [], claim := none, ranges := [], cmds := [], issued := 0, matEnd := 0, matFlags := [], copyEnd := 0,
    store := TableStore.init, stealAfter := [] }

/-- What a checkpoint holds of a locked launch (R468): the launch as it stood, its SCY, its groups and streams, the clusters it claims,
its receive windows, and the physical ranges of its footprints, stores and local stores with their bytes. -/
structure CkptImage where
  launch : Launch
  scy : Nat
  groups : List (Nat × Group)
  clusters : List (Nat × Cluster)
  windows : List Window
  ranges : List (Nat × Nat)
  cells : Mem
  deriving DecidableEq, Repr

/-- What the master knows of a locked launch that runs on other packages only (R257, R258): its tag, and with tag 0 its package; its start cycle
and start_time, the cycles that its TUNEs have inserted, the correction last announced, its packages, and their TUNEs as in `Launch.reports`. -/
structure Abroad where
  tag : Nat
  pos : Nat
  start : Nat
  startTime : Nat
  tuned : Nat
  corr : Nat
  positions : List Nat
  reports : List (Nat × Nat × Nat × Nat)
  deriving DecidableEq, Repr

/-- A partition's task-engine and fault-queue state (12, 18, 19). -/
structure Part where
  /-- records held for the fault queue, oldest first, each with the fault it speaks of, 0 for none (R451) -/
  heldFaults : List (Nat × List Byte)
  /-- how often the partition's main-memory key pair has been drawn anew (R446; log entry 33) -/
  key : Nat
  /-- the intake, oldest first, and the submission window's drop count (R332, R455) -/
  intake : List Intake
  drops : Nat
  rejected : List Rejected
  /-- context-pool slots in use (R355) -/
  slots : List Nat
  /-- a teardown under way (R453): CYC of the write; groups, cards, pieces and flits dropped; the slices to be zeroed -/
  teardown : Option (List Nat)
  deriving DecidableEq, Repr

def Part.init : Part := { heldFaults := [], key := 0, intake := [], drops := 0, rejected := [], slots := [], teardown := none }

/-- A message to the outside world, oldest first in its list: where it goes and what it says. -/
structure OutMsg where
  port : String
  cyc : Nat
  words : List Nat
  deriving DecidableEq, Repr

/-- The state of the module. -/
structure State where
  /-- CYC (R26) -/
  cyc : Nat
  /-- cycles that pass at coming steps: the model's own input (log entry 4) -/
  elapse : List Nat
  /-- cycles still to pass before the next event that no rule times (log entry 4) -/
  owed : Nat
  /-- a domain hold under way: first CYC and length (R255) -/
  hold : Option (Nat × Nat)
  /-- cycles of the holds and TUNE insertions that have ended: no bank's idle count advanced in them (R189) -/
  frozen : Nat
  /-- coming events and inputs: the model's own input list (log entry 2) -/
  agenda : List Instr
  /-- the issuer whose instruction the next step runs: group and wave -/
  turn : Option (Nat × Nat)
  /-- the slices and control cores, keyed cluster·64 + slice (32 for the core): the CYC until which each is held, and the party that issued
  on it last, group·32 + wave (R81) -/
  sliceHeld : Map (Nat × Nat)
  /-- free values drawn so far: the model's own counter (log entry 6) -/
  free : Nat
  /-- identifiers given so far to accesses, landings and orders: the model's own counter -/
  seq : Nat
  /-- all byte arrays (`Base`) -/
  mem : Mem
  /-- check-bit error pattern of stored words, default 0, keyed by address / 8 (R202) -/
  eccBad : Map (BitVec 8)
  /-- words last written under injection (R209) -/
  injected : Map Bool
  /-- BAR0 registers, by byte offset (Table 19-1) -/
  bar : Mem
  /-- bank state, keyed by `bankOf`: the CYC and the idle-clock time at which the last service ends, default 0, and retention (R188, R189) -/
  bankBusy : Map Nat
  bankIdle : Map Nat
  bankAsleep : Map Bool
  /-- who had a bank last: group, wave, slot and word of the access (R188) -/
  bankLast : Map (Nat × Nat × Nat × Nat)
  /-- correctable words waiting for their write-back, with the CYC of the read that found each (R204) -/
  writebacks : Map Nat
  reqs : List Req
  rels : List RelWait
  /-- key under which a 64-byte line of main memory was last written, by line, where it is not that of its granule's last scrub;
  and that of each granule (R445, R446) -/
  lineKey : Map Nat
  granKey : Map Nat
  /-- second-level TLB, newest first (R449); first-level TLBs hold copies of its entries -/
  tlb : List TlbEntry
  /-- the first-level TLB of each engine of a tile, keyed cluster·16 + engine, most recent first (R449) -/
  tlb1 : Map (List TlbEntry)
  /-- invalidations under way, as the values written to TLBINV, oldest first (R450) -/
  invals : List Nat
  /-- granules being scrubbed, in the order of their MOWN writes, and the CYC at which the first of them started (R445) -/
  scrubs : List Nat
  scrubStart : Nat
  faultRecs : List FaultRec
  copies : Map Copy
  replays : List Replay
  /-- queue served last, by priority (R333) -/
  lastQueue : Map Nat
  children : Map Child
  /-- pre-emption requests that wait for a free slot or a fret boundary, by group, with the fret in which each arrived (R118, R355) -/
  preempts : Map Nat
  /-- rays, keyed (group·32 + wave)·32 + thread (R399) -/
  rays : Map Ray
  windows : List Window
  sends : Map Send
  /-- fabric drop periods in which an event has been posted, by port (R252) -/
  dropSeen : Map Nat
  dropPend : List DropAcc
  /-- scheduled flits that have come and are padded to L_fab (R245) -/
  padded : List Flit
  /-- best-effort flits and packets that have come and wait for their banks, oldest first (R186, R190, R254) -/
  inbox : List Instr
  /-- the scale-up ports: the CYC after that of the last scheduled flit, and the CYC from which the next best-effort flit may leave (R254, R471) -/
  portUsed : Map (Nat × Nat)
  /-- insertions of launches of other packages: first CYC and length (R255) -/
  insertions : List (Nat × Nat)
  /-- master: hold requests not announced; announced holds that have not started, in order (R255) -/
  holdReqs : List Nat
  /-- CYC of the first of those requests (R255) -/
  holdSince : Option Nat
  /-- master: locked launches that run on other packages only (R257, R258) -/
  abroad : List Abroad
  holds : List (Nat × Nat)
  /-- checkpoint announced or under way: first CYC and length, and whether it is void; whether this package has finished its copy; the
  valid images and those of the one under way (R468) -/
  ckpt : Option (Nat × Nat × Bool)
  ckptDone : Bool
  ckptValid : List CkptImage
  ckptNew : List CkptImage
  /-- the lines of the copy under way that are still to be sent, by place in the slot, with the mask of their poison; none before it begins; and
  which of the buddy's two slots it goes to (R468, R469) -/
  ckptOut : Option (List (Nat × List Byte × Nat))
  ckptSlot : Bool
  /-- partition of a head: the one whose rectangle or window its configuration was admitted against -/
  headParts : Map Nat
  rings : Map Ring
  encs : Map Enc
  /-- display heads whose link is driven, and those whose link is trained (R462) -/
  links : List Nat
  trained : List Nat
  /-- doorbell of the mailbox command that waits (R458) -/
  doorbell : Option Nat
  /-- power (R471): measurements of the last 10 µs in mW, slice-clock steps by cluster, whether best-effort traffic is limited, a
  domain hold asked for, and measurements in a row below 95% of the cap -/
  power : List Nat
  clocks : Map Nat
  halfRate : Bool
  powerHold : Bool
  below : Nat
  /-- heartbeats missed in a row, by domain position (R470), and a loss that awaits recovery -/
  missed : Map Nat
  lost : Option Nat
  ptp : PtpMap
  /-- mappings announced, with the CYC at which each takes effect (R242) -/
  ptpNext : List (Nat × PtpMap)
  launches : Map Launch
  groups : Map Group
  parts : Map Part
  clusters : Map Cluster
  /-- records held for the host queues, oldest first: 0 errors, 1 completions, 2 + p the trap queue of partition p (R456) -/
  held : Map (List (List Byte))
  /-- fixed fabric latency and size of the timing domain; 0 and 1 outside a multi-package domain (Table 01-6, R239) -/
  lfab : Nat
  domSize : Nat
  out : List OutMsg
  deriving DecidableEq, Repr

/-- CAPS of a part with every unit enabled (Table 19-3; log entry 9: the fuses are the part's): ncl and nch, port_ok, cl_map, ch_map. -/
def capsReset (b : Mem) : Mem :=
  (((b.store 0x3000 4 (256 + 128 * 2 ^ 16)).store 0x3004 8 (2 ^ 64 - 1)).store 0x300C 32 (2 ^ 256 - 1)).store 0x302C 16 (2 ^ 128 - 1)
/-- BAR0 after reset: status reads 1, PCAP 1,600 (R458, R471), CAPS as fused; every other field resets to 0. -/
def barReset : Mem := (capsReset (Mem.store [] 0 4 1)).store 0x119000 2 1600

/-- The module right after reset. Every array and register that it leaves out is 0; log entries 3 to 10 name what the spec does not
state. -/
def State.reset : State :=
  { cyc := 0, elapse := [], owed := 0, hold := none, frozen := 0, agenda := [], turn := none, sliceHeld := [], free := 0, seq := 0, mem := []
    eccBad := [], injected := [], bar := barReset, bankBusy := [], bankIdle := [], bankAsleep := [], bankLast := [], writebacks := [], reqs := [], rels := []
    lineKey := [], granKey := [], tlb := [], tlb1 := [], invals := [], scrubs := [], scrubStart := 0, faultRecs := [], copies := [], replays := [], lastQueue := []
    children := [], preempts := [], rays := [], windows := [], sends := [], dropSeen := [], dropPend := [], padded := [], inbox := [], portUsed := [], insertions := [], holdReqs := [], holdSince := none, abroad := [], holds := [], ckpt := none, ckptDone := false
    ckptValid := [], ckptNew := [], ckptOut := none, ckptSlot := false, headParts := [], rings := [], encs := [], links := [], trained := [], doorbell := none, power := [], clocks := []
    halfRate := false, powerHold := false, below := 0, missed := [], lost := none
    ptp := { cyc := 0, base := 0, delta := 488671834567 }, ptpNext := [], launches := [], groups := [], parts := [], clusters := []
    held := [], lfab := 0, domSize := 1, out := [] }

end Sys2Proof.Machine
end

