-- ==== Sys2Proof/Machine/Bar.lean ====
section
/-! DEFINITION. Register fields of BAR0 (19 Table 19-1), records of 64 bytes and the host queues (R456, R457), and the geometry of
partitions that the registers give (01 R30-R35, 18 R442). -/

namespace Sys2Proof.Machine

/-- A PTP time (R29) in nanoseconds. -/
def ptpNs (t : Nat) : Nat := t / 2 ^ 32 * 10 ^ 9 + t % 2 ^ 32

namespace State

/-- Bits [hi:lo] of the register at a BAR0 offset (R9), from the bytes that hold them. -/
def barBits (s : State) (off hi lo : Nat) : Nat :=
  bits (s.bar.load (off + lo / 8) (hi / 8 + 1 - lo / 8)) (hi - lo / 8 * 8) (lo % 8)
/-- Writing bits [hi:lo] of the register at a BAR0 offset. -/
def setBar (s : State) (off hi lo v : Nat) : State :=
  { s with bar := s.bar.store off (hi / 8 + 1) (setBits (s.bar.load off (hi / 8 + 1)) hi lo v) }
def barFlag (s : State) (off n : Nat) : Bool := s.barBits off n n == 1

/-- A fresh identifier: the model's own counter. -/
def fresh (s : State) : State := { s with seq := s.seq + 1 }

/-- A message leaves the module. -/
def send (s : State) (port : String) (words : List Nat) : State :=
  { s with out := s.out ++ [{ port := port, cyc := s.cyc, words := words }] }

end State

/-- Offsets of Table 19-1. -/
def qregOff (n : Nat) : Nat := 0x2000 + 32 * n
def pcfgOff (p : Nat) : Nat := 0x100000 + 128 * p
def ctxOff (p c : Nat) : Nat := 0x102000 + 256 * p + 16 * c
def mownOff (n : Nat) : Nat := 0x106000 + n
def tlbinvOff : Nat := 0x106400
def qcfgOff (q : Nat) : Nat := 0x108000 + 32 * q
def stplOff (h : Nat) : Nat := 0x110000 + 64 * h
def ringOff (h : Nat) : Nat := 0x114000 + 64 * h
def encOff (h : Nat) : Nat := 0x118000 + 32 * (h - 4)
def pcapOff : Nat := 0x119000
def buddyOff : Nat := 0x119008
def ckinOff : Nat := 0x119010
def shareOff (p : Nat) : Nat := 0x119040 + p
def qdescOff (n : Nat) : Nat := 0x11A000 + 32 * n
def debugOff (p c : Nat) : Nat := 0x11C000 + 0x80 * (16 * p + c)
def tbcfgOff : Nat := 0x13C000
def portcfgOff : Nat := 0x13D000
def qpctxOff (n : Nat) : Nat := 0x140000 + 64 * n
def mrtabOff (m : Nat) : Nat := 0x150000 + 32 * m
def capsOff : Nat := 0x3000
/-- Error block of an array instance: tile arrays by cluster, die-wide arrays by id (R207). -/
def elogOff (array cluster : Nat) : Nat :=
  if array < 0x20 then 0x1000000 + 0x10000 * cluster + 0x1000 * array else 0x2000000 + 0x1000 * (array - 0x20)
def dropLogOff : Nat := 0x2008000
/-- The error blocks (Tables 06-5, 19-1): arrays 0x01 to 0x08 of each cluster, and the four die-wide ones. -/
def errorBlock (b : Nat) : Bool :=
  b % 0x1000 == 0 && ((decide (0x1000000 ≤ b) && decide (b < 0x2000000) && decide (1 ≤ b / 0x1000 % 16) && decide (b / 0x1000 % 16 ≤ 8)) ||
    (decide (0x2000000 ≤ b) && decide (b < 0x2004000)))

/-- A record of n bytes from its fields (low bit, value). -/
def record (n : Nat) (fields : List (Nat × Nat)) : List Byte := toBytes ((fields.map fun f => f.2 * 2 ^ f.1).foldl (· + ·) 0) n

namespace State

/-- A record waits for its host queue (R456). -/
def holdRec (s : State) (q : Nat) (r : List Byte) : State :=
  { s with held := mset q ((mget q s.held).getD [] ++ [r]) s.held }
def heldOf (s : State) (q : Nat) : List (List Byte) := (mget q s.held).getD []
/-- A trap record is held for a trap queue: before those of the same group and cycle whose wave is higher (R112). -/
def holdTrap (s : State) (q : Nat) (r : List Byte) : State :=
  let wave (x : List Byte) : Nat := ofBytes ((x.drop 5).take 1) % 32
  let place (x : List Byte) : List Byte := (x.drop 32).take 20
  let rs := (mget q s.held).getD []
  let n := rs.findIdx fun x => place x == place r && decide (wave r < wave x)
  { s with held := mset q (rs.take n ++ r :: rs.drop n) s.held }
/-- Records of a queue not yet read by the host. -/
def unread (s : State) (q : Nat) : Nat :=
  (s.barBits (qregOff q) 127 96 + 2 ^ 32 - s.barBits (qregOff q) 159 128) % 2 ^ 32
def queueSize (s : State) (q : Nat) : Nat := 2 ^ s.barBits (qregOff q) 67 64
def queueOpen (s : State) (q : Nat) : Bool := s.barFlag (qregOff q) 68 && decide (s.unread q < s.queueSize q)

/-- The oldest held record of a queue is written and wr advances as one release; then the MSI-X vector is signalled (R456). The
record's number goes to [511:480]. -/
def postHeld (s : State) (q : Nat) : State :=
  match s.heldOf q with
  | [] => s
  | r :: rest =>
    if s.queueOpen q then
      let wr := s.barBits (qregOff q) 127 96
      let at_ := Base.host + s.barBits (qregOff q) 63 0 + 64 * (wr % s.queueSize q)
      let s := { s with mem := (s.mem.setBytes at_ (r.take 60)).store (at_ + 60) 4 wr,
                        held := if rest = [] then mdel q s.held else mset q rest s.held }
      let s := s.setBar (qregOff q) 127 96 (wr + 1)
      s.send "msix" [s.barBits (qregOff q) 182 176]
    else s

/-- An error event: dropped and counted when the enabled error queue has no room for it (R456). -/
def postError (s : State) (r : List Byte) : State :=
  if s.barFlag (qregOff 0) 68 && decide (s.queueSize 0 ≤ s.unread 0 + (s.heldOf 0).length) then
    s.setBar (qregOff 0) 175 160 (min 0xFFFF (s.barBits (qregOff 0) 175 160 + 1))
  else s.holdRec 0 r

/-- A host error record (Table 19-6). -/
def hostError (s : State) (kind : Nat) (part : Option Nat) (info16 info32 addr aux : Nat) : State :=
  s.postError (record 64 [(0, kind), (8, part.getD 0), (14, if part.isNone then 1 else 0), (16, info16 % 2 ^ 16),
    (32, info32 % 2 ^ 32), (64, addr % 2 ^ 64), (128, s.cyc), (192, aux % 2 ^ 64)])

/-! ### Partitions (R30-R35, R442) -/

def partEn (s : State) (p : Nat) : Bool := s.barFlag (pcfgOff p) 34
def partPx (s : State) (p : Nat) : Nat := s.barBits (pcfgOff p) 7 0
def partPy (s : State) (p : Nat) : Nat := s.barBits (pcfgOff p) 15 8
def partPw (s : State) (p : Nat) : Nat := s.barBits (pcfgOff p) 23 16
def partPh (s : State) (p : Nat) : Nat := s.barBits (pcfgOff p) 31 24
def partMesh (s : State) (p : Nat) : Nat := s.barBits (pcfgOff p) 33 32
/-- Cluster c is enabled by the fuses (R473). -/
def tileOk (s : State) (c : Nat) : Bool := s.barFlag capsOff (96 + c)
/-- The tiles of a rectangle inside a partition, in row-major order, by cluster id (R12, R31). -/
def rectTiles (s : State) (p x y w h : Nat) : List Nat :=
  (List.range h).flatMap fun j => (List.range w).map fun i => (s.partPx p + x + i) + 16 * (s.partPy p + y + j)
def partTiles (s : State) (p : Nat) : List Nat := s.rectTiles p 0 0 (s.partPw p) (s.partPh p)
/-- The partition's slices: its enabled tiles (R31). -/
def slices (s : State) (p : Nat) : List Nat := (s.partTiles p).filter s.tileOk
def windowBytes (s : State) (p : Nat) : Nat := (s.slices p).length * 2 ^ 21
/-- All n bytes lie in the scratchpad window (R30). -/
def inWindow (s : State) (p a n : Nat) : Bool :=
  decide (0x40000000 ≤ a) && decide (a + n ≤ 0x40000000 + s.windowBytes p)
/-- Where a byte of the window lies (R31). -/
def windowAddr (s : State) (p a : Nat) : Nat :=
  let o := a - 0x40000000
  Base.slice ((s.slices p).getD (o / 2 ^ 21) 0) + o % 2 ^ 21

/-- The geometry block (Table 01-6). -/
def geometry (s : State) (p : Nat) : Nat :=
  let tiles := s.partTiles p
  let map := ((List.range tiles.length).filter fun j => s.tileOk (tiles.getD j 0)).map fun j => 2 ^ (192 + j)
  p + s.partMesh p * 2 ^ 8 + s.partPx p * 2 ^ 32 + s.partPy p * 2 ^ 40 + s.partPw p * 2 ^ 48 + s.partPh p * 2 ^ 56 +
    (s.slices p).length * 2 ^ 64 + s.lfab * 2 ^ 96 + s.barBits tbcfgOff 31 16 * 2 ^ 128 + s.domSize * 2 ^ 144 +
    map.foldl (· + ·) 0

/-- Distance in one dimension (R34, R35): wrapped only where the mode wraps it and its extent is 3 or more. -/
def dimDist (wrapped : Bool) (w a b : Nat) : Nat :=
  let d := if a ≤ b then b - a else a - b
  if wrapped && decide (3 ≤ w) then min d (w - d) else d
/-- dx + dy of R34 between two tiles of a partition. -/
def dist (s : State) (p c c' : Nat) : Nat :=
  let m := s.partMesh p
  dimDist (m == 1 || m == 2) (s.partPw p) (c % 16) (c' % 16) + dimDist (m == 1 || m == 3) (s.partPh p) (c / 16) (c' / 16)

/-! ### Regimes and SCY (R27) -/


/-- Cycles of a stop (first CYC, length) that have passed since a CYC. -/
def stopSince (s : State) (start : Nat) : Option (Nat × Nat) → Nat
  | none => 0
  | some (from_, len) => min s.cyc (from_ + len) - max from_ start
/-- The time that banks' idle counts keep: CYC without holds and TUNE insertions (R189). -/
def idleClock (s : State) : Nat := s.cyc - s.frozen
/-- SCY of a running locked launch at the present CYC (R27). -/
def scy (s : State) (l : Launch) : Nat :=
  let c := l.start.getD s.cyc
  l.scy0 + (s.cyc - c - l.stopped - s.stopSince c s.hold - s.stopSince c l.tune)
/-- A stop (first CYC, length) is under way. -/
def underWay (s : State) : Option (Nat × Nat) → Bool
  | some (f, n) => decide (f ≤ s.cyc) && decide (s.cyc < f + n)
  | none => false
/-- SCY of a launch stands still: a hold, a checkpoint or an insertion is under way (R27, R286). -/
def scyStands (s : State) (l : Launch) : Bool := s.underWay s.hold || s.underWay l.tune
/-- The cycle of SCY y has come: the SCY at which a stop stands comes at the end of the stop (R27, R256). -/
def scyPast (s : State) (l : Launch) (y : Nat) : Bool := decide (y < s.scy l) || (s.scy l == y && !s.scyStands l)
/-- The CYC of a past SCY, or of a coming one if nothing stops it again. -/
def cycOf (s : State) (l : Launch) (y : Nat) : Nat :=
  if y < s.scy l then
    l.start.getD 0 + (y - l.scy0) + ((l.stops.filter fun e => decide (e.1 ≤ y)).map (·.2)).foldl (· + ·) 0
  else
  let rest : Option (Nat × Nat) → Nat := fun o => match o with
    | none => 0
    | some (f, n) => f + n - s.cyc
  s.cyc + max (rest s.hold) (rest l.tune) + (y - s.scy l)

/-! ### Heads, rings and packet queues (R242, R347, R427, R429, R262) -/

/-- The least CYC whose PTP time, in units of 2^-40 ns, is at or after a given one (R242). -/
def cycOfT (s : State) (x : Nat) : Nat :=
  if x ≤ s.ptp.base then s.ptp.cyc - (s.ptp.base - x) / s.ptp.delta
  else s.ptp.cyc + ceilDiv (x - s.ptp.base) s.ptp.delta
/-- The least CYC at or after a PTP time (R242). -/
def cycOfPtp (s : State) (t : Nat) : Nat := s.cycOfT (ptpNs t * 2 ^ 40)
/-- The PTP time of a CYC, in units of 2^-40 ns (R242). -/
def tOfCyc (s : State) (c : Nat) : Nat :=
  if s.ptp.cyc ≤ c then s.ptp.base + (c - s.ptp.cyc) * s.ptp.delta else s.ptp.base - (s.ptp.cyc - c) * s.ptp.delta

/-- The partition of a head (log entry 12: neither STPL nor RINGCFG names one). -/
def headPart (s : State) (h : Nat) : Nat := dget 0 h s.headParts
/-- The tiles of a head's template (R347). -/
def stplTiles (s : State) (p h : Nat) : List Nat :=
  let b := stplOff h
  s.rectTiles p (s.barBits b 7 0) (s.barBits b 15 8) (s.barBits b 23 16) (s.barBits b 31 24)

/-- The lines of halo of a ring, its slots, and the base of slot k (R427). -/
def halo (s : State) (h : Nat) : Nat := s.barBits (ringOff h) 39 37
def slotBase (s : State) (h k : Nat) : Nat :=
  s.barBits (ringOff h) 31 0 + k * (s.barBits (ringOff h) 46 40 * s.barBits (ringOff h) 79 64)
/-- Strips per frame (R427). -/
def spf (s : State) (h : Nat) : Nat := ceilDiv (s.barBits (ringOff h) 108 96) (s.barBits (ringOff h) 46 40)
/-- The CYC of the scan of line L of frame f of a head (R427). -/
def scanCyc (s : State) (h f line : Nat) : Nat :=
  let b := ringOff h
  s.cycOfT (ptpNs (s.barBits b 239 160) * 2 ^ 40 + (f * s.barBits b 303 288 + line) * s.barBits b 287 256 * 2 ^ 24)
/-- D(f, s): the deadline of a strip as a CYC (R427). -/
def stripDue (s : State) (h f strip : Nat) : Nat :=
  s.scanCyc h f (strip * s.barBits (ringOff h) 46 40) - s.barBits (ringOff h) 351 320
/-- State of slot k: 0 EMPTY, 1 FILLING, 2 PUBLISHED, 3 CONSUMED, 4 HALO (Table 17-2), and its rel mark. -/
def slotState (s : State) (h k : Nat) : Nat := s.barBits (ringOff h) (386 + 4 * k) (384 + 4 * k)
def relMark (s : State) (h k : Nat) : Bool := s.barFlag (ringOff h) (387 + 4 * k)
def setSlot (s : State) (h k x : Nat) : State := s.setBar (ringOff h) (386 + 4 * k) (384 + 4 * k) x
def setRelMark (s : State) (h k : Nat) (b : Bool) : State := s.setBar (ringOff h) (387 + 4 * k) (387 + 4 * k) b.toNat
/-- CONSUMED passes on in the same cycle (R429). -/
def consumeSlot (s : State) (h k : Nat) : State := s.setSlot h k (if 0 < s.halo h ∧ !s.relMark h k then 4 else 0)
def updRing (s : State) (h : Nat) (f : Ring → Ring) : State := { s with rings := mupd h f s.rings }
/-- The launch that claimed a slot last. -/
def slotHolder (s : State) (h k : Nat) : Option Nat := (mget h s.rings).bind fun r => mget k r.holders
/-- A slot in FILLING is published; with the late mark it is consumed at once (R429). -/
def publishSlot (s : State) (h k : Nat) : State :=
  if s.slotState h k ≠ 1 then s else
  match mget h s.rings with
  | none => s
  | some r => if r.late.contains k then (s.updRing h fun r => { r with late := r.late.filter (· != k) }).consumeSlot h k
              else s.setSlot h k 2
/-- RREL of a slot (R434). -/
def releaseSlot (s : State) (h k : Nat) : State :=
  if s.slotState h k = 4 then s.setSlot h k 0
  else if s.slotState h k = 0 then s
  else s.setRelMark h k true

/-- The update of a packet queue's read index by NQACK and NQRST (Table 08-10). A queue that has left ERR since the check of NQRST keeps its
state (Table 08-8; log entry 118). -/
def queueUpdate (s : State) (n : Nat) (reset : Bool) (x : Nat) : State :=
  let b := qdescOff n
  if reset then
    let t := s.setBar b 127 96 x
    if s.barBits b 41 40 = 2 then t.setBar b 41 40 1 else t
  else s.setBar b 127 96 (s.barBits b 127 96 + x)

end State

/-- The step of bring-up in progress (R458). -/
def bringUpStep (s : State) : Nat := s.bar.load 0 4
/-- The partition manager accepts configuration in step 9 of bring-up (R475): a write before it has no effect. -/
def configured (s : State) (t : Option State) : State := if bringUpStep s = 9 then t.getD s else s
/-- This package's position in its domain, and whether it is the timebase master (Table 19-13, R239, R240). -/
def isMaster (s : State) : Bool := s.barFlag tbcfgOff 0 || decide (s.domSize ≤ 1)
/-- The package's position in its domain: 0 in no multi-package domain (R464). -/
def ownPos (s : State) : Nat := if s.domSize ≤ 1 then 0 else s.barBits tbcfgOff 15 8

end Sys2Proof.Machine
end

