-- ==== Sys2Proof/Machine/Ecc.lean ====
section
/-! DEFINITION. Memory arrays with check bits (06 R202-R209): every read passes its corrector, every write its injector, every
error its log. The check bits are held as an error pattern: stored check bits XOR the check bits of the stored data, 0 when the
word is good. -/

namespace Sys2Proof.Machine

/-- Code positions of the 64 data bits: the integers from 3 that are not powers of two (R202). -/
def eccPositions : List Nat := ((List.range 72).filter fun n => decide (3 ≤ n) && n != 2 ^ Nat.log2 n)

/-- The check bits of a data word: c_0 to c_6, and c_7 the parity of all (R202). The code is linear. -/
def checkBits (x : Nat) : BitVec 8 :=
  let ps := (eccPositions.zipIdx).filter fun e => bit x e.2
  let low := (ps.map (·.1)).foldl Nat.xor 0
  let par := ((List.range 7).filter (bit low)).length + ps.length
  BitVec.ofNat 8 (low + 128 * (par % 2))

/-- The syndrome of an error pattern (R202): s[7] is the parity of all 72 stored bits. -/
def syndromeOf (e : BitVec 8) : Nat :=
  e.toNat % 128 + 128 * (((List.range 8).filter (bit e.toNat)).length % 2)

/-- What the corrector finds (Table 06-4). -/
inductive EccClass where
  | good
  | checkBit
  | dataBit (i : Nat)
  | bad
  deriving DecidableEq, Repr

def classify (syn : Nat) : EccClass :=
  let low := syn % 128
  if syn = 0 then .good
  else if syn < 128 then .bad
  else if low = 0 || low == 2 ^ Nat.log2 low then .checkBit
  else if low ≤ 71 then .dataBit (eccPositions.findIdx (· == low))
  else .bad

/-- The array of an address: id of Table 06-5, cluster, byte offset; none for main and host memory. -/
def arrayOf (a : Nat) : Option (Nat × Nat × Nat) :=
  let r (lo sh id : Nat) : Option (Nat × Nat × Nat) := some (id, (a - lo) / 2 ^ sh, (a - lo) % 2 ^ sh)
  if a < 2 ^ 66 then none
  else if a < 2 ^ 67 then r (2 ^ 66) 21 5
  else if a < 2 ^ 68 then r (2 ^ 67) 20 2
  else if a < 2 ^ 69 then r (2 ^ 68) 20 3
  else if a < 2 ^ 70 then r (2 ^ 69) 19 4
  else if a < 2 ^ 71 then r (2 ^ 70) 17 6
  else if a < 2 ^ 72 then r (2 ^ 71) 14 8
  else if a < 2 ^ 73 then r (2 ^ 72) 20 1
  else if a < 2 ^ 74 then r (2 ^ 73) 27 7
  else if a < 2 ^ 74 + 2 ^ 29 then some (0x20 + (a - 2 ^ 74) / 2 ^ 27, 0, a % 2 ^ 27)
  else none

namespace State

/-- The owner of an array instance (R206): the partition of its cluster; a die-wide array is partition 0's (log entry 107). -/
def arrayOwner (s : State) (array cluster : Nat) : Nat :=
  if 0x20 ≤ array then 0
  else ((List.range 64).find? fun p => s.partEn p && (s.partTiles p).contains cluster).getD 0
/-- A record joins the log of an error block at index next (R207): before those of the same cycle that have higher addresses. -/
def elogInsert (s : State) (b off : Nat) (r : List Byte) : State :=
  let next := s.barBits (b + 0x400) 10 6
  let at_ (i : Nat) : Nat := b + 0x20 * ((next + 32 - i) % 32)
  let later (i : Nat) : Bool := decide (off < s.bar.load (at_ i + 8) 8) && s.bar.load (at_ i + 16) 8 == s.cyc
  let n := (((List.range (min 31 (s.barBits (b + 0x400) 5 0))).map (· + 1)).takeWhile later).length
  let bar := (List.range n).foldl (fun (m : Mem) i => m.setBytes (at_ i) (m.bytes (at_ (i + 1)) 32)) s.bar
  { s with bar := bar.setBytes (at_ n) r }

/-- A new record in an array's log (R206, R207); an uncorrectable one that is not refetched also posts an event (R208). -/
def elogPut (s : State) (array cluster off syn : Nat) (corrected poisoned injected refetched : Bool) (who : Option (Nat × Nat)) :
    State :=
  let b := elogOff array cluster
  let next := s.barBits (b + 0x400) 10 6
  let count := s.barBits (b + 0x400) 5 0
  let part := (who.map (·.1)).getD (s.arrayOwner array cluster)
  let cl := if array < 0x20 then cluster else 0xFF
  let f (x : Bool) := if x then 1 else 0
  let r := record 32 [(0, array), (8, syn), (16, f corrected), (17, f poisoned), (18, f injected), (19, f refetched),
    (20, (who.map (·.2)).getD 0xF), (24, part), (32, cl), (64, off), (128, s.cyc)]
  let s := s.elogInsert b off r
  let s := s.setBar (b + 0x400) 10 6 ((next + 1) % 32)
  let s := if count < 32 then s.setBar (b + 0x400) 5 0 (count + 1)
    else s.setBar (b + 0x400) 31 16 (min 0xFFFF (s.barBits (b + 0x400) 31 16 + 1))
  if corrected then s else
    let s := s.setBar (b + 0x400) 32 32 1
    if refetched then s else
      s.hostError 0x72 (who.map (·.1)) (array + 256 * syn) cl off (f poisoned + 2 * f injected)

/-- The error pattern of the stored word that holds an address. -/
def badAt (s : State) (a : Nat) : BitVec 8 := dget 0#8 (a / 8) s.eccBad

/-- Reading the aligned 8-byte word that holds an address: its (corrected) value, and the hit when it is uncorrectable (R204,
R205). `who` is the reader's partition and context. -/
def readWord (s : State) (a : Nat) (who : Option (Nat × Nat)) : Nat × Option EccHit × State :=
  let w := a / 8 * 8
  let x := s.mem.load w 8
  let e := s.badAt a
  if e = 0#8 then (x, none, s) else
  match arrayOf w with
  | none => (x, none, s)
  | some (id, cl, off) =>
    let syn := syndromeOf e
    let inj := dget false (a / 8) s.injected
    let fixed (y : Nat) : Nat × Option EccHit × State :=
      let s := s.elogPut id cl off syn true false inj false who
      (y, none, { s with writebacks := if (mget w s.writebacks).isSome then s.writebacks else mset w s.cyc s.writebacks })
    match classify syn with
    | .good => (x, none, s)
    | .checkBit => fixed x
    | .dataBit i => fixed (Nat.xor x (2 ^ i))
    | .bad =>
      let s := if syn = 0xFF then s else s.elogPut id cl off syn false false inj false who
      (x, some { syndrome := syn, array := id, addr := off }, s)

/-- Reading n bytes at an address through the corrector, word by word. -/
def readMem (s : State) (a : Nat) : Nat → Option (Nat × Nat) → List Byte × Option EccHit × State
  | 0, _ => ([], none, s)
  | n + 1, who =>
    let (bs, h, s) := s.readMem a n who
    let b := a + n
    let (x, h', s) := if n = 0 || b % 8 == 0 then s.readWord b who else
      -- the same word as the byte before it: already checked
      (match s.badAt b with
        | e => match classify (syndromeOf e) with
          | .dataBit i => Nat.xor (s.mem.load (b / 8 * 8) 8) (2 ^ i)
          | _ => s.mem.load (b / 8 * 8) 8, none, s)
    (bs ++ [BitVec.ofNat 8 (x / 256 ^ (b % 8))], h.orElse fun _ => h', s)

/-- The injection register of an array instance, when it is armed for a word (R209): masks. -/
def injectorFor (s : State) (w : Nat) : Option (Nat × Nat × Nat) :=
  match arrayOf w with
  | none => none
  | some (id, cl, off) =>
    let b := elogOff id cl + 0x410
    if s.barFlag b 72 && (s.barFlag b 74 || s.barBits b 119 96 == off / 8) then
      some (b, s.barBits b 63 0, s.barBits b 71 64)
    else none

/-- The words of the n bytes at an address of an array that its armed injector selects when all of them are written (R209): the first, every
one, or the one that it names. -/
def selectedWords (s : State) (a n : Nat) : List Nat :=
  match arrayOf a with
  | none => []
  | some (id, cl, off) =>
    let b := elogOff id cl + 0x410
    if n = 0 ∨ !s.barFlag b 72 then []
    else if s.barFlag b 74 then (if s.barFlag b 73 then (List.range ((n + 7) / 8)).map fun i => a / 8 * 8 + 8 * i else [a / 8 * 8])
    else [a - off + 8 * s.barBits b 119 96].filter fun w => decide (a / 8 * 8 ≤ w) && decide (w < a + n)

/-- Storing the aligned 8-byte word at w with good check bits, or as the armed injector makes it (R209). -/
def putWord (s : State) (w x : Nat) (poison : Bool) : State :=
  let k := w / 8
  let e0 : BitVec 8 := if poison then 0x7F#8 else 0#8
  let (y, e, inj, s) := match s.injectorFor w with
    | none => (x, e0, false, s)
    | some (b, dm, cm) =>
      (Nat.xor x dm, e0 ^^^ BitVec.ofNat 8 cm ^^^ checkBits dm, true, if s.barFlag b 73 then s else s.setBar b 72 72 0)
  { s with mem := s.mem.store w 8 y, eccBad := dset 0#8 k e s.eccBad, injected := dset false k inj s.injected,
           writebacks := mdel w s.writebacks }

/-- Merging bytes into one 8-byte word (R204, R205): over a bad word the merged word is stored as poison. -/
def mergeWord (s : State) (w : Nat) (bytes : List (Nat × Byte)) (who : Option (Nat × Nat)) : State :=
  let merge (x : Nat) := bytes.foldl (fun x b => setBits x (8 * b.1 + 7) (8 * b.1) b.2.toNat) x
  if bytes.length = 8 then s.putWord w (merge 0) false
  else if s.badAt w = 0#8 then s.putWord w (merge (s.mem.load w 8)) false
  else
    match arrayOf w, classify (syndromeOf (s.badAt w)) with
    | some (id, cl, off), .bad =>
      let syn := syndromeOf (s.badAt w)
      let inj := dget false (w / 8) s.injected
      let s := if syn = 0xFF then s else s.elogPut id cl off syn false true inj false who
      s.putWord w (merge (s.mem.load w 8)) true
    | _, .dataBit i =>
      let (_, _, s) := s.readWord w who
      s.putWord w (merge (Nat.xor (s.mem.load w 8) (2 ^ i))) false
    | _, _ =>
      let (_, _, s) := s.readWord w who
      s.putWord w (merge (s.mem.load w 8)) false

/-- Writing bytes word by word, lowest first, in at most `fuel` words. -/
def writeWords (s : State) (who : Option (Nat × Nat)) : Nat → Nat → List Byte → State
  | 0, _, _ => s
  | fuel + 1, a, bs =>
    if bs = [] then s else
    let off := a % 8
    let k := min bs.length (8 - off)
    (s.mergeWord (a / 8 * 8) ((bs.take k).zipIdx.map fun e => (off + e.2, e.1)) who).writeWords who fuel (a + k) (bs.drop k)
/-- Writing bytes at an address of an array with check bits. -/
def writeMem (s : State) (a : Nat) (bs : List Byte) (who : Option (Nat × Nat)) : State :=
  match arrayOf a with
  | none => { s with mem := s.mem.setBytes a bs }
  | some _ => s.writeWords who (bs.length / 8 + 2) a bs

/-- One RMW slot on n bytes inside an aligned 8-byte word (R193, R205): the old value, the hit where the word is uncorrectable, and what `f`
makes of the value is stored, unless it makes nothing. A returning atomic (`consumer`) stores nothing over an uncorrectable word; any
other reader does not consume the word, and leaves the merged word as poison. -/
def rmw (s : State) (a n : Nat) (consumer : Bool) (who : Option (Nat × Nat)) (f : Nat → Option Nat) : Nat × Option EccHit × State :=
  let w := a / 8 * 8
  let merge (x old : Nat) : Nat := setBits x (8 * (a % 8 + n) - 1) (8 * (a % 8)) ((f old).getD old)
  match arrayOf w with
  | none =>
    let old := s.mem.load a n
    (old, none, match f old with | some y => { s with mem := s.mem.store a n y } | none => s)
  | some (id, cl, off) =>
    let syn := syndromeOf (s.badAt w)
    if !consumer ∧ classify syn = .bad then
      let x := s.mem.load w 8
      let s := if syn = 0xFF then s else s.elogPut id cl off syn false true (dget false (w / 8) s.injected) false who
      (s.mem.load a n, none, s.putWord w (merge x (s.mem.load a n)) true)
    else
      let (x, hit, s) := s.readWord w who
      let old := x / 256 ^ (a % 8) % 256 ^ n
      (old, hit, if hit.isSome ∨ f old = none then s else s.putWord w (merge x old) false)

/-- Poison carried into a word by a copy, a landing or an engine (R205). -/
def poisonWord (s : State) (w : Nat) (bytes : List (Nat × Byte)) : State :=
  let merge (x : Nat) := bytes.foldl (fun x b => setBits x (8 * b.1 + 7) (8 * b.1) b.2.toNat) x
  s.putWord w (merge (s.mem.load w 8)) true

/-! ### Arrays whose contents the model holds elsewhere (R203, R205; log entry 106) -/

/-- A write of n bytes to such an array: its check bits, and what its injector makes of them. -/
def tagWrite (s : State) (a n : Nat) (who : Option (Nat × Nat)) : State :=
  let m := s.mem
  { s.writeMem a (List.replicate n 0#8) who with mem := m }
/-- A read of a word of such an array, and whether it is uncorrectable: then a copy of data held elsewhere is fetched again, and any other
word is left as poison (R205). -/
def tagRead (s : State) (a : Nat) (copy : Bool) (who : Option (Nat × Nat)) : Bool × State :=
  let w := a / 8 * 8
  let syn := syndromeOf (s.badAt w)
  if s.badAt w = 0#8 then (false, s) else
  match arrayOf w, classify syn with
  | some (id, cl, off), .bad =>
    let t := if syn = 0xFF then s else s.elogPut id cl off syn false (!copy) (dget false (a / 8) s.injected) copy who
    let m := t.mem
    (true, if copy then t.tagWrite w 8 who else { t.putWord w 0 true with mem := m })
  | _, _ => (false, (s.readWord w who).2.2)
/-- A word of a copy is filled and read (R205). -/
def copyRead (s : State) (a : Nat) (who : Option (Nat × Nat)) : State := ((s.tagWrite (a / 8 * 8) 8 who).tagRead a true who).2

/-- Data passes n bytes of a buffer: they are written and read. -/
def passThrough (s : State) (a n : Nat) : State :=
  (List.range (ceilDiv n 8)).foldl (fun (s : State) i => (s.tagRead (a + 8 * i) false none).2) (s.tagWrite a n none)
/-- Bytes o to o + n - 1 of a queue's record are rewritten in the queue store, array 0x21 (R331). -/
def touchQueue (s : State) (q o n : Nat) : State :=
  let a := Base.dieWide 0x21 + 32 * q + o
  ((s.tagRead a false none).2).tagWrite a n none

end State
end Sys2Proof.Machine
end

