-- ==== Sys2Proof/Config.lean ====
section
/-! DEFINITION. What the spec leaves to the implementation: the free values. Each is an opaque constant with no body, so that
no proof can lean on a value of it; every one stands in the assumption log. -/

namespace Sys2Proof.Config

/-- The approximate functions of Table 04-8 outside their exact cases: function code, operand bits (R151). `Fp` clamps the
answer into the interval the table states, so only the choice inside that interval is free. -/
opaque approx : Nat → Nat → Nat
/-- VISQ.bary and the interpolations that R380 bounds by 2^-20: a fixed function of their inputs. -/
opaque baryError : Nat → Nat → Nat
/-- The response of the PUF of the die (R467). -/
opaque pufResponse : List Byte
/-- The public key of the Falcon-1024 key pair that a seed gives (R467). -/
opaque falconPublic : List Byte → List Byte
/-- Falcon-1024 verification (R466): public key, message, signature. -/
opaque falconVerify : List Byte → List Byte → List Byte → Bool
/-- Falcon-1024 signing (R467): the seed of the key pair, and the message. -/
opaque falconSign : List Byte → List Byte → List Byte
/-- The firmware image with its signature, the root key that comes with them, and the digest of the root key in the fuses (R466). -/
opaque firmware : List Byte
opaque firmwareSig : List Byte
opaque rootKey : List Byte
opaque rootDigest : List Byte
/-- Whether step n of bring-up succeeds, as far as the part and its surroundings decide it (R475). -/
opaque stepOk : Nat → Bool
/-- Packages wired to the domain, and its longest measured path in cycles (R239, R245). -/
opaque domainSize : Nat
opaque longestPath : Nat
/-- TBCFG master and position of the other packages wired to the domain (R464). -/
opaque domainPeers : List (Bool × Nat)
/-- A 16-byte block of main memory read under another key pair than it was written with (R446): its number PA >> 4, its bytes as they were
written, both keys; and the byte. XTS decrypts block by block, and the keys are drawn at random and never readable. -/
opaque wrongKey : Nat → List Byte → Nat → Nat → Nat → Byte
/-- The device-private bytes of a saved context (Table 12-5): token of the save, byte offset in the slot. -/
opaque privateByte : Nat → Nat → Byte
/-- The bytes of an entry of a bin, whose layout is private to the device (R371): the token of the entry. -/
opaque binEntry : Nat → List Byte
/-- A fresh value of the free counter (values the spec leaves open and lets be drawn anew). -/
opaque freeValue : Nat → Nat
/-- The payload of a unit of a tile row: its type, what the row is coded with, and its samples. The coding decisions are open (R439). -/
opaque codedBytes : Nat → List Nat → List Byte → List Byte

end Sys2Proof.Config
end

