-- ==== Sys2Proof/Machine/Fp.lean ====
section
/-! DEFINITION. Numbers (04_lane_arithmetic R122-R131, R148-R160): the formats, rounding once from an exact rational, the flags,
the zero rule, and the functions. Every engine of the machine rounds through `Fp.round`. -/

namespace Sys2Proof.Machine

/-- The sticky flags of Table 02-16, index 17: invalid [0], divzero [1], overflow [2], underflow [3], inexact [4]. -/
abbrev FFlags := BitVec 5

namespace Fp

def invalid : FFlags := 1#5
def divzero : FFlags := 2#5
def overflow : FFlags := 4#5
def underflow : FFlags := 8#5
def inexact : FFlags := 16#5

/-- Rounding modes (Table 02-16, index 26). -/
inductive RMode where | nearest | zero | up | down
  deriving DecidableEq, Repr

def RMode.ofCode (n : Nat) : RMode :=
  match n % 4 with
  | 0 => .nearest | 1 => .zero | 2 => .up | _ => .down

/-- A floating-point format (Table 04-1): exponent bits, fraction bits, bias, and whether it has infinities. -/
structure Fmt where
  ebits : Nat
  mbits : Nat
  bias : Nat
  hasInf : Bool := true
  deriving DecidableEq, Repr

def f64 : Fmt := ⟨11, 52, 1023, true⟩
def f32 : Fmt := ⟨8, 23, 127, true⟩
def f16 : Fmt := ⟨5, 10, 15, true⟩
def bf16 : Fmt := ⟨8, 7, 127, true⟩
def e4m3 : Fmt := ⟨4, 3, 7, false⟩
def e5m2 : Fmt := ⟨5, 2, 15, true⟩

/-- What the bits of a format stand for. A number keeps its sign, so that −0 differs from +0. -/
inductive Val where
  | nan (signalling : Bool)
  | inf (neg : Bool)
  | num (neg : Bool) (q : Rat)
  deriving DecidableEq, Repr

/-- 2^k as a rational. -/
def pow2 (k : Int) : Rat := if 0 ≤ k then ((2 ^ k.toNat : Nat) : Rat) else mkRat 1 (2 ^ (-k).toNat)

def Fmt.width (f : Fmt) : Nat := 1 + f.ebits + f.mbits
def Fmt.emin (f : Fmt) : Int := 1 - f.bias
def Fmt.maxField (f : Fmt) : Nat := 2 ^ f.ebits - 1
def Fmt.signBit (f : Fmt) : Nat := 2 ^ (f.ebits + f.mbits)
/-- Bits of +∞, or of the NaN of a format without infinities. -/
def Fmt.infBits (f : Fmt) : Nat := f.maxField * 2 ^ f.mbits
/-- The canonical NaN of Table 04-1. -/
def Fmt.nanBits (f : Fmt) : Nat :=
  if f.hasInf then f.infBits + 2 ^ (f.mbits - 1) else f.infBits + 2 ^ f.mbits - 1
/-- Bits of the largest finite magnitude. -/
def Fmt.maxBits (f : Fmt) : Nat := if f.hasInf then f.infBits - 1 else f.infBits + 2 ^ f.mbits - 2

/-- The magnitude of a finite encoding without its sign bit. -/
def Fmt.magnitude (f : Fmt) (x : Nat) : Rat :=
  let e := x / 2 ^ f.mbits
  let m := x % 2 ^ f.mbits
  if e = 0 then (m : Rat) * pow2 (f.emin - f.mbits)
  else ((2 ^ f.mbits + m : Nat) : Rat) * pow2 ((e : Int) - f.bias - f.mbits)

def Fmt.isSubnormal (f : Fmt) (x : Nat) : Bool :=
  let y := x % f.signBit
  y != 0 && decide (y < 2 ^ f.mbits)

/-- The value of an encoding (R122). -/
def Fmt.val (f : Fmt) (x : Nat) : Val :=
  let neg := x / f.signBit % 2 == 1
  let y := x % f.signBit
  if f.hasInf then
    if y = f.infBits then .inf neg
    else if f.infBits < y then .nan (decide (y < f.nanBits))
    else .num neg (f.magnitude y)
  else if y = f.nanBits then .nan false
  else .num neg (f.magnitude y)

/-- An FP32 or FP64 source operand after the input flush (R127). -/
def Fmt.valIn (f : Fmt) (ftz : Bool) (x : Nat) : Val :=
  if ftz && f.isSubnormal x then .num (x / f.signBit % 2 == 1) 0 else f.val x

/-- floor(log2 q) of a positive rational. -/
def ilog2 (q : Rat) : Int :=
  let k : Int := (Nat.log2 q.num.natAbs : Int) - Nat.log2 q.den
  if q < pow2 k then k - 1 else k

/-- A positive rational as a multiple of 2^k: the quotient rounded in a mode, and whether that was exact. -/
def quantize (rm : RMode) (neg : Bool) (q : Rat) (k : Int) : Nat × Bool :=
  let s := q / pow2 k
  let m := s.num.natAbs / s.den
  let r := s.num.natAbs % s.den
  let up := match rm with
    | .nearest => decide (s.den < 2 * r) || (decide (2 * r = s.den) && m % 2 == 1)
    | .zero => false
    | .up => !neg && decide (r ≠ 0)
    | .down => neg && decide (r ≠ 0)
  (if up then m + 1 else m, decide (r = 0))

/-- What a format writes where IEEE 754-2019 would write an infinity (R158). -/
inductive Ovf where | inf | nan | sat
  deriving DecidableEq, Repr

def Fmt.sign (f : Fmt) (neg : Bool) : Nat := if neg then f.signBit else 0

/-- The one rounding of an exact non-zero magnitude (R125, R126, R158), with the output flush of R127. -/
def round (f : Fmt) (rm : RMode) (ftz : Bool) (ovf : Ovf) (neg : Bool) (q : Rat) : Nat × FFlags :=
  let e := ilog2 q
  -- rounded as if the exponent range were unbounded: tininess and overflow are judged on it
  let (mu, _) := quantize rm neg q (e - f.mbits)
  let eu := if mu = 2 ^ (f.mbits + 1) then e + 1 else e
  let tiny := decide (eu < f.emin)
  let (m, exact) := quantize rm neg q (max e f.emin - f.mbits)
  -- m < 2^mbits is a subnormal, and the carry into the next binade is the carry of the encoding
  let body := if e < f.emin then m else m + ((e + f.bias - 1).toNat) * 2 ^ f.mbits
  if f.maxBits < body then
    let toMax := match rm with
      | .nearest => false
      | .zero => true
      | .up => neg
      | .down => !neg
    let out := if toMax then f.maxBits else match ovf with
      | .inf => f.infBits
      | .nan => f.nanBits
      | .sat => f.maxBits
    (if out = f.nanBits then out else f.sign neg + out, overflow ||| inexact)
  else if ftz && f.isSubnormal body then (f.sign neg, underflow ||| inexact)
  else
    (f.sign neg + body,
      (if exact then 0 else inexact) ||| (if tiny && !exact then underflow else 0))

/-- The state that one floating-point operation runs under: rounding mode and flush options of its format (R125, R127). -/
structure Env where
  rm : RMode := .nearest
  ftzIn : Bool := false
  ftzOut : Bool := false
  deriving DecidableEq, Repr

/-- Canonical NaN with invalid (R129). -/
def Fmt.bad (f : Fmt) : Nat × FFlags := (f.nanBits, invalid)

def Val.isSig : Val → Bool
  | .nan s => s
  | _ => false
def Val.isNan : Val → Bool
  | .nan _ => true
  | _ => false
def Val.negate : Val → Val
  | .nan s => .nan s
  | .inf n => .inf (!n)
  | .num n q => .num (!n) q

/-- An addend of an exact sum: a value, or the invalid product of an infinity and a zero (R129). -/
inductive Term where
  | val (v : Val)
  | invalid
  deriving DecidableEq, Repr

/-- The exact product of two values as a term (R129, R131: the sign is the XOR of the signs). -/
def mulTerm : Val → Val → Term
  | .nan s, .nan t => .val (.nan (s || t))
  | .nan s, _ => .val (.nan s)
  | _, .nan s => .val (.nan s)
  | .inf a, .inf b => .val (.inf (a != b))
  | .inf a, .num b q => if q = 0 then .invalid else .val (.inf (a != b))
  | .num a q, .inf b => if q = 0 then .invalid else .val (.inf (a != b))
  | .num a p, .num b q => .val (.num (a != b) (p * q))

def Term.signed : Term → Rat
  | .val (.num n q) => if n then -q else q
  | _ => 0

/-- What an exact sum of terms is, before rounding. -/
inductive SumResult where
  | nan (flags : FFlags)
  | inf (neg : Bool) (flags : FFlags)
  | zero (neg : Bool)
  | exact (neg : Bool) (q : Rat)
  deriving DecidableEq, Repr

/-- The exact sum of terms (R129, R131): a signalling NaN, an invalid product and infinities of both signs raise invalid. -/
def sumTerms (ts : List Term) : SumResult :=
  let has (p : Term → Bool) := ts.any p
  let both := has (· == .val (.inf true)) && has (· == .val (.inf false))
  let inv := both || has (fun t => match t with | .invalid => true | .val v => v.isSig)
  let nan := both || has (fun t => match t with | .invalid => true | .val v => v.isNan)
  if nan then .nan (if inv then invalid else 0)
  else if has (· == .val (.inf true)) then .inf true 0
  else if has (· == .val (.inf false)) then .inf false 0
  else
    let x := (ts.map Term.signed).foldl (· + ·) 0
    if x = 0 then
      .zero (!ts.isEmpty && ts.all fun t => match t with | .val (.num n q) => n && decide (q = 0) | _ => false)
    else .exact (decide (x < 0)) (if x < 0 then -x else x)

/-- The exact sum of terms, rounded once into a format. -/
def sum (f : Fmt) (e : Env) (ts : List Term) : Nat × FFlags :=
  match sumTerms ts with
  | .nan fl => (f.nanBits, fl)
  | .inf n fl => (f.sign n + f.infBits, fl)
  | .zero n => (f.sign n, 0)
  | .exact n q => round f e.rm e.ftzOut .inf n q

/-- A term rounded once (a product). -/
def ofTerm (f : Fmt) (e : Env) : Term → Nat × FFlags
  | .invalid => f.bad
  | .val (.nan s) => (f.nanBits, if s then invalid else 0)
  | .val (.inf n) => (f.sign n + f.infBits, 0)
  | .val (.num n q) => if q = 0 then (f.sign n, 0) else round f e.rm e.ftzOut .inf n q

/-- FADD: a + b. -/
def add (f : Fmt) (e : Env) (a b : Nat) : Nat × FFlags :=
  sum f e [.val (f.valIn e.ftzIn a), .val (f.valIn e.ftzIn b)]
/-- FSUB: a + (−b) (R131). -/
def sub (f : Fmt) (e : Env) (a b : Nat) : Nat × FFlags :=
  sum f e [.val (f.valIn e.ftzIn a), .val (f.valIn e.ftzIn b).negate]
/-- FMUL. -/
def mul (f : Fmt) (e : Env) (a b : Nat) : Nat × FFlags :=
  ofTerm f e (mulTerm (f.valIn e.ftzIn a) (f.valIn e.ftzIn b))
/-- FMA: a·b + c, the product exact (R149). -/
def fma (f : Fmt) (e : Env) (a b c : Nat) : Nat × FFlags :=
  sum f e [mulTerm (f.valIn e.ftzIn a) (f.valIn e.ftzIn b), .val (f.valIn e.ftzIn c)]

/-- FDIV (R148). -/
def div (f : Fmt) (e : Env) (a b : Nat) : Nat × FFlags :=
  match f.valIn e.ftzIn a, f.valIn e.ftzIn b with
  | .nan s, .nan t => (f.nanBits, if s || t then invalid else 0)
  | .nan s, _ => (f.nanBits, if s then invalid else 0)
  | _, .nan s => (f.nanBits, if s then invalid else 0)
  | .inf _, .inf _ => f.bad
  | .inf n, .num m _ => (f.sign (n != m) + f.infBits, 0)
  | .num n _, .inf m => (f.sign (n != m), 0)
  | .num n p, .num m q =>
    if q = 0 then (if p = 0 then f.bad else (f.sign (n != m) + f.infBits, divzero))
    else if p = 0 then (f.sign (n != m), 0)
    else round f e.rm e.ftzOut .inf (n != m) (p / q)

/-- Order of two non-NaN values, −0 below +0 when `zeros` (R130). -/
def Val.less (zeros : Bool) : Val → Val → Bool
  | .inf true, .inf true => false
  | .inf true, _ => true
  | _, .inf true => false
  | .inf false, _ => false
  | _, .inf false => true
  | .num n p, .num m q =>
    let x := if n then -p else p
    let y := if m then -q else q
    if x = y then zeros && n && !m && decide (p = 0) else decide (x < y)
  | _, _ => false

/-- An operand after the input flush, as bits (a flushed subnormal is a zero of its sign). -/
def Fmt.flush (f : Fmt) (ftz : Bool) (x : Nat) : Nat :=
  if ftz && f.isSubnormal x then x / f.signBit % 2 * f.signBit else x % (2 * f.signBit)

/-- A result after the output flush of R127 (used by the operations that do not round). -/
def Fmt.flushOut (f : Fmt) (ftz : Bool) (r : Nat × FFlags) : Nat × FFlags :=
  if ftz && f.isSubnormal r.1 then (r.1 / f.signBit % 2 * f.signBit, r.2 ||| underflow ||| inexact) else r

/-- FMIN, FMAX, FMINN, FMAXN (R130): `wantMax` and `number` select among them. Exact; only invalid is raised, but a subnormal
result under the output flush (R127). -/
def minmax (f : Fmt) (e : Env) (wantMax number : Bool) (a b : Nat) : Nat × FFlags :=
  let x := f.flush e.ftzIn a
  let y := f.flush e.ftzIn b
  let u := f.val x
  let v := f.val y
  let fl : FFlags := if u.isSig || v.isSig then invalid else 0
  f.flushOut e.ftzOut <|
    match u.isNan, v.isNan with
    | true, true => (f.nanBits, fl)
    | true, false => (if number then y else f.nanBits, fl)
    | false, true => (if number then x else f.nanBits, fl)
    | false, false => (if (u.less true v) == wantMax then y else x, fl)

/-- Binary arithmetic by op7 00-08 or 10-18 (R148, R149); c is the old destination. -/
def arith (f : Fmt) (e : Env) (o : FpOp) (a b c : Nat) : Nat × FFlags :=
  match o with
  | .add => add f e a b
  | .sub => sub f e a b
  | .mul => mul f e a b
  | .fma => fma f e a b c
  | .min => minmax f e false false a b
  | .max => minmax f e true false a b
  | .minn => minmax f e false true a b
  | .maxn => minmax f e true true a b
  | .div => div f e a b

/-- FSEQ, FSLT, FSLE, FSUN (R150). -/
def compare (f : Fmt) (e : Env) (c : FpCmp) (a b : Nat) : Bool × FFlags :=
  let u := f.valIn e.ftzIn a
  let v := f.valIn e.ftzIn b
  let nan := u.isNan || v.isNan
  let sig := u.isSig || v.isSig
  match c with
  | .eq => (!nan && !u.less false v && !v.less false u, if sig then invalid else 0)
  | .lt => (!nan && u.less false v, if nan then invalid else 0)
  | .le => (!nan && !v.less false u, if nan then invalid else 0)
  | .un => (nan, if sig then invalid else 0)

/-! ### Functions (R151-R153) -/

/-- floor(sqrt n) by bits, from bit k down. -/
def isqrt (n : Nat) : Nat → Nat → Nat
  | 0, r => if (r + 1) * (r + 1) ≤ n then r + 1 else r
  | k + 1, r =>
    let t := r + 2 ^ (k + 1)
    isqrt n k (if t * t ≤ n then t else r)

/-- A rational that rounds as sqrt q does in every format: sqrt q to p fraction bits relative to q's size, with a sticky half
unit when it is not exact. -/
def sqrtQ (q : Rat) : Rat :=
  let k : Int := 70 - ilog2 q / 2
  let s := q * pow2 (2 * k)
  let n := s.num.natAbs / s.den
  let r := isqrt n (Nat.log2 n / 2 + 1) 0
  if s.den = 1 && r * r = n then (r : Rat) * pow2 (-k) else ((2 * r + 1 : Nat) : Rat) * pow2 (-k - 1)

/-- Is q = 2^k for some k? -/
def isPow2 (q : Rat) : Option Int :=
  if 0 < q then let k := ilog2 q; if pow2 k = q then some k else none else none

/-- Scale of the fixed-point evaluations below: 2^-96. -/
def fx : Nat := 2 ^ 96
/-- ln 2 and π to 96 fraction bits, rounded down. -/
def ln2fx : Nat := 0xB17217F7D1CF79ABC9E3B398
def pifx : Nat := 0x3243F6A8885A308D313198A2E

/-- Σ term, with term_{k+1} = term_k·y / (k+1)…: the exponential series in fixed point. -/
def expSeries (y : Nat) : Nat → Nat → Nat → Nat
  | 0, _, _ => 0
  | n + 1, k, term => term + expSeries y n (k + 1) (term * y / fx / (k + 1))
/-- The sine or cosine series in fixed point (alternating signs). -/
def trigSeries (y2 : Nat) : Nat → Nat → Int → Int
  | 0, _, _ => 0
  | n + 1, k, term => term + trigSeries y2 n (k + 2) (-(term * y2 / fx / ((k + 1) * (k + 2))))
/-- Fraction bits of log2 m for m in [1, 2), one squaring a bit. -/
def log2Bits : Nat → Nat → Nat → Nat
  | 0, _, acc => acc
  | n + 1, m, acc =>
    let s := m * m / fx
    if 2 * fx ≤ s then log2Bits n (s / 2) (2 * acc + 1) else log2Bits n s (2 * acc)

/-- 2^x to 90 bits for a rational x. -/
def exp2Q (x : Rat) : Rat :=
  let n := x.floor
  let y := ((x - n) * (ln2fx : Rat)).floor.toNat
  (expSeries y 40 0 fx : Rat) * pow2 (n - 96)
/-- log2 x to about 64 fraction bits for a positive rational x. -/
def log2Q (x : Rat) : Rat :=
  let e := ilog2 x
  let m := (x * pow2 (96 - e)).floor.toNat
  (e : Rat) + (log2Bits 70 m 0 : Rat) * pow2 (-70)
/-- log2 x for a positive rational x that is no power of two: a value below it by less than 2^(1 − p). -/
def log2At (p : Nat) (x : Rat) : Rat :=
  let w := 2 * p + 16
  let e := ilog2 x
  let m := (x * pow2 ((w : Int) - e)).floor.toNat
  let step (s : Nat × Nat) : Nat × Nat :=
    let y := s.1 * s.1 / 2 ^ w
    if 2 ^ (w + 1) ≤ y then (y / 2, 2 * s.2 + 1) else (y, 2 * s.2)
  (e : Rat) + (((List.range p).foldl (fun s _ => step s) (m, 0)).2 : Rat) * pow2 (-(p : Int))
/-- sin(2πr) for a rational r with 0 ≤ r < 1, to about 80 bits; 2πr itself where r is so small that they agree to as many. -/
def sinTurns (r : Rat) : Rat :=
  let (sgn, h) : Int × Rat := if r < 1 / 2 then (1, r) else (-1, r - 1 / 2)
  let q := if h ≤ 1 / 4 then h else 1 / 2 - h
  if q < pow2 (-42) then (sgn : Rat) * (2 * q * (pifx : Rat)) * pow2 (-96) else
  let y := (2 * q * (pifx : Rat)).floor
  (sgn : Rat) * ((trigSeries (y * y / fx).toNat 24 1 y : Int) : Rat) * pow2 (-96)

/-- The result of an approximate function: the part's own value (a free value) where that lies inside the bound of Table 04-8,
else the nearest value, which does. -/
def approximate (f : Fmt) (ftz : Bool) (fn x : Nat) (v bound : Rat) : Nat × FFlags :=
  let c := Config.approx fn x % (2 * f.signBit)
  let ok := match f.val c with
    | .num n q => let y := if n then -q else q; decide (y - v ≤ bound) && decide (v - y ≤ bound)
    | _ => false
  let near := if v = 0 then 0 else (round f .nearest false .inf (decide (v < 0)) (if v < 0 then -v else v)).1
  let r := if ok then c else near
  -- tiny and inexact (R126): a subnormal result, or a zero where the exact value is not 0 and only the smallest magnitudes lie below it
  let av := if v < 0 then -v else v
  let tiny := f.isSubnormal r || (r % f.signBit == 0 && v != 0 && decide (av < pow2 f.emin))
  f.flushOut ftz (r, inexact ||| (if tiny then underflow else 0))

/-- One unit in the last place of a positive value. -/
def ulp (f : Fmt) (v : Rat) : Rat := pow2 (max (ilog2 v) f.emin - f.mbits)

/-- FSQRT, FRCP, FRSQ, FEXP2, FLOG2, FSIN, FCOS on a finite or infinite operand (Table 04-8). -/
def special (f : Fmt) (e : Env) (fn : FpFn) (x : Nat) : Nat × FFlags :=
  let zero (n : Bool) : Nat × FFlags := (f.sign n, 0)
  let inf (n : Bool) (fl : FFlags) : Nat × FFlags := (f.sign n + f.infBits, fl)
  let exact (n : Bool) (q : Rat) : Nat × FFlags := if q = 0 then zero n else round f .nearest e.ftzOut .inf n q
  match fn, f.valIn e.ftzIn x with
  | _, .nan s => (f.nanBits, if s then invalid else 0)
  | .sqrt, .inf n => if n then f.bad else inf false 0
  | .sqrt, .num n q => if q = 0 then zero n else if n then f.bad else round f e.rm e.ftzOut .inf false (sqrtQ q)
  | .rcp, .inf n => zero n
  | .rcp, .num n q => if q = 0 then inf n divzero else round f e.rm e.ftzOut .inf n (1 / q)
  | .rsq, .inf n => if n then f.bad else zero false
  | .rsq, .num n q =>
    if q = 0 then inf n divzero else if n then f.bad else
    match isPow2 q with
    | some k => if k % 2 = 0 then exact false (pow2 (-(k / 2))) else
        let v := sqrtQ (1 / q); approximate f e.ftzOut 4 x v (ulp f v)
    | none => let v := sqrtQ (1 / q); approximate f e.ftzOut 4 x v (ulp f v)
  | .exp2, .inf n => if n then zero false else inf false 0
  | .exp2, .num n q =>
    let y := if n then -q else q
    if y.den = 1 && decide (-149 ≤ y) && decide (y ≤ 127) then exact false (pow2 y.num)
    else if 128 ≤ y then inf false (overflow ||| inexact)
    else if y < -150 then (0, underflow ||| inexact)
    else
      let v := exp2Q y
      if f.magnitude f.maxBits < v then inf false (overflow ||| inexact) else approximate f e.ftzOut 5 x v (2 * ulp f v)
  | .log2, .inf n => if n then f.bad else inf false 0
  | .log2, .num n q =>
    if q = 0 then inf true divzero else if n then f.bad else
    match isPow2 q with
    | some k => exact (decide (k < 0)) (if k < 0 then ((-k : Int) : Rat) else (k : Rat))
    | none =>
      let v := log2Q q
      let b := 2 * ulp f (if v < 0 then -v else if v = 0 then 1 else v)
      approximate f e.ftzOut 6 x v (if b < pow2 (-22) then pow2 (-22) else b)
  | .sin, .inf _ => f.bad
  | .sin, .num n q =>
    let y := if n then -q else q
    let r := y - y.floor
    if q = 0 then zero n
    else if r = 0 ∨ r = 1 / 2 then zero false
    else if r = 1 / 4 then exact false 1
    else if r = 3 / 4 then exact true 1
    else approximate f e.ftzOut 7 x (sinTurns r) (pow2 (-22))
  | .cos, .inf _ => f.bad
  | .cos, .num n q =>
    let y := if n then -q else q
    let r := y - y.floor
    if r = 0 then exact false 1
    else if r = 1 / 2 then exact true 1
    else if r = 1 / 4 ∨ r = 3 / 4 then zero false
    else approximate f e.ftzOut 8 x (sinTurns (if r < 3 / 4 then r + 1 / 4 else r - 3 / 4)) (pow2 (-22))
  | _, .inf n => inf n 0
  | _, .num n q => exact n q

/-- FRNE, FFLOOR, FCEIL, FTRUNC (R152). -/
def integral (f : Fmt) (e : Env) (rm : RMode) (x : Nat) : Nat × FFlags :=
  match f.valIn e.ftzIn x with
  | .nan s => (f.nanBits, if s then invalid else 0)
  | .inf n => (f.sign n + f.infBits, 0)
  | .num n q =>
    let (m, _) := if q = 0 then (0, true) else quantize rm n q 0
    if m = 0 then (f.sign n, 0) else ((round f .nearest false .inf n (m : Rat)).1, 0)

/-- FCLASS (R153). -/
def classify (f : Fmt) (x : Nat) : Nat :=
  match f.val x with
  | .inf true => 1
  | .inf false => 128
  | .nan true => 256
  | .nan false => 512
  | .num n q =>
    if q = 0 then (if n then 8 else 16)
    else if f.isSubnormal x then (if n then 4 else 32)
    else if n then 2 else 64

/-- The function groups F 40 and F 41 (R151). -/
def function (f : Fmt) (e : Env) (fn : FpFn) (x : Nat) : Nat × FFlags :=
  match fn with
  | .abs => (x % f.signBit, 0)
  | .neg => (if x / f.signBit % 2 = 1 then x - f.signBit else x + f.signBit, 0)
  | .rne => integral f e .nearest x
  | .floor => integral f e .down x
  | .ceil => integral f e .up x
  | .trunc => integral f e .zero x
  | .fclass => (classify f x, 0)
  | g => special f e g x

/-! ### Conversions, scaling, packing (R154-R160) -/

/-- A value of one format written in another, with one rounding (R157, R158). -/
def convert (src dst : Fmt) (e : Env) (ftzIn : Bool) (ovf : Ovf) (x : Nat) : Nat × FFlags :=
  match src.valIn ftzIn x with
  | .nan s => (dst.nanBits, if s then invalid else 0)
  | .inf n =>
    match ovf with
    | .sat => (dst.sign n + dst.maxBits, 0)
    | .nan => (dst.nanBits, invalid)
    | .inf => (dst.sign n + dst.infBits, 0)
  | .num n q => if q = 0 then (dst.sign n, 0) else round dst e.rm e.ftzOut ovf n q

/-- A floating-point value as an integer of a width (R157): rounds, then saturates. -/
def toInt (src : Fmt) (ftzIn : Bool) (rm : RMode) (signed : Bool) (width x : Nat) : Nat × FFlags :=
  let lo : Int := if signed then -((2 ^ (width - 1) : Nat) : Int) else 0
  let hi : Int := if signed then ((2 ^ (width - 1) : Nat) : Int) - 1 else ((2 ^ width : Nat) : Int) - 1
  match src.valIn ftzIn x with
  | .nan _ => (0, invalid)
  | .inf n => (wrapInt width (if n then lo else hi), invalid)
  | .num n q =>
    let (m, exact) := if q = 0 then (0, true) else quantize rm n q 0
    let y : Int := if n then -(m : Int) else m
    if y < lo then (wrapInt width lo, invalid)
    else if hi < y then (wrapInt width hi, invalid)
    else (wrapInt width y, if exact then 0 else inexact)

/-- An integer as a floating-point value (R157). -/
def ofInt (dst : Fmt) (e : Env) (x : Int) : Nat × FFlags :=
  if x = 0 then (0, 0) else round dst e.rm e.ftzOut .inf (decide (x < 0)) (x.natAbs : Rat)

/-- FSCL: a·2^n with one rounding (R160). -/
def scale (f : Fmt) (e : Env) (a : Nat) (n : Int) : Nat × FFlags :=
  match f.valIn e.ftzIn a with
  | .nan s => (f.nanBits, if s then invalid else 0)
  | .inf s => (f.sign s + f.infBits, 0)
  | .num s q =>
    if q = 0 then (f.sign s, 0)
    else
      -- beyond these exponents the rounded result no longer depends on n
      let k := max (-5000) (min 5000 n)
      round f e.rm e.ftzOut .inf s (q * pow2 k)

/-- DOT4 of four 8-bit products and an FP32 addend (R155). -/
def dot4 (src : Fmt) (e : Env) (a b c : Nat) : Nat × FFlags :=
  let byte (x i : Nat) := src.val (x / 2 ^ (8 * i) % 256)
  sum f32 e ([0, 1, 2, 3].map (fun i => mulTerm (byte a i) (byte b i)) ++ [.val (f32.valIn e.ftzIn c)])

/-- One half of HADD2, HMUL2, HFMA2, BADD2, BMUL2, BFMA2 (R154); halves are never flushed (R127). -/
def half (o : HalfOp) (rm : RMode) (a b c : Nat) : Nat × FFlags :=
  let e : Env := { rm := rm }
  match o with
  | .hadd => add f16 e a b
  | .hmul => mul f16 e a b
  | .hfma => fma f16 e a b c
  | .badd => add bf16 e a b
  | .bmul => mul bf16 e a b
  | .bfma => fma bf16 e a b c

end Fp
end Sys2Proof.Machine
end

