-- ==== Sys2Proof/Machine/Strip.lean ====
section
/-! DEFINITION. The strip prediction of the task engine (12 R352), and what the end of a shading group means for its tile (13 R363, R375). -/

namespace Sys2Proof.Machine

/-- Tiles of a strip whose header is given (R362). -/
def headerTiles (h : Nat) : Nat := ceilDiv (bits h 108 96) 32
/-- The cost factor of a shading rate, in sixteenths (R352). -/
def rateCost (r : Nat) : Nat := match r with | 0 => 16 | 1 => 8 | 2 => 4 | _ => 1

namespace RasterJob
/-- The tile's visibility is final: its rate is fixed (R376). -/
def fixed (j : RasterJob) (t : Nat) : Bool := ((mget t j.tiles).map fun x => x.final).getD false
def tileDone (j : RasterJob) (t : Nat) : Bool := ((mget t j.tiles).map fun x => x.done).getD false
/-- The summed cost factors of the tiles that a predicate selects. -/
def cost (j : RasterJob) (p : Nat → Bool) : Nat :=
  (((List.range (headerTiles j.header)).filter p).map fun t => rateCost (dget 0 t j.rates)).foldl (· + ·) 0
/-- m of R352 as a 16.16 number. -/
def meanTime (j : RasterJob) (m0 now : Nat) : Nat :=
  if (List.range (headerTiles j.header)).any j.tileDone then 2 ^ 20 * (now - j.start) / j.cost j.tileDone else m0
/-- pred of R352. -/
def pred (j : RasterJob) (m now : Nat) : Nat := now + m * j.cost (fun t => !j.tileDone t) / 2 ^ 20
/-- One pass over tiles, each lowered one step until the prediction meets the limit. -/
def lowerPass (m now limit : Nat) : List Nat → RasterJob → RasterJob
  | [], j => j
  | t :: ts, j =>
    if j.pred m now ≤ limit then j
    else lowerPass m now limit ts { j with rates := dset 0 t (dget 0 t j.rates + 1) j.rates
                                           lowered := if j.lowered.contains t then j.lowered else j.lowered ++ [t] }
/-- The unfixed tiles above 4×4 in ascending importance, ties in tile order. -/
def lowerable (j : RasterJob) : List Nat :=
  ((List.range (headerTiles j.header)).filter fun t => !j.fixed t && decide (dget 0 t j.rates < 3)).mergeSort fun a b =>
    decide (j.importance.getD a 0 < j.importance.getD b 0) || (j.importance.getD a 0 == j.importance.getD b 0 && decide (a ≤ b))
/-- The prediction (R352): at most three passes lower every tile to 4×4. -/
def lowerN (m now limit : Nat) : Nat → RasterJob → RasterJob
  | 0, j => j
  | n + 1, j => if j.pred m now ≤ limit then j else lowerN m now limit n (lowerPass m now limit j.lowerable j)
end RasterJob

namespace State

/-- The prediction for a strip card, evaluated at a cycle (R352). -/
def predictAt (s : State) (l : Launch) (j : RasterJob) (now : Nat) : RasterJob :=
  if l.card.head = 0xFFFF ∨ l.card.deadline = 0 then j else
  let b := stplOff l.card.head
  let limit := s.cycOfPtp l.card.deadline - s.barBits b 127 96
  j.lowerN (j.meanTime (s.barBits b 159 128) now) now limit 3

/-- A shading group of a tile has ended: with the last one the tile is complete, and the prediction is made again (R352, R363). -/
def shadeEnded (s : State) (lid tile : Nat) : State :=
  match mget lid s.launches with
  | none => s
  | some l =>
    match l.raster with
    | none => s
    | some j =>
      let t := mupd tile (fun (x : TileJob) => { x with open_ := x.open_ - 1, done := x.done || decide (x.open_ ≤ 1) }) j.tiles
      let j := { j with tiles := t }
      let j := if j.tileDone tile && !j.closed then s.predictAt l j s.cyc else j
      { s with launches := mset lid { l with raster := some j } s.launches }

end State
end Sys2Proof.Machine
end

