-- ==== Sys2Proof/Machine/Ops.lean ====
section
/-! DEFINITION. The named operations that the meanings are written over: the issuer and its registers, landings (R103-R108),
taking a trap (R109-R113) and returning from one, accesses to group memory and the scratchpad and their performance at the
banks (R172, R185-R197, R211-R218), barriers' shared part (R176, R177), and the issue of one instruction (R51, R66-R68, R81). -/

namespace Sys2Proof.Machine

/-- The threads of a mask, ascending. -/
def threadsOf (m : BitVec 32) : List Nat := (List.range 32).filter fun t => m.getLsbD t
/-- The mask of a list of threads. -/
def maskOf (ts : List Nat) : BitVec 32 := BitVec.ofNat 32 ((ts.map (2 ^ ·)).foldl (· + ·) 0)

/-! ### The issuer -/

/-- The party that holds the turn, with its group and launch. -/
structure Ctx where
  g : Nat
  wi : Nat
  grp : Group
  w : Wave
  lid : Nat
  l : Launch
  deriving Repr

namespace Ctx
def card (c : Ctx) : Card := c.l.card
def isCore (c : Ctx) : Bool := c.grp.kind == .stream
def locked (c : Ctx) : Bool := c.card.regime == 2
def ordered (c : Ctx) : Bool := c.card.regime == 1 && !c.isCore
def part (c : Ctx) : Nat := c.l.part
/-- Partition and context of a reader (Table 06-6). -/
def who (c : Ctx) : Option (Nat × Nat) := some (c.l.part, c.l.ctx)
def active (c : Ctx) : List Nat := threadsOf c.w.active
/-- leader() of Table 02-17: the lowest active thread; thread 0 on a control core. -/
def leader (c : Ctx) : Nat := c.active.headD 0
/-- The threads that a uniform form writes (R50). -/
def all (c : Ctx) : List Nat := if c.isCore then [0] else List.range 32
def isHelper (c : Ctx) (t : Nat) : Bool := c.w.helper.getLsbD t
/-- The slice of the issuing wave within its cluster (R20). -/
def slice (c : Ctx) : Nat := (c.grp.s0 + c.wi) % 32
end Ctx

namespace Wave
/-- v[t][n] (Table 02-17). -/
def reg (w : Wave) (t n : Nat) : Word := dget 0#32 (n * 32 + t) w.regs
/-- d[t][n]: the pair vn, vn+1 (R49). -/
def dreg (w : Wave) (t n : Nat) : DWord := pair (w.reg t n) (w.reg t (n + 1))
/-- A register write that is visible at once. -/
def setReg (w : Wave) (t n : Nat) (x : Word) : Wave := { w with regs := dset 0#32 (n * 32 + t) x w.regs }
def flags (w : Wave) (t : Nat) : BitVec 5 := dget 0#5 t w.fflags
end Wave

namespace State

def wave (s : State) (g wi : Nat) : Option Wave := (mget g s.groups).bind fun x => x.waves[wi]?
def updGroup (s : State) (g : Nat) (f : Group → Group) : State := { s with groups := mupd g f s.groups }
def updLaunch (s : State) (l : Nat) (f : Launch → Launch) : State := { s with launches := mupd l f s.launches }
def updWave (s : State) (g wi : Nat) (f : Wave → Wave) : State :=
  s.updGroup g fun x => { x with waves := x.waves.modify wi f }
def setWave (s : State) (g wi : Nat) (w : Wave) : State := s.updWave g wi fun _ => w
def cluster (s : State) (c : Nat) : Cluster := (mget c s.clusters).getD Cluster.init
def setCluster (s : State) (c : Nat) (x : Cluster) : State := { s with clusters := mset c x s.clusters }
def partOf (s : State) (p : Nat) : Part := (mget p s.parts).getD Part.init
def setPart (s : State) (p : Nat) (x : Part) : State := { s with parts := mset p x s.parts }

/-- The context of a wave or core. -/
def ctxOf (s : State) (g wi : Nat) : Option Ctx := do
  let grp ← mget g s.groups
  let w ← grp.waves[wi]?
  let l ← mget grp.launch s.launches
  pure { g := g, wi := wi, grp := grp, w := w, lid := grp.launch, l := l }
/-- The context of the party that holds the turn. -/
def issuer (s : State) : Option Ctx := s.turn.bind fun x => s.ctxOf x.1 x.2

end State

/-! ### Landings (R103-R108) -/

namespace Wave

/-- The results of a landing become visible (R104): registers of the written threads, flags, or FP state. -/
def applyWhat (w : Wave) : LandWhat → Wave
  | .regs vals => { w with regs := vals.foldl (fun r v => dset 0#32 v.1 v.2 r) w.regs }
  | .setFlags vals => { w with fflags := vals.foldl (fun r v => dset 0#5 v.1 v.2 r) w.fflags }
  | .rmode x => { w with rmode := x }
  | .ftz x => { w with ftz := x }
  | .readFlags reg mask =>
    let x := ((List.range 32).map w.flags).foldl (· ||| ·) 0#5
    (threadsOf mask).foldl (fun w t => w.setReg t reg (x.setWidth 32)) w
/-- Flags are ORed in at the landing slot (R128). -/
def raiseFlags (w : Wave) (fs : List (Nat × BitVec 5)) : Wave :=
  { w with fflags := fs.foldl (fun r v => dset 0#5 v.1 (dget 0#5 v.1 r ||| v.2) r) w.fflags }

/-- A landing entry is added (R105). -/
def push (w : Wave) (e : Landing) : Wave := { w with pend := w.pend ++ [e] }

/-- The next entry that is due: the lowest landing slot, and in it the earliest issued (R104). -/
def nextDue (w : Wave) : Option Landing :=
  (w.pend.filter fun e => decide (e.slot ≤ w.slot) && !e.nextFret && e.ecc.isNone && e.acqFail.isNone).foldl
    (fun b e => match b with | some x => if e.slot < x.slot then some e else b | none => some e) none

/-- FLGRD entries of a slot take their value before any landing of that slot (R73). -/
def freeze (w : Wave) (slot : Nat) : Wave :=
  let x := ((List.range 32).map w.flags).foldl (· ||| ·) 0#5
  { w with pend := w.pend.map fun e =>
      match e.what with
      | .readFlags reg mask =>
        if e.slot = slot then { e with what := .regs ((threadsOf mask).map fun t => (reg * 32 + t, x.setWidth 32)) } else e
      | _ => e }

/-- Everything that has arrived and is due lands, in order of landing slot and issue; an entry that has not arrived holds the
later ones back (R104, R106). -/
def settleN : Nat → Wave → Wave
  | 0, w => w
  | n + 1, w =>
    match w.nextDue with
    | none => w
    | some e =>
      if !e.arrived then w else
        let w := w.freeze e.slot
        let e := w.nextDue.getD e
        let w := { w with pend := w.pend.filter fun x => x.id != e.id }
        settleN n ((w.applyWhat e.what).raiseFlags e.raise)
def settle (w : Wave) : Wave := settleN w.pend.length w
/-- What is due at the slot where the wave stands lands. In a wave with results of R231 it is kept, to land again over those that were issued
before it if the fret ends at this slot (R104, R105). -/
def land (w : Wave) : Wave :=
  let w := { w with pend := w.pend.filter fun e => !(e.again && decide (e.slot < w.slot)) }
  if w.pend.any (·.nextFret) then
    let w := w.freeze w.slot
    let t := w.settle
    { t with pend := w.pend.filterMap fun e =>
        if t.pend.any fun x => x.id == e.id then some e
        else if e.slot = w.slot then some { e with nextFret := true, again := true } else none }
  else w.settle

/-- A wave without threads (R89): it issues no more, and ends once its accesses are accepted (R101). -/
def leaving (w : Wave) : Bool := w.active == 0 && w.stack == [] && !w.ended
/-- A landing that has an uncorrectable error, or an ACQ that read too low a sequence, and is due (R110, R236). -/
def faulty (w : Wave) : Option Landing :=
  w.pend.find? fun e => decide (e.slot ≤ w.slot) && (e.ecc.isSome || e.acqFail.isSome)
/-- A result that is due and has not arrived (R106). -/
def late (w : Wave) : Bool := w.pend.any fun e => decide (e.slot ≤ w.slot) && !e.nextFret && !e.arrived

end Wave

/-! ### Traps (R109-R113) -/

/-- What a trap says of itself beside its place (Table 03-4). -/
structure TrapInfo where
  code : Nat
  landing : Bool := false
  comparator : Bool := false
  index : Nat := 0
  imm : Nat := 0
  causePc : Option Nat := none
  addr : Nat := 0
  detail : Nat := 0
  deriving DecidableEq, Repr

/-- The trap codes of Table 02-14a. -/
def trapUdf (word : Nat) : TrapInfo := { code := 1, detail := word }
def trapIllop (word : Nat) : TrapInfo := { code := 2, detail := word }
def trapAlign (a : Nat) : TrapInfo := { code := 3, addr := a }
def trapBounds (a : Nat) : TrapInfo := { code := 4, addr := a }
def trapRegime (word : Nat) : TrapInfo := { code := 5, detail := word }
def trapSync : TrapInfo := { code := 6 }
def trapStack : TrapInfo := { code := 7 }
def trapTiming (cause : Nat) (arg : Nat := 0) : TrapInfo := { code := 8, detail := cause + 256 * arg }
def trapEcc (h : EccHit) : TrapInfo := { code := 9, detail := h.syndrome + 256 * h.array, addr := h.addr }
/-- An uncorrectable word of main memory, which has no array id (log entry 15). -/
def mainEcc (va : Nat) : EccHit := { syndrome := 0xFF, array := 0, addr := va }
def trapXlate (va : Nat) : TrapInfo := { code := 10, addr := va }
def trapWatch (k a : Nat) : TrapInfo := { code := 13, comparator := true, index := k, addr := a }
def trapRing : TrapInfo := { code := 14 }
def trapQueue : TrapInfo := { code := 15 }

namespace State

/-- The 64-byte trap record of Table 03-4; its sequence number is given when it is posted. -/
def trapRecord (s : State) (c : Ctx) (ti : TrapInfo) : List Byte :=
  let f (x : Bool) := if x then 1 else 0
  record 64 [(0, ti.code), (8, f c.isCore), (9, f ti.landing), (10, f ti.comparator), (16, ti.index), (20, c.l.ctx),
    (24, c.part), (30, c.card.regime), (32, c.grp.cluster), (40, if c.isCore then 0 else c.wi), (48, ti.imm),
    (64, c.w.pc.toNat), (128, ti.causePc.getD c.w.pc.toNat), (192, ti.addr), (256, s.cyc), (320, c.l.cardVa),
    (384, if c.isCore then 0xFFFFFFFF else c.grp.index), (416, c.w.active.toNat), (448, ti.detail)]

/-- The resume pc and skip flag that a trap leaves (R113, R116). Only an instruction that takes a slot clears the flag, so it outlives a TRAP or BRK
at the resume pc (log entry 130). -/
def resumeWave (w : Wave) (ti : TrapInfo) : Wave :=
  if ti.comparator then { w with skip := true }
  else if ti.code = 11 ∨ ti.code = 12 then { w with pc := w.pc + 4 }
  else w

/-- Every group of a launch stops (a trap in a control stream halts its card, R111). -/
def haltLaunch (s : State) (lid : Nat) : State :=
  let s := s.updLaunch lid fun l => { l with status := .halted }
  let halt (x : Group) : Group :=
    if x.launch ≠ lid then x
    else if x.status = .resident ∨ x.status = .stopping then { x with status := .halted }
    -- the time that a suspended group stood is not charged (R334)
    else if x.status = .suspended then
      { x with status := .halted, chargedFrom := x.chargedFrom + (s.cyc - x.stopFrom.getD s.cyc), stopFrom := none }
    else x
  { s with groups := s.groups.map fun e => (e.1, halt e.2) }

/-- The launch of a locked party has halted: it raises no further trap (R284, R285). Traps of the cycle of the halt itself stand in a domain
of one, where H = c_f. -/
def pastHalt (s : State) (c : Ctx) : Bool :=
  match (mget c.lid s.launches).bind (·.haltAt) with
  | some h => decide (h + (if s.lfab = 0 then 1 else 0) ≤ s.cyc)
  | none => false

/-- TAKING A TRAP (R109-R113): the record is posted to the partition's trap queue (held until it has room), the resume pc is
set, and the party's group halts. A trap of a control stream halts its card (R17). In a locked launch only the trapping party
stops at once, and the launch halts everywhere at H = c_f + L_fab of its earliest trap (R283, R284). -/
def takeTrap (s : State) (c : Ctx) (ti : TrapInfo) : State :=
  if c.locked && s.pastHalt c then { s with turn := none } else
  let s := (s.holdTrap (2 + c.part) (s.trapRecord c ti)).updWave c.g c.wi fun w => resumeWave w ti
  let s := { s with turn := none }
  if c.locked then
    let s := s.updWave c.g c.wi fun w => { w with trapped := true }
    let h := s.cyc + s.lfab
    let first := c.l.haltAt.all fun k => decide (h < k)
    let s := s.updLaunch c.lid fun l => { l with haltAt := some (min h (l.haltAt.getD h)), recorded := true }
    if first && decide (1 < s.domSize) then s.send "halt-notice" [c.l.tag, h, ti.code] else s
  else if c.isCore then s.haltLaunch c.lid |>.updGroup c.g fun g => { g with trapped := true }
  else s.updGroup c.g fun g => { g with status := .halted, trapped := true }

/-- A trap record about a launch rather than a party (R257, R285, R416). -/
def launchTrap (s : State) (l : Launch) (cluster core code : Nat) (pc causePc addr detail mask : Nat) : State :=
  s.holdRec (2 + l.part) (record 64 [(0, code), (8, core), (20, l.ctx), (24, l.part), (30, l.card.regime), (32, cluster), (64, pc),
    (128, causePc), (192, addr), (256, s.cyc), (320, l.cardVa), (384, 0xFFFFFFFF), (416, mask), (448, detail)])

end State

/-- The launch halts everywhere L_fab cycles after a trap at a CYC (R283). -/
def haltFrom (s : State) (lid cf : Nat) (code : Nat) : State :=
  match mget lid s.launches with
  | none => s
  | some l =>
    let h := cf + s.lfab
    let s := s.updLaunch lid fun l => { l with haltAt := some (min h (l.haltAt.getD h)) }
    -- an earlier halt is announced too
    if decide (1 < s.domSize) && (l.haltAt.all fun k => decide (h < k)) then s.send "halt-notice" [l.tag, h, code] else s

/-! ### Watchpoints, comparators and the check of an access (R114, R115, R169) -/

namespace State

/-- The index of the address comparator of the issuer's context that fires at its pc (R114): the lowest where several match (log entry 97). -/
def comparatorAt (s : State) (c : Ctx) : Option Nat :=
  (List.range 8).find? fun k =>
    let b := debugOff c.part c.l.ctx + 8 * k
    s.barFlag b 52 && s.barBits b 51 2 == c.w.pc.toNat / 4 && s.barFlag b (if c.isCore then 54 else 53)

/-- The watchpoint that an access to n bytes at an on-die address matches (R115), the lowest where several do (log entry 97); one of length 0
is off, and the skip flag suppresses all (R116). -/
def watchAt (s : State) (c : Ctx) (a n : Nat) (rd wr : Bool) : Option Nat :=
  if c.w.skip then none else
  (List.range 4).find? fun k =>
    let b := debugOff c.part c.l.ctx + 0x40 + 16 * k
    let base := s.barBits b 31 3 * 8
    ((rd && s.barFlag b 64) || (wr && s.barFlag b 65)) && s.barBits b 63 32 != 0 && decide (a < base + s.barBits b 63 32) && decide (base < a + n)

end State

/-- The ranges that a kind of access admits (Tables 01-5 and 05-2). -/
inductive Admit where
  | group | window | windowOrGeometry | groupOrWindow
  deriving DecidableEq, Repr

/-- Where an admitted access lies. -/
inductive Place where
  | group (local_ : Nat)
  | window (addr : Nat)
  | geometry (off : Nat)
  deriving DecidableEq, Repr

namespace State

/-- Bytes of the issuer's group memory; a control core has none (R168). -/
def gmemBytes (c : Ctx) : Nat := if c.isCore then 0 else c.card.gmemKib * 1024

/-- The decoding of on-die addresses (R30): none is BOUNDS. -/
def place (s : State) (c : Ctx) (ad : Admit) (a n : Nat) : Option Place :=
  let g := ad == .group || ad == .groupOrWindow
  let w := ad != .group
  if g && decide (a + n ≤ gmemBytes c) then some (.group (Base.local_ c.grp.cluster + c.grp.gmemBase + a))
  else if w && s.inWindow c.part a n then some (.window (s.windowAddr c.part a))
  else if ad == .windowOrGeometry && decide (0x3FFFFFC0 ≤ a) && decide (a + n ≤ 0x40000000) then
    some (.geometry (a - 0x3FFFFFC0))
  else none

/-- The checks of one access in the order of R169: ALIGN, BOUNDS, WATCH. -/
def checkAccess (s : State) (c : Ctx) (ad : Admit) (rd wr : Bool) (a n align : Nat) : Option TrapInfo :=
  if a % align ≠ 0 then some (trapAlign a)
  else if (s.place c ad a n).isNone then some (trapBounds a)
  else (s.watchAt c a n rd wr).map fun k => trapWatch k a

/-- The first failing thread of an instruction (R169): its trap. -/
def firstTrap (ts : List Nat) (f : Nat → Option TrapInfo) : Option TrapInfo := ts.findSome? f

end State

/-! ### Accesses and their performance (R172, R186-R197, R211-R218) -/

/-- One piece of an access: a request for one bank word. `off` counts bytes from the access's start. -/
structure Piece where
  local_ : Bool
  addr : Nat
  off : Nat
  width : Nat
  deriving DecidableEq, Repr

/-- The pieces of an access of n bytes, one for each 8-byte word it touches (R185, R202); those of the local store lie in one or two of its
4-byte banks (R172). -/
def pieces (p : Place) (n : Nat) : List Piece :=
  let cut (loc : Bool) (a : Nat) : List Piece :=
    if n ≤ 8 then [⟨loc, a, 0, n⟩] else (List.range (n / 8)).map fun i => ⟨loc, a + 8 * i, 8 * i, 8⟩
  match p with
  | .group a => cut true a
  | .window a => cut false a
  | .geometry _ => []

/-- Value and operand of an atomic (R198-R200): the word it writes. -/
def atomicNew (o : AtomOp) (old x : Nat) : Nat :=
  let i32 := fun y => sext y 32
  let i64 := fun y => sext y 64
  let pick (b : Bool) : Nat := if b then x else old
  match o with
  | .add32 => (old + x) % 2 ^ 32
  | .add64 => (old + x) % 2 ^ 64
  | .min32 => pick (decide (i32 x < i32 old))
  | .max32 => pick (decide (i32 old < i32 x))
  | .minu32 => pick (decide (x < old))
  | .maxu32 => pick (decide (old < x))
  | .min64 => pick (decide (i64 x < i64 old))
  | .max64 => pick (decide (i64 old < i64 x))
  | .minu64 => pick (decide (x < old))
  | .maxu64 => pick (decide (old < x))
  | .and => Nat.land old x
  | .or => Nat.lor old x
  | .xor => Nat.xor old x
  | .exch => x
  | .addf32 => (Fp.add Fp.f32 {} old x).1
  | .addf64 => (Fp.add Fp.f64 {} old x).1
  | .fmin32 => (Fp.arith Fp.f32 {} .min old x 0).1
  | .fmax32 => (Fp.arith Fp.f32 {} .max old x 0).1
  | .fmin64 => (Fp.arith Fp.f64 {} .min old x 0).1
  | .fmax64 => (Fp.arith Fp.f64 {} .max old x 0).1

/-- Bytes of an atomic's operand (Table 06-1). -/
def AtomOp.width : AtomOp → Nat
  | .add64 | .addf64 | .fmin64 | .fmax64 | .min64 | .max64 | .minu64 | .maxu64 => 8
  | _ => 4

/-- The bank of an address: a slice bank (R31) or, above 2^20, one of the 32 banks that a local store, an operand buffer or an accumulator
store presents (R165, R308). -/
def bankOf (loc : Bool) (a : Nat) : Nat :=
  if !loc then (a - Base.slice 0) / 2 ^ 21 * 16 + a / 8 % 16
  else if a < Base.accum 0 then 2 ^ 20 + (a - Base.local_ 0) / 2 ^ 20 * 32 + a / 4 % 32
  else 2 ^ 60 + (a - Base.accum 0) / 2 ^ 19 * 32 + a / 4 % 32
/-- The banks of an access to n bytes (R172, R185, R194). -/
def banksOf (loc : Bool) (a n : Nat) : List Nat :=
  let u := if loc then 4 else 8
  (List.range ((a + n + u - 1) / u - a / u)).map fun i => bankOf loc ((a / u + i) * u)
/-- A party's place among the requests that reach a bank in one cycle (R172, R186): a scratchpad slice takes the local port, then the mesh
inputs west, north, east and south, on the route of R33; a local store goes by slice. -/
def portRank (s : State) (c : Ctx) (loc : Bool) (slice : Nat) : Nat :=
  let me := c.grp.cluster
  let m := s.partMesh c.part
  let up (wrapped : Bool) (w a b : Nat) : Bool :=
    -- toward the higher coordinate: of two equal ways round that one
    if wrapped && decide (3 ≤ w) then decide (2 * ((b + w - a) % w) ≤ w) else decide (a < b)
  if loc then 1 + c.slice
  else if me = slice then 1
  else if me / 16 ≠ slice / 16 then
    if up (m == 1 || m == 3) (s.partPh c.part) (me / 16) (slice / 16) then 3 else 5
  else if up (m == 1 || m == 2) (s.partPw c.part) (me % 16) (slice % 16) then 2 else 4

namespace State

/-- Banks serve an access for n cycles from now on, and are awake (R189, R190, R193). -/
def occupy (s : State) (bs : List Nat) (n : Nat) : State :=
  bs.foldl (fun (s : State) b =>
    { s with bankBusy := mset b (max (dget 0 b s.bankBusy) (s.cyc + n)) s.bankBusy
             bankIdle := mset b (max (dget 0 b s.bankIdle) (s.idleClock + n)) s.bankIdle
             bankAsleep := mdel b s.bankAsleep }) s
/-- Banks serve an access of several words, each bank as many cycles as it serves words, after what it serves now (R185). -/
def occupyWords (s : State) (bs : List Nat) : State :=
  bs.foldl (fun (s : State) b => s.occupy [b] (dget 0 b s.bankBusy - s.cyc + 1)) s
/-- One of the banks serves another access in this cycle (R188, R193). -/
def banksBusy (s : State) (bs : List Nat) : Bool := bs.any fun b => decide (s.cyc < dget 0 b s.bankBusy)

/-- The words of one request's read go to the registers of its targets (R169). -/
def deliver (s : State) (r : Req) (bs : List Byte) (hit : Option EccHit) : State :=
  match r.land with
  | none => s
  | some (id, reg, words) =>
    let x := ofBytes bs
    let vals := r.targets.flatMap fun t =>
      (List.range words).map fun k => ((reg + k) * 32 + t, BitVec.ofNat 32 (x / 2 ^ (32 * k)))
    s.updWave r.group r.wave fun w => { w with pend := w.pend.map fun e =>
      if e.id = id then
        { e with
          waiting := e.waiting - 1
          what := match e.what with | .regs v => .regs (v ++ vals) | o => o
          ecc := e.ecc.orElse fun _ => hit.map fun h => { h with addr := r.onDie } }
      else e }

/-- The party of a request: the wave or core; a matrix command's pieces (wave 1024 + number) count as their core's. -/
def reqCtx (s : State) (r : Req) : Option Ctx := s.ctxOf r.group (if 1024 ≤ r.wave then 0 else r.wave)
/-- Reader's partition and context of a request. -/
def reqWho (s : State) (r : Req) : Option (Nat × Nat) := (s.reqCtx r).map fun c => (c.part, c.l.ctx)

/-- The bank serves one request (R193, R197, R212): a load reads, a store writes, an atomic does both in one RMW slot. -/
def serve (s : State) (r : Req) : State :=
  let who := s.reqWho r
  let s := { s with reqs := s.reqs.filter fun q => q.id != r.id }
  let busy := match r.kind with | .atomic _ _ | .cas _ _ | .pegAdd => 3 | _ => 1
  let s := s.occupy (banksOf r.local_ r.addr r.width) busy
  let s := { s with bankLast := (banksOf r.local_ r.addr r.width).foldl (fun m b => mset b (r.group, r.wave, r.slot, r.addr / 8) m) s.bankLast }
  match r.kind with
  | .load =>
    let (bs, hit, s) := s.readMem r.addr r.width who
    s.deliver r bs hit
  | .seen x => s.deliver r (toBytes x r.width) none
  | .store x => s.writeMem r.addr (toBytes x r.width) who
  | .atomic o x =>
    let (old, hit, s) := s.rmw r.addr r.width r.land.isSome who fun old => some (atomicNew o old x)
    s.deliver r (toBytes old r.width) hit
  | .cas e x =>
    let (old, hit, s) := s.rmw r.addr r.width true who fun old => if old = e then some x else none
    s.deliver r (toBytes old r.width) hit
  | .pegRead seq =>
    let (bs, hit, s) := s.readMem r.addr 8 who
    match r.land with
    | none => s
    | some (id, _, _) =>
      s.updWave r.group r.wave fun w => { w with pend := w.pend.map fun e =>
        if e.id = id then { e with waiting := 0, ecc := hit,
                                   acqFail := if ofBytes bs < seq then some (ofBytes bs) else none } else e }
  | .pegAdd => (s.rmw r.addr 8 false who fun old => some (old + 1)).2.2
  | .tileRead cl num lo hi =>
    let (bs, hit, s) := s.readMem r.addr 8 who
    let x := ofBytes bs
    let cu := s.cluster cl
    s.setCluster cl { cu with cmds := cu.cmds.map fun m =>
      if m.num = num then { m with result := mset lo (BitVec.ofNat 32 x, hit.isSome) (mset hi (BitVec.ofNat 32 (x / 2 ^ 32), hit.isSome) m.result) }
      else m }
  | .tileWrite x poison =>
    let s := s.writeMem r.addr (toBytes x r.width) who
    if poison then s.poisonWord (r.addr / 8 * 8) [] else s

/-- Two requests need a common bank. -/
def shareBank (r q : Req) : Bool :=
  let bs := banksOf q.local_ q.addr q.width
  (banksOf r.local_ r.addr r.width).any bs.contains
/-- A request may be performed now: no earlier access of its party that touches a common byte, none of an earlier fence epoch, and none of
its own instruction's lower threads at its bank, is still to be performed (R186, R213, R216, R218). -/
def mayServe (s : State) (r : Req) : Bool :=
  (s.reqs.all fun q => q.group != r.group || q.wave != r.wave || decide (r.id ≤ q.id) ||
    (decide (r.epoch ≤ q.epoch) && !(q.slot == r.slot && shareBank r q) &&
      (q.local_ != r.local_ || decide (q.addr + q.width ≤ r.addr) || decide (r.addr + r.width ≤ q.addr))))
  && s.rels.all fun q => q.group != r.group || q.wave != r.wave || decide (r.id ≤ q.id) ||
    (decide (r.epoch ≤ q.epoch) && match q.target with
      | .peg a => r.local_ || decide (a + 8 ≤ r.addr) || decide (r.addr + r.width ≤ a)
      | _ => true)

/-- Place of dimension d of slot k among the dimensions of a table store (R414, R415). -/
def storeDim (x : TableStore) (k d : Nat) : Nat := (x.dims.take k).foldl (· + ·) 0 + d
/-- The seed of a dimension (R423), from z = seed + u·2^32 + s·2^16 without the dimension. -/
def seedOf (z d : Nat) : Nat :=
  let m := 2 ^ 64
  let z := (z + d + 1) % m
  let z := Nat.xor z (z / 2 ^ 31) * 0xB3E549D72C61F08B % m
  let z := Nat.xor z (z / 2 ^ 29) * 0x64C1A7E359D20B37 % m
  Nat.xor z (z / 2 ^ 32) % 2 ^ 32
/-- QSEED's effect: the seed of every dimension of a slot (R423). -/
def writeSeeds (s : State) (cl k z : Nat) : State :=
  let x := (s.cluster cl).store
  (List.range (x.dims.getD k 0)).foldl (fun (s : State) d =>
    s.writeMem (Base.table cl + 0x8000 + 4 * storeDim x k d) (toBytes (seedOf z d) 4) none) s

/-- What follows a party's accesses takes place (R220, R272): a REL's 1 goes to the peg's bank as a request for one RMW slot, an HSIG's to
the handoff counter. -/
def relPerform (s : State) (r : RelWait) : State :=
  let s := { s with rels := s.rels.filter fun q => q.id != r.id }
  match r.target with
  | .peg a =>
    { s with reqs := s.reqs ++
        [{ id := r.id, group := r.group, wave := r.wave, land := none, targets := [], step := 0, epoch := r.epoch, slot := 0
           local_ := false, addr := a, onDie := 0, width := 8, kind := .pegAdd, arrive := s.cyc, due := none, pc := 0 }] }
  | .handoff cl k =>
    let x := s.cluster cl
    s.setCluster cl { x with h := dset 0#32 k (dget 0#32 k x.h + 1) x.h }
  | .publish lid =>
    match mget lid s.launches with
    | some l => match l.ring with | some k => s.publishSlot l.card.head k.slot | none => s
    | none => s
  | .queue n reset x => s.queueUpdate n reset x
  | .seeds cl slot z => s.writeSeeds cl slot z
/-- A wave may not yet read n bytes at an address: an earlier access of its own to a common byte, or one before its last fence, is still to
be performed (R213, R216). -/
def ownFirst (s : State) (g wi : Nat) (epoch : Nat) (a n : Nat) : Bool :=
  (s.reqs.any fun r => r.group == g && r.wave == wi && r.due.isNone &&
    (decide (r.epoch < epoch) || (decide (r.addr < a + n) && decide (a < r.addr + r.width)))) ||
  s.rels.any fun r => r.group == g && r.wave == wi && r.due.isNone && (decide (r.epoch < epoch) || match r.target with
    | .peg p => decide (p < a + n) && decide (a < p + 8)
    | _ => false)

/-- Accesses of a wave that are still to be performed. -/
def pendingReqs (s : State) (g wi : Nat) : List Nat := (s.reqs.filter fun r => r.group == g && r.wave == wi).map (·.id)

/-- The CYC at which an access of step j reaches its bank: half of the latency of R34; in the locked regime it is performed there and then
(R235). -/
def arrival (s : State) (c : Ctx) (loc atomic : Bool) (addr j : Nat) : Nat :=
  if loc then s.cyc + (if atomic then 3 * j else j) + 4
  else s.cyc + j + 10 + s.dist c.part c.grp.cluster ((addr - Base.slice 0) / 2 ^ 21)

/-- A request is issued to its bank. -/
def request (s : State) (c : Ctx) (p : Piece) (onDie t : Nat) (targets : List Nat) (land : Option (Nat × Nat × Nat))
    (uniform : Bool) (k : ReqKind) : State :=
  let j := if uniform || c.isCore then 0 else t / 4
  let atomic := match k with | .atomic _ _ | .cas _ _ | .pegAdd => true | _ => false
  let r : Req :=
    { id := s.seq, group := c.g, wave := c.wi, land := land, targets := targets, step := j, epoch := c.w.epoch, slot := c.w.slot,
      local_ := p.local_, addr := p.addr, onDie := onDie, width := p.width, kind := k, pc := c.w.pc,
      arrive := s.arrival c p.local_ atomic p.addr j
      due := if c.locked then some (s.arrival c p.local_ atomic p.addr j) else none }
  { s with seq := s.seq + 1, reqs := s.reqs ++ [r] }

/-- The degree rule of the locked regime (R174, R194): two distinct words of one step in one bank. -/
def overloaded (atomic uniform : Bool) (accs : List (Nat × Place)) (n : Nat) : Bool :=
  (List.range 8).any fun j =>
    let ps := (accs.filter fun a => (if uniform then 0 else a.1 / 4) == j).flatMap fun a => pieces a.2 n
    let keys := ps.flatMap fun p =>
      let u := if p.local_ then 4 else 8
      (List.range ((p.width + u - 1) / u)).map fun i => (bankOf p.local_ (p.addr + u * i), (p.addr + u * i) / u)
    let keys := if atomic then keys else keys.eraseDups
    keys.any fun k => decide (1 < (keys.filter fun q => q.1 == k.1).length)

/-- The last value that the wave's own buffered stores give a byte in this fret (R230). -/
def bufferedByte (w : Wave) (a : Nat) : Option Byte :=
  w.buffer.foldl (fun b x => match x with
    | .store addr n data => if addr ≤ a ∧ a < addr + n then some (BitVec.ofNat 8 (data / 256 ^ (a - addr))) else b
    | _ => b) none

/-- What an instruction of an ordered launch reads in a fret, or looks at while it waits: the bytes of the scratchpad as they stood at the end
of the last commit (R230, R232). Group memory changes in commits only. -/
def readJudged (s : State) (c : Ctx) (loc : Bool) (a n : Nat) : List Byte × Option EccHit × State :=
  match (if c.ordered && !loc then c.l.snap else none) with
  | none => s.readMem a n c.who
  | some x =>
    let (bs, hit, t) := { s with mem := x.mem, eccBad := x.bad }.readMem a n c.who
    (bs, hit, { t with mem := s.mem, eccBad := s.eccBad, writebacks := t.writebacks.filter fun e => s.badAt e.1 != 0#8 || (mget e.1 s.writebacks).isSome })
/-- A load of the ordered regime (R230): own buffered stores over the state at the start of the fret, which is not read where they give every
byte. -/
def orderedRead (s : State) (c : Ctx) (loc : Bool) (a n : Nat) : List Byte × Option EccHit × State :=
  let own := (List.range n).map fun i => bufferedByte c.w (a + i)
  if own.all (·.isSome) then (own.map (·.getD 0#8), none, s) else
  let (bs, hit, s) := s.readJudged c loc a n
  ((bs.zip own).map fun e => e.2.getD e.1, hit, s)

/-- One access of a load: thread, on-die address, place, threads written. -/
structure LoadAcc where
  t : Nat
  onDie : Nat
  place : Place
  targets : List Nat

/-- Bytes of an admitted place that need no bank: the geometry block (R32). -/
def geometryBytes (s : State) (p off n : Nat) : List Byte := toBytes (s.geometry p / 256 ^ off) n

/-- One piece of a load goes to its bank. In the ordered regime its value is fixed here, unless it is of the spill stack (R166, R230); an error of
the word it reads goes with its landing. -/
def loadPiece (s : State) (c : Ctx) (spill : Bool) (a : LoadAcc) (p : Piece) (id reg : Nat) (uniform : Bool) : Option EccHit × State :=
  let land := some (id, reg + p.off / 4, p.width / 4)
  if c.ordered && !spill then
    let (bs, hit, s) := s.orderedRead c p.local_ p.addr p.width
    (hit.map fun h => { h with addr := a.onDie }, s.request c p a.onDie a.t a.targets land uniform (.seen (ofBytes bs)))
  else (none, s.request c p a.onDie a.t a.targets land uniform .load)
/-- The accesses of a load instruction are issued, and its landing entry is queued (R169, R171, R235). -/
def issueLoad (s : State) (c : Ctx) (accs : List LoadAcc) (n reg dist : Nat) (uniform : Bool) (spill : Bool := false) : State × Wave :=
  let id := s.seq
  let s := s.fresh
  let words (x : Nat) (ts : List Nat) : List (Nat × Word) := ts.flatMap fun t =>
    (List.range (n / 4)).map fun k => ((reg + k) * 32 + t, BitVec.ofNat 32 (x / 2 ^ (32 * k)))
  let (s, vals, hit, waiting) := accs.foldl
    (fun (st : State × List (Nat × Word) × Option EccHit × Nat) a =>
      let (s, vals, hit, k) := st
      match a.place with
      | .geometry off => (s, vals ++ words (ofBytes (s.geometryBytes c.part off n)) a.targets, hit, k)
      | p =>
        let ps := pieces p n
        let (h, s) := ps.foldl (fun (st : Option EccHit × State) q =>
          let (h, s) := st.2.loadPiece c spill a q id reg uniform
          (st.1.orElse fun _ => h, s)) (none, s)
        (s, vals, hit.orElse fun _ => h, k + ps.length))
    (s, [], none, 0)
  let e : Landing :=
    { id := id, slot := c.w.slot + dist, pc := c.w.pc, width := 8 * n, mask := maskOf (accs.flatMap (·.targets)),
      what := .regs vals, raise := [], waiting := waiting, arrived := waiting == 0, nextFret := false, ecc := hit,
      acqFail := none, again := false }
  (s, c.w.push e)

/-- The accesses of a store instruction are issued; the ordered regime buffers those of Table 05-2 (R169, R171), and none of the spill stack. -/
def issueStore (s : State) (c : Ctx) (w : Wave) (accs : List (Nat × Nat × Place × Nat)) (n : Nat) (uniform : Bool) (spill : Bool := false) :
    State × Wave :=
  if c.ordered && !spill then
    let news := accs.flatMap fun a => (pieces a.2.2.1 n).map fun p =>
      BufWrite.store p.addr p.width (a.2.2.2 / 256 ^ p.off % 256 ^ p.width)
    (s, { w with buffer := w.buffer ++ news })
  else
    (accs.foldl (fun s a => (pieces a.2.2.1 n).foldl (fun s p =>
      s.request c p a.2.1 a.1 [] none uniform (.store (a.2.2.2 / 256 ^ p.off % 256 ^ p.width))) s) s, w)

end State

/-! ### Barriers and the end of a wave (R89, R176-R181) -/

namespace State

/-- The waves of a group that have not ended (R176). -/
def liveWaves (g : Group) : Nat := (g.waves.filter fun w => !w.ended).length

/-- Entries of a launch's binding table change. -/
def updBindings (s : State) (lid : Nat) (f : PegBinding → PegBinding) : State :=
  s.updLaunch lid fun l => { l with bindings := l.bindings.map f }
/-- A wave arrives at a barrier (16: GBAR) that its bindings may pass (R219). -/
def bindArrive (s : State) (lid g wi k : Nat) : State :=
  s.updBindings lid fun b => if b.owner = some (g, wi) then { b with links := k :: b.links } else b
/-- A phase of a barrier completes: the bindings that it passes are in force for every party (R219). -/
def bindPhase (s : State) (lid k : Nat) (group : Option Nat) : State :=
  s.updBindings lid fun b => if b.links.contains k && (b.owner.all fun o => group.all (· == o.1)) then { b with owner := none } else b
/-- A wave or control core has acquired: its bindings are in force for every party (R219). -/
def acquired (s : State) (c : Ctx) : State :=
  s.updBindings c.lid fun b => if b.owner = some (c.g, c.wi) then { b with owner := none } else b
/-- A store, an atomic or an increment that a group's waves issued below a number is still to be performed (R178). -/
def writesBefore (s : State) (g n : Nat) : Bool :=
  (s.reqs.any fun r => r.group == g && decide (r.id < n) && match r.kind with
    | .store _ | .atomic _ _ | .cas _ _ | .pegAdd => true
    | _ => false) ||
  s.rels.any fun r => r.group == g && decide (r.id < n) && match r.target with | .peg _ => true | _ => false
/-- complete(k) of R176. -/
def barComplete (s : State) (g k : Nat) : State :=
  let s := match mget g s.groups with
    | some x => s.bindPhase x.launch k (some g)
    | none => s
  s.updGroup g fun x => { x with barPhase := dset 0 k ((dget 0 k x.barPhase + 1) % 2 ^ 32) x.barPhase,
                                 barCount := mdel k x.barCount, barDue := mdel k x.barDue, barAfter := mdel k x.barAfter }

/-- A full barrier completes: in the locked regime 16 cycles after the arrival; elsewhere at once, or when the writes that the group's waves
have issued are performed (R178; log entry 114). -/
def barFull (s : State) (g k : Nat) (lockedAt : Option Nat) : State :=
  match lockedAt with
  | none => if s.writesBefore g s.seq then s.updGroup g fun x => { x with barAfter := mset k s.seq x.barAfter } else s.barComplete g k
  | some y => s.updGroup g fun x => { x with barDue := mset k (y + 16) x.barDue }
/-- Full barriers of a group whose writes are performed complete (R178). -/
def barPerformed (s : State) (g : Nat) : State :=
  match mget g s.groups with
  | none => s
  | some x => (x.barAfter.filter fun e => !s.writesBefore g e.2).foldl (fun s e => s.barComplete g e.1) s

/-- Locked phases that are due by now complete (R178). -/
def barSettle (s : State) (c : Ctx) : State :=
  if c.locked then
    (c.grp.barDue.filter fun e => decide (e.2 ≤ s.scy c.l)).foldl (fun s e => s.barComplete c.g e.1) s
  else s

/-- Groups of a launch that take part in GBAR: not ended (R180). -/
def gbarGroups (s : State) (lid : Nat) : List (Nat × Group) :=
  s.groups.filter fun e => e.2.launch == lid && e.2.kind == .lane && e.2.status != .ended

/-- A GBAR phase completes (R180). -/
def gbarComplete (s : State) (lid : Nat) : State :=
  let s := (s.gbarGroups lid).foldl (fun s e => s.updGroup e.1 fun g => { g with gbarArrived := false }) s
  (s.bindPhase lid 16 none).updLaunch lid fun l => { l with gbarPhase := l.gbarPhase + 1, gbarDue := none, gbarAfter := none }
/-- The grid barrier completes when every group that has not ended has arrived (R180, R181): in the locked regime 160 cycles later; elsewhere
at once, or when the writes that their waves have issued are performed (R178; log entry 114). -/
def gbarCheck (s : State) (lid : Nat) : State :=
  match mget lid s.launches with
  | none => s
  | some l =>
    let gs := s.gbarGroups lid
    if gs ≠ [] ∧ (gs.all fun e => e.2.gbarArrived) ∧ l.gbarDue.isNone ∧ l.gbarAfter.isNone then
      if l.card.regime = 2 then s.updLaunch lid fun l => { l with gbarDue := some (s.scy l + 160) }
      else if gs.any fun e => s.writesBefore e.1 s.seq then s.updLaunch lid fun l => { l with gbarAfter := some s.seq }
      else s.gbarComplete lid
    else s
/-- A locked GBAR phase that is due by now completes (R181). -/
def gbarSettle (s : State) (lid : Nat) : State :=
  match mget lid s.launches with
  | none => s
  | some l =>
    match l.gbarDue with
    | none => s
    | some y => if y ≤ s.scy l then s.gbarComplete lid else s
/-- A GBAR phase whose writes are performed completes (R180). -/
def gbarPerformed (s : State) (lid : Nat) : State :=
  match (mget lid s.launches).bind (·.gbarAfter) with
  | none => s
  | some n => if (s.gbarGroups lid).any fun e => s.writesBefore e.1 n then s else s.gbarComplete lid
/-- A group arrives at the grid barrier when every live wave of it waits at a GBAR for its present phase (R180). -/
def gbarArrive (s : State) (g : Nat) : State :=
  match mget g s.groups with
  | none => s
  | some x =>
    let phase := ((mget x.launch s.launches).map (·.gbarPhase)).getD 0
    let waits := x.waves.all fun w => w.ended || (match w.wait with | .gbar p => p == phase | _ => false)
    if waits && decide (0 < liveWaves x) && !x.gbarArrived then
      (s.updGroup g fun x => { x with gbarArrived := true }).gbarCheck x.launch
    else s

/-- The charge of a group to its queue for the interval since it was last charged (R334). -/
def charge (s : State) (g : Nat) : State :=
  match mget g s.groups with
  | none => s
  | some x =>
    match mget x.launch s.launches with
    | none => s
    | some l =>
      let w := l.card.wavesPerGroup
      let t := x.stopFrom.getD s.cyc - x.chargedFrom
      let b := qcfgOff (l.hwq.getD 0)
      let s := s.updGroup g fun x => { x with chargedFrom := s.cyc, stopFrom := x.stopFrom.map fun _ => s.cyc }
      if l.hwq.isNone then s else
      let d := sext (s.barBits b 191 128) 64 - (ceilDiv (w * t) 32 : Nat)
      let lo : Int := -((2 ^ 63 : Nat) : Int)
      (s.setBar b 191 128 (wrapInt 64 (max lo d))).touchQueue (l.hwq.getD 0) 16 8

/-- The claims of a launch end on every cluster (R16, R287, R311): the range records and the commands of the matrix engine go. -/
def freeClaims (s : State) (lid : Nat) : State :=
  { s with clusters := s.clusters.map fun e =>
      if e.2.claim = some lid then (e.1, { e.2 with claim := none, ranges := [], cmds := [], matFlags := [] }) else e }
/-- A card leaves its queue's count (R332). -/
def leaveQueue (s : State) (l : Launch) : State :=
  match l.hwq with
  | some q =>
    let b := qcfgOff q
    let s := (s.setBar b 127 96 (s.barBits b 127 96 - 1)).touchQueue q 12 4
    -- an empty queue keeps no positive deficit (R333)
    if s.barBits b 127 96 = 0 ∧ 0 < sext (s.barBits b 191 128) 64 then (s.setBar b 191 128 0).touchQueue q 16 8 else s
  | none => s
/-- An array's bytes are zeroed with good check bits (R161, R417, R453, R475), but for the words that its armed injector makes (R209). -/
def zeroRange (s : State) (a n : Nat) : State :=
  let out (k : Nat) : Bool := decide (8 * k < a) || decide (a + n ≤ 8 * k)
  let t := { s with mem := s.mem.clear a n, eccBad := s.eccBad.filter fun e => out e.1, injected := s.injected.filter fun e => out e.1,
                    writebacks := s.writebacks.filter fun w => decide (w.1 < a) || decide (a + n ≤ w.1) }
  (s.selectedWords a n).foldl (fun (t : State) w => t.putWord w 0 false) t

/-- A strip card is in service on a cluster: from its start time until it completes (R351). -/
def inService (s : State) (cl : Nat) : Bool :=
  s.launches.any fun e => (e.2.status == .queued || e.2.status == .dispatched || e.2.status == .running) && e.2.card.head != 0xFFFF &&
    decide (s.cycOfPtp e.2.card.startTime ≤ s.cyc) && (s.stplTiles e.2.part e.2.card.head).contains cl
/-- A background group, which is suspended while a strip card is in service on its cluster (R349, R351, R378). -/
def suspends (s : State) (x : Group) : Bool :=
  x.kind == .lane && x.shade.isNone && ((mget x.launch s.launches).map fun (l : Launch) => l.card.head == 0xFFFF && l.card.regime != 2).getD false
/-- A group that had stopped goes on: at once, or suspended while a strip card is in service there (R351). -/
def goesOn (s : State) (x : Group) : Group :=
  if s.inService x.cluster && s.suspends x then { x with status := .suspended, stopFrom := some s.cyc } else { x with status := .resident }
/-- A withdrawn template leaves force once its head has no queued or running strip card (R348). -/
def settleTemplates (s : State) : State :=
  (List.range 132).foldl (fun (s : State) h =>
    if s.barFlag (stplOff h) 289 && !s.barFlag (stplOff h) 288 && s.launches.all (fun e => e.2.card.head != h ||
        e.2.status == .completed || e.2.status == .rejected || e.2.status == .killed)
    then s.setBar (stplOff h) 289 289 0 else s) s
/-- Suspended groups go on where no strip card is in service (R351); the time they stood is not charged (R334). -/
def resumeSuspended (s : State) : State :=
  let s := s.settleTemplates
  { s with groups := s.groups.map fun e =>
      if e.2.status = .suspended ∧ !s.inService e.2.cluster then
        (e.1, { e.2 with status := .resident, chargedFrom := e.2.chargedFrom + (s.cyc - e.2.stopFrom.getD s.cyc), stopFrom := none })
      else e }

/-- A card gives up what it holds on the clusters and elsewhere when it ends (R41, R250, R359, R399, R417): claims, table stores, receive
windows, rays; suspended groups go on. -/
def releaseUnits (s : State) (lid : Nat) : State :=
  let s := s.freeClaims lid
  -- the master learns that a locked launch of another package has ended (log entry 103)
  let s := match mget lid s.launches with
    | some l => if l.card.regime = 2 ∧ 1 < s.domSize ∧ l.start.isSome then
        s.send "domain" [11, l.tag, ownPos s, l.start.getD 0] else s
    | none => s
  let s := (s.clusters.filter fun e => e.2.store.holder == some lid).foldl (fun (s : State) e =>
    (s.zeroRange (Base.table e.1) (2 ^ 17)).setCluster e.1 { s.cluster e.1 with store := TableStore.init }) s
  { s with windows := s.windows.filter fun w => w.launch != lid
           rays := s.rays.filter fun r => ((mget r.2.group s.groups).map fun (g : Group) => g.launch) != some lid }

/-- KILLING A CARD (R359, R330, R429): its groups stop without save and are charged, its saved slots, claims, copies, sends and replays
are freed, its tree token is discarded, its ring slot is consumed, and no peg is released. -/
def killLaunch (s : State) (lid : Nat) : State :=
  match mget lid s.launches with
  | none => s
  | some l =>
    let all := (s.groups.filter fun e => e.2.launch == lid).map (·.1)
    let mine := s.groups.filter fun e => e.2.launch == lid && e.2.status != .ended
    let s := mine.foldl (fun s e => if e.2.kind = .lane ∧ e.2.status ≠ .waiting ∧ e.2.status ≠ .saved then s.charge e.1 else s) s
    let used := mine.filterMap fun e => e.2.slot
    -- page requests not yet posted are dropped (R389)
    let asked (r : List Byte) : Bool :=
      r.headD 0 == 0x50#8 && ofBytes ((r.drop 32).take 8) == l.cardVa && ofBytes ((r.drop 2).take 1) / 16 == l.ctx
    let s := s.setPart l.part { s.partOf l.part with
      slots := (s.partOf l.part).slots.filter fun k => !used.contains k
      heldFaults := (s.partOf l.part).heldFaults.filter fun r => !asked r.2 }
    let s := s.releaseUnits lid
    let s := { s with
      groups := s.groups.filter fun e => e.2.launch != lid
      reqs := s.reqs.filter fun r => !all.contains r.group
      rels := s.rels.filter fun r => !all.contains r.group
      copies := s.copies.filter fun e => e.2.launch != lid
      replays := s.replays.filter fun r => ((mget r.copy s.copies).map fun (k : Copy) => k.launch) != some lid
      sends := s.sends.filter fun e => e.2.launch != lid
      preempts := s.preempts.filter fun r => !(mine.any fun e => e.1 == r.1)
      turn := none }
    let s := match l.ring with
      | none => s
      -- only its own slot: another card may have claimed it since (R429)
      | some k => if s.slotState l.card.head k.slot = 1 ∧ s.slotHolder l.card.head k.slot = some lid then
          (s.updRing l.card.head fun r =>
            let es := r.entries.map fun (e : RingEntry) => if e.slot = some k.slot then { e with slot := none } else e
            { r with entries := es }).consumeSlot l.card.head k.slot
        else s
    let s := s.leaveQueue l
    (s.updLaunch lid fun l => { l with status := .killed, tree := none, hwq := none, raster := none }).resumeSuspended

/-- A batch failed and no WAITB of its issuer reported it before the issuer ended (R324): an XLATE record with pc 0, and the card
is killed. -/
def judgeBatches (s : State) (c : Ctx) : State :=
  match c.w.batchFail with
  | [] => s
  | (_, va) :: _ =>
    let c := { c with w := { c.w with pc := 0 } }
    (s.holdRec (2 + c.part) (s.trapRecord c { trapXlate va with causePc := some 0 })).killLaunch c.lid

/-- A group whose waves have all ended leaves its cluster (R89, R162). -/
def endGroup (s : State) (g : Nat) : State :=
  match mget g s.groups with
  | none => s
  | some x =>
    let s := if x.kind = .lane ∧ x.status ≠ .saved ∧ x.status ≠ .waiting then s.charge g else s
    let p := ((mget x.launch s.launches).map (·.part)).getD 0
    -- the last wave of an ordered group may end while the group is saved
    let s := if x.slot.isNone then s else s.setPart p { s.partOf p with slots := (s.partOf p).slots.filter fun k => some k != x.slot }
    let s := { s with preempts := mdel g s.preempts }.updGroup g fun x => { x with status := .ended, slot := none }
    let s := match x.shade with | some sh => s.shadeEnded x.launch sh.tile | none => s
    let s := s.updLaunch x.launch fun l =>
      if x.kind = .lane then { l with finished := l.finished + 1 } else { l with streams := l.streams - 1 }
    s.gbarCheck x.launch

/-- A wave without threads has not ended yet (R101): accesses of its own are still to be performed, or increments that follow them; of those of
a locked launch, the loads do not count (R235). -/
def owes (s : State) (g wi : Nat) : Bool :=
  (s.reqs.any fun r => r.group == g && r.wave == wi && (r.due.isNone || match r.kind with | .load | .pegRead _ | .tileRead .. => false | _ => true)) ||
    s.rels.any fun r => r.group == g && r.wave == wi && r.due.isNone
/-- A wave has ended (R89, R101, R177): it withdraws from the group's barriers, and the group ends with its last wave. -/
def endWave (s : State) (g wi : Nat) : State :=
  match mget g s.groups with
  | none => s
  | some x =>
    let w := x.waves.getD wi Wave.init
    let held := w.tickets.filter fun e => e.2 == dget 0 e.1 x.barPhase
    let s := s.updGroup g fun x =>
      { x with barCount := held.foldl (fun m e => dset 0 e.1 (dget 0 e.1 m - 1) m) x.barCount,
               waves := x.waves.modify wi fun w => { w with ended := true } }
    match mget g s.groups with
    | none => s
    | some x =>
      let live := liveWaves x
      let y := (mget x.launch s.launches).bind fun l => if l.card.regime = 2 then some (s.scy l) else none
      let full := x.barCount.filter fun e => decide (1 ≤ e.2) && e.2 == live && (mget e.1 x.barDue).isNone && (mget e.1 x.barAfter).isNone
      let s := full.foldl (fun s e => s.barFull g e.1 y) s
      let s := if live = 0 then s.endGroup g else s.gbarArrive g
      match s.ctxOf g wi with
      | some c => s.judgeBatches c
      | none => s
/-- A wave without threads ends once its accesses are performed (R101); one of an ordered launch, in the commit of its fret (log entry 115). -/
def endLeft (s : State) (g wi : Nat) : State :=
  match s.ctxOf g wi with
  | some c => if c.w.leaving && !c.w.trapped && !c.ordered && !s.owes g wi then s.endWave g wi else s
  | none => s
/-- An access of a party has been performed: phases that waited for it complete, and its wave may end (R101, R178, R180). -/
def accessDone (s : State) (g wi : Nat) : State :=
  let s := s.barPerformed g
  let s := match mget g s.groups with
    | some x => s.gbarPerformed x.launch
    | none => s
  s.endLeft g wi

end State

/-! ### The issue of an instruction (R51, R66-R68, R81, R82) -/

/-- Who may issue a form (R66, Tables 02-7 and 02-12). -/
inductive Issuers where
  | wave | both | core
  deriving DecidableEq, Repr

/-- A register operand (R49): first register, how many, and the alignment its number must have. -/
structure Use where
  reg : Reg
  n : Nat := 1
  align : Nat := 1
  /-- the instruction reads it -/
  src : Bool := true
  deriving Repr

/-- Register operands that are read: single, pair, quad. -/
def r1 (r : Reg) : Use := { reg := r }
def r2 (r : Reg) : Use := { reg := r, n := 2, align := 2 }
def r4 (r : Reg) : Use := { reg := r, n := 4, align := 4 }
/-- Register operands that are only written. -/
def w1 (r : Reg) : Use := { reg := r, src := false }
def w2 (r : Reg) : Use := { reg := r, n := 2, align := 2, src := false }
def w4 (r : Reg) : Use := { reg := r, n := 4, align := 4, src := false }

/-- How a form issues. -/
structure Form where
  ins : Instr
  who : Issuers
  uses : List Use := []
  /-- forbidden in waves of a locked launch (R67) -/
  notLocked : Bool := false
  /-- acts with an empty active mask (R51, R90) -/
  whenEmpty : Bool := false
  /-- cycles that the slice is held when the mask is not empty (R81, R84) -/
  occupancy : Nat := 8
  /-- an instruction that waits: it ends the fret before it (R232) -/
  waits : Bool := false
  /-- CLOSE: where it waits, it ends the fret too (R232) -/
  endsFret : Bool := false
  /-- what a wave that ends its fret before this instruction waits for -/
  pending : Wait := .none

/-- What a meaning answers: the instruction takes its slot, traps, or is not ready (R82) with the TIMING cause of a locked party
that is not ready. -/
inductive Res where
  | done (s : State) (w : Wave)
  | trap (ti : TrapInfo)
  | wait (s : State) (w : Wave) (cause : Nat)
  /-- it cannot issue yet, and has looked at nothing: a bank is taken, or an earlier access comes first -/
  | stall (s : State)
  /-- the whole outcome as a state, where more than one party is concerned (REGANG) -/
  | become (s : State)

/-- An event of the machine: the state after it, where the rule of its row lets it happen. -/
@[inline] def event (ok : Bool) (t : State) : Option State := if ok then some t else none
/-- An event that its rule does not let happen does not happen: the machine stays as it is. -/
def happens (s : State) (t : Option State) : Host.Outcome State Fault Refusal := .next (t.getD s)

/-- The word of an instruction, for trap details. -/
def wordOf (i : Instr) : Nat := ((encode i).getD 0).toNat

namespace Ctx

/-- A register operand is legal (R49): aligned, and below the card's regs in a wave. -/
def legal (c : Ctx) (u : Use) : Bool :=
  decide (u.reg.toNat % u.align = 0) && decide (u.reg.toNat + u.n ≤ if c.isCore then 128 else c.card.regs)

/-- The decode checks that depend on the issuer, in the order of Table 02-13 (R66-R68). -/
def decodeTrap (c : Ctx) (f : Form) : Option TrapInfo :=
  if c.isCore && f.who == .wave then some (trapUdf (wordOf f.ins))
  else if !c.isCore && f.who == .core then some (trapUdf (wordOf f.ins))
  else if !(f.uses.all c.legal) then some (trapIllop (wordOf f.ins))
  else if c.locked && !c.isCore && f.notLocked then some (trapRegime (wordOf f.ins))
  else none

/-- The wave after an instruction that only advances. -/
def next (c : Ctx) : Wave := { c.w with pc := c.w.pc + 4 }

end Ctx

namespace State

/-- Where a thread's register lies in the register file of its cluster, for its check bits (log entry 11: the spec gives the file
no layout): the word of two neighbouring threads. -/
def regFileWord (cluster slice g key : Nat) : Nat := Base.regs cluster + (slice * 2 ^ 15 + (g % 8 * 128 * 128 + key * 4) % 2 ^ 15) / 8 * 8
def regWordAddr (c : Ctx) (key : Nat) : Nat := regFileWord c.grp.cluster c.slice c.g key
/-- The register file of a cluster has nothing to correct, and its injector is not armed. -/
def regFileClean (s : State) (cluster : Nat) : Bool := s.eccBad == [] && !s.barFlag (elogOff 1 cluster + 0x410) 72
/-- Registers are written with good check bits, or as the armed injector makes them; one of the two of a bad word leaves it as poison (R205,
R209). The registers themselves are held as the corrector reads them. -/
def regFileWrite (s : State) (cluster slice g : Nat) (keys : List Nat) (who : Option (Nat × Nat)) : State :=
  if regFileClean s cluster then s else
  ((keys.map (regFileWord cluster slice g)).eraseDups).foldl (fun s a =>
    let halves := (keys.filter fun k => regFileWord cluster slice g k == a).map (· % 2)
    let bytes (h : Nat) : List (Nat × Byte) := if halves.contains h then (List.range 4).map fun i => (4 * h + i, 0#8) else []
    { (s.mergeWord a (bytes 0 ++ bytes 1) who) with mem := s.mem }) s
/-- The n registers of every thread of a wave of a group are written, or pass their corrector (R161, R204, R209). -/
def regFileAll (s : State) (cluster slice g n : Nat) (write : Bool) (who : Option (Nat × Nat)) : State :=
  if regFileClean s cluster then s else
  (List.range (16 * n)).foldl (fun (s : State) k =>
    let a := regFileWord cluster slice g (2 * k)
    if write then { (s.putWord a 0 false) with mem := s.mem } else if s.badAt a = 0#8 then s else (s.tagRead a false who).2) s

/-- The register words that an instruction reads pass their corrector (R204, R205): the first uncorrectable one. -/
def regRead (s : State) (c : Ctx) (f : Form) : Option EccHit × State :=
  if s.eccBad = [] then (none, s) else
  let keys := (f.uses.filter (·.src)).flatMap fun u => (List.range u.n).flatMap fun k =>
    (if c.isCore then [0] else c.active).map fun t => (u.reg.toNat + k) * 32 + t
  let words := (keys.map (regWordAddr c)).eraseDups.filter fun a => s.badAt a != 0#8
  words.foldl (fun st a =>
    let (_, h, s) := st.2.readWord a c.who
    (st.1.orElse fun _ => h.map fun h => { h with addr := 0 }, s)) (none, s)

/-- The register words that landed are written with good check bits, or as the armed injector makes them (R205, R209). The
registers themselves are held as the corrector reads them. -/
def regWrite (s : State) (c : Ctx) (before after : Wave) : State :=
  if regFileClean s c.grp.cluster then s else
  let landed := before.pend.filter fun e => !(after.pend.any fun x => x.id == e.id)
  regFileWrite s c.grp.cluster c.slice c.g (landed.flatMap fun e => match e.what with | .regs v => v.map (·.1) | _ => []) c.who

/-- The live waves of a gang: one group, one octet (R85). -/
def gang (c : Ctx) : List (Nat × Wave) :=
  (c.grp.waves.zipIdx.map fun e => (e.2, e.1)).filter fun e =>
    !e.2.ended && (c.grp.s0 + e.1) % 32 / 8 == c.slice / 8
/-- The issue parts the gang: another live wave of it is at another instruction (R86), or has fallen behind because it waits. -/
def gangDiffers (c : Ctx) : Bool :=
  (gang c).any fun e => e.1 != c.wi &&
    ((e.2.gangN == c.w.gangN && e.2.pc != c.w.pc) || decide (e.2.gangN < c.w.gangN) ||
      (e.2.gangN == c.w.gangN + 1 && e.2.lastPc != c.w.pc))
def isParted (c : Ctx) : Bool := c.grp.parted.contains (c.slice / 8)
/-- The octet's gang is parted from this issue on (R86). -/
def gangCheck (s : State) (c : Ctx) : State :=
  if !c.locked && !c.isCore && !isParted c && gangDiffers c then
    s.updGroup c.g fun g => { g with parted := (c.slice / 8) :: g.parted }
  else s

/-- The instruction has taken its slot (R81): the slot count, the landings that are now due, the end of the fret and of the
wave, and the turn of a locked slice. -/
def retire (s : State) (c : Ctx) (w : Wave) (occupancy : Nat) : State :=
  let retired := w.retired + 1
  let fretEnd := c.ordered && (w.fretEnded || w.leaving || decide (2 ^ c.card.fretLog2 ≤ retired))
  let w := { w with gangN := w.gangN + 1, lastPc := c.w.pc }
  let w := { w with slot := w.slot + 1, skip := false, wait := .none, fretChecked := false, retired := retired, fretEnded := fretEnd }
  let before := w
  let w := w.land
  let s := s.gangCheck c
  let y := s.scy c.l
  let w := if c.isCore && c.locked then { w with nextIssue := y + 8 } else w
  let s := (s.regWrite c before w).setWave c.g c.wi w
  let turn : Turn := { scy := y + occupancy, last := some (c.grp.index * 32 + c.wi) }
  let s := if c.locked && !c.isCore then
      s.updLaunch c.lid fun l => { l with turns := mset (c.grp.cluster * 32 + c.slice) turn l.turns }
    else s
  let s := { s with turn := none }
  s.endLeft c.g c.wi

/-- The wave is not ready: nothing has issued (R82). A locked party that is not ready raises TIMING with the cause given (R83,
R279); cause 0 stands for a wait that the locked regime allows (WAITC, R277). The record names the wave's slice, 0 for a core (log entry 137). -/
def notReady (s : State) (c : Ctx) (w : Wave) (cause : Nat) : State :=
  if c.locked && cause != 0 then s.takeTrap { c with w := w } (trapTiming cause (if c.isCore ∨ 4 < cause then 0 else c.slice))
  else { s.setWave c.g c.wi w with turn := none }

/-- The issue of one instruction by the party that holds the turn. -/
def issue (s : State) (f : Form) (body : State → Ctx → Res) : Host.Outcome State Fault Refusal :=
  match s.issuer with
  | none => .refused .noIssuer
  | some c =>
    .next <|
      -- a result due at this slot that is faulty or has not arrived (R106, R110, R236)
      match c.w.faulty with
      | some e =>
        let ti := match e.ecc with
          | some h => { trapEcc h with landing := true, causePc := some e.pc.toNat }
          | none => { trapTiming 0x0D with landing := true, causePc := some e.pc.toNat }
        (s.updWave c.g c.wi fun w => { w with pend := w.pend.filter fun x => x.id != e.id }).takeTrap c ti
      | none =>
      if c.w.late then s.notReady c c.w 1
      else if c.ordered && c.w.fretEnded then s.notReady c c.w 2
      else match c.decodeTrap f with
      | some ti => s.takeTrap c ti
      | none =>
        if c.w.active = 0 ∧ !f.whenEmpty then s.retire c c.next 8
        else match s.regRead c f with
        | (some h, s) => s.takeTrap c (trapEcc h)
        | (none, s) =>
          -- an instruction that waits ends the fret it stands in, unless it is the first of its fret (R232)
          if c.ordered && f.waits && decide (0 < c.w.retired) && !c.w.fretChecked then
            s.notReady c { c.w with fretEnded := true, wait := f.pending } 2
          else match body s c with
          | .done s w => s.retire c w f.occupancy
          | .trap ti => s.takeTrap c ti
          | .become s | .stall s => { s with turn := none }
          | .wait s w cause => s.notReady c (if c.ordered && (f.waits || f.endsFret) then { w with fretEnded := true } else w) cause

end State

end Sys2Proof.Machine
end

