-- ==== Sys2Proof/Machine/Banks.lean ====
section
/-! DEFINITION. What a bank lets an access do (06 R185-R191): retention, the order of arrival, the requests that a bank holds, and the
access of an engine to several words. -/

namespace Sys2Proof.Machine

/-- The first bank of a request, and all of them. -/
def Req.bank (r : Req) : Nat := bankOf r.local_ r.addr
def Req.banks (r : Req) : List Nat := banksOf r.local_ r.addr r.width
/-- A region of a partition's window (on-die base and bytes) holds a byte of bank k of a cluster's slice. -/
def regionBank (s : State) (p base len cl k : Nat) : Bool :=
  let i := (s.slices p).findIdx (· == cl)
  let lo := max base (0x40000000 + i * 2 ^ 21)
  let hi := min (base + len) (0x40000000 + (i + 1) * 2 ^ 21)
  decide (i < (s.slices p).length) && decide (lo < hi) &&
    (decide (128 ≤ hi - lo) || (List.range ((hi - 1) / 8 - lo / 8 + 1)).any fun j => (lo / 8 + j) % 16 == k)
/-- A receive window is armed (R251); at the SCY where a stop stands, from the end of the stop on (R256, R286). -/
def armed (s : State) (w : Window) : Option Launch :=
  match mget w.launch s.launches with
  | some l => if (l.status == .running || l.status == .halted) && s.scyPast l w.from_ &&
      (match w.close with | some y => !s.scyPast l y | none => true) then some l else none
  | none => none
/-- A scratchpad bank is held awake (R191). -/
def heldAwake (s : State) (b : Nat) : Bool :=
  let held (p base len : Nat) : Bool := regionBank s p base len (b / 16) (b % 16)
  decide (b < 2 ^ 20) &&
  ((s.launches.any fun e =>
      ((bit e.2.card.flags 0 && (e.2.status == .running || e.2.status == .halted) && decide (0 < e.2.made)) ||
        (e.2.card.regime == 2 && (e.2.status == .dispatched || e.2.status == .running || e.2.status == .halted) && decide (e.2.start.getD 0 ≤ s.cyc + 4096))) &&
      e.2.card.footprints.any fun f => bits f.flags 3 2 == 1 && decide (0 < f.len) && held e.2.part f.base f.len) ||
    (s.windows.any fun w => match armed s w with | some l => held l.part w.base w.len | none => false) ||
    (List.range 256).any fun n =>
      let q := qdescOff n
      s.barBits q 41 40 != 0 && (held (s.barBits q 53 48) (s.barBits q 31 0) (2 ^ (s.barBits q 35 32 + s.barBits q 39 36)) ||
        held (s.barBits q 53 48) (s.barBits q 95 64) 8))
/-- A scratchpad bank is in retention: 4,096 idle cycles have ended, and nothing holds it awake (R189); one whose count has passed them while it
was held awake is in retention as soon as nothing holds it (log entry 131). -/
def asleep (s : State) (b : Nat) : Bool :=
  decide (b < 2 ^ 20) && (dget false b s.bankAsleep || decide (dget 0 b s.bankIdle + 4096 ≤ s.idleClock)) && !heldAwake s b
/-- A request's place among those that reach a bank in one cycle (R172, R186). -/
def reqRank (s : State) (r : Req) : Nat :=
  match s.reqCtx r with
  | some c => portRank s c r.local_ ((r.addr - Base.slice 0) / 2 ^ 21)
  | none => 0
/-- Another request waits at a bank of this one and comes before it: it has come earlier, or in the same cycle by an earlier port (R186). -/
def behind (s : State) (r : Req) : Bool :=
  s.reqs.any fun q => q.id != r.id && q.due.isNone && decide (q.arrive ≤ s.cyc) && State.shareBank r q && s.mayServe q &&
    (decide (q.arrive < r.arrive) || (q.arrive == r.arrive && decide (reqRank s q < reqRank s r)))
/-- The bank has served a request of the same word and instruction in this cycle: the two are one access (R172). -/
def merged (s : State) (r : Req) : Bool :=
  let same := r.banks.all fun b => mget b s.bankLast == some (r.group, r.wave, r.slot, r.addr / 8) && dget 0 b s.bankBusy == s.cyc + 1
  same && match r.kind with | .load | .store _ => true | _ => false
/-- A bank holds a request that it could not serve before: it has served another up to this cycle (R188). -/
def holding (s : State) (b : Nat) : Bool :=
  dget 0 b s.bankBusy == s.cyc && s.reqs.any fun q => q.due.isNone && decide (q.arrive < s.cyc) && q.banks.contains b && s.mayServe q
/-- A locked request finds a bank that serves another, or holds one (R188). -/
def bankTaken (s : State) (r : Req) : Bool := (s.banksBusy r.banks && !merged s r) || r.banks.any (holding s)

/-- The banks of an access to parts of the scratchpad and of local stores (R172, R185); the engine reaches the other arrays by ports of their
own (R308). -/
def partBanks (parts : List (Nat × Nat)) : List Nat :=
  parts.flatMap fun p => if Base.operand 0 ≤ p.1 then [] else banksOf (decide (Base.local_ 0 ≤ p.1)) p.1 p.2
/-- A locked access of an engine finds its banks free and awake, or the TIMING cause (R188, R328). -/
def bankFault (s : State) (parts : List (Nat × Nat)) : Option Nat :=
  (partBanks parts).findSome? fun b => if s.banksBusy [b] || holding s b then some 3 else if asleep s b then some 4 else none
/-- The banks of an access have served it, a word a cycle. -/
def touchBanks (s : State) (parts : List (Nat × Nat)) : State := s.occupyWords (partBanks parts)
/-- An access that comes to its banks now must wait: one of them serves another, or requests that came before wait at it (R186, R193). -/
def bankWaits (s : State) (bs : List Nat) : Bool :=
  s.banksBusy bs || s.reqs.any fun q => q.due.isNone && decide (q.arrive ≤ s.cyc) && (q.banks.any bs.contains) && s.mayServe q
/-- An access outside the locked regime is performed where its banks are free and awake: else it waits (none), and a bank in retention
wakes, in 24 cycles (R186, R190). -/
def atBanks (s : State) (bs : List Nat) (go : State → Option State) : Option State :=
  if bankWaits s bs then none else if bs.any (asleep s) then some (s.occupy bs 24) else go s
/-- The access of an instruction that is performed at its issue: it stalls where its banks do not serve it. -/
def issueAt (s : State) (bs : List Nat) (go : State → Res) : Res :=
  if bankWaits s bs then .stall s else if bs.any (asleep s) then .stall (s.occupy bs 24) else go s
/-- An event of an engine that reads or writes parts of banked arrays. -/
def engineAt (s : State) (parts : List (Nat × Nat)) (go : State → Option State) : Option State :=
  atBanks s (partBanks parts) fun s => go (touchBanks s parts)

/-- The bytes of the scratchpad window, cut at the slices' ends. -/
def windowParts (s : State) (p a n : Nat) : List (Nat × Nat) :=
  let k := 2 ^ 21 - (a - 0x40000000) % 2 ^ 21
  if n ≤ k then [(s.windowAddr p a, n)] else [(s.windowAddr p a, k), (s.windowAddr p (a + k), n - k)]
/-- The 8-byte words that parts of arrays touch: the bytes of each, as address and count, in order. -/
def partWords (parts : List (Nat × Nat)) : List (Nat × Nat) :=
  parts.flatMap fun p => (List.range ((p.1 + p.2 + 7) / 8 - p.1 / 8)).map fun i =>
    let lo := max p.1 ((p.1 / 8 + i) * 8)
    (lo, min (p.1 + p.2) ((p.1 / 8 + i + 1) * 8) - lo)
/-- Reading parts of on-die arrays: bytes, and the mask of those whose word was uncorrectable (R205, R325). -/
def readParts (s : State) (parts : List (Nat × Nat)) (who : Option (Nat × Nat)) : List Byte × Nat × State :=
  (partWords parts).foldl (fun (st : List Byte × Nat × State) p =>
    let (bs, h, s) := st.2.2.readMem p.1 p.2 who
    (st.1 ++ bs, if h.isSome then st.2.1 + (2 ^ p.2 - 1) * 2 ^ st.1.length else st.2.1, s)) ([], 0, s)
/-- Writing them; a word that receives a poison byte is written as poison (R205, R325). -/
def writeParts (s : State) (parts : List (Nat × Nat)) (bs : List Byte) (poison : Nat) (who : Option (Nat × Nat)) : State :=
  ((partWords parts).foldl (fun (st : State × List Byte × Nat) p =>
    let s := st.1.writeMem p.1 (st.2.1.take p.2) who
    let s := if st.2.2 % 2 ^ p.2 = 0 then s else s.poisonWord (p.1 / 8 * 8) []
    (s, st.2.1.drop p.2, st.2.2 / 2 ^ p.2)) (s, bs, poison)).1

end Sys2Proof.Machine
end

