-- ==== Sys2Proof/Machine/Operands.lean ====
section
/-! DEFINITION. The operand forms of the instruction words (02 Table 02-1, R46-R50): register and pair operands, the M- and
E-class addresses, the branch targets, and how a lane form and a uniform form land their results (R50, R104). -/

namespace Sys2Proof.Machine

/-- The value of a register operand of n words (a single, R45, or a pair, R49). -/
def operand (w : Wave) (t : Nat) (r : Reg) (words : Nat) : Nat :=
  if words = 2 then (w.dreg t r.toNat).toNat else (w.reg t r.toNat).toNat

/-- The M-class byte address: v[va] + off10·w modulo 2^32 (R47). -/
def mAddr (c : Ctx) (t : Nat) (a : Reg) (off : BitVec 10) (w : Nat) : Nat :=
  ((c.w.reg t a.toNat).toNat + off.toNat * w) % 2 ^ 32
/-- The E-class address: v[va] + v[vb] modulo 2^32 (R169). -/
def eAddr (c : Ctx) (t : Nat) (a b : Reg) : Nat :=
  ((c.w.reg t a.toNat).toNat + (c.w.reg t b.toNat).toNat) % 2 ^ 32
/-- The atomic's address: v[va] (R196). -/
def aAddr (c : Ctx) (t : Nat) (a : Reg) : Nat := (c.w.reg t a.toNat).toNat

/-- The target of a branch: pc + 4·sext(off17) modulo 2^52 (R48). -/
def target (pc : BitVec 52) (off : BitVec 17) : BitVec 52 := pc + (off.signExtend 52) * 4#52
/-- The return address that CALL writes (R95). -/
def returnAddr (pc : BitVec 52) : Word := (pc + 4#52).setWidth 32
/-- The pc that RET takes from a link (R96). -/
def returnPc (pc : BitVec 52) (link : Word) : BitVec 52 := (pc &&& 0xFFFFF00000000#52) ||| link.setWidth 52

/-- The register words of a result: the low word in v[r], and so on. -/
def resultWords (r words t x : Nat) : List (Nat × Word) :=
  (List.range words).map fun k => ((r + k) * 32 + t, BitVec.ofNat 32 (x / 2 ^ (32 * k)))

/-- A landing entry for values that exist at issue. -/
def landing (s : State) (c : Ctx) (dist width : Nat) (mask : BitVec 32) (what : LandWhat) (raise : List (Nat × BitVec 5)) : Landing :=
  { id := s.seq, slot := c.w.slot + dist, pc := c.w.pc, width := width, mask := mask, what := what, raise := raise, waiting := 0,
    arrived := true, nextFret := false, ecc := none, acqFail := none, again := false }

/-- The instruction lands values and goes on at the next instruction. -/
def landAt (s : State) (c : Ctx) (e : Landing) : Res := .done s.fresh (c.next.push e)

/-- A lane form: each active thread's result lands in its own registers (R50, R104). -/
def laneResult (s : State) (c : Ctx) (d : Reg) (words dist : Nat) (f : Nat → Nat × FFlags) : Res :=
  let rs := c.active.map fun t => (t, f t)
  landAt s c (landing s c dist (32 * words) c.w.active
    (.regs (rs.flatMap fun r => resultWords d.toNat words r.1 r.2.1)) ((rs.filter (·.2.2 != 0)).map fun r => (r.1, r.2.2)))

/-- A uniform form: one result, from the leader's registers, lands in every thread (R50, R128). -/
def uniformResult (s : State) (c : Ctx) (d : Reg) (words dist : Nat) (r : Nat × FFlags) : Res :=
  landAt s c (landing s c dist (32 * words) (maskOf c.all)
    (.regs (c.all.flatMap fun t => resultWords d.toNat words t r.1)) (if r.2 = 0 then [] else c.all.map fun t => (t, r.2)))

/-- A lane form of the arithmetic classes: per thread. -/
def laneForm (s : State) (i : Instr) (uses : List Use) (d : Reg) (words dist : Nat) (occ : Nat) (f : Ctx → Nat → Nat × FFlags) :
    Host.Outcome State Fault Refusal :=
  s.issue { ins := i, who := .wave, uses := uses, occupancy := occ } fun s c => laneResult s c d words dist (f c)
/-- Its uniform form: once, for the leader. -/
def uniformForm (s : State) (i : Instr) (uses : List Use) (d : Reg) (words dist : Nat) (f : Ctx → Nat → Nat × FFlags) :
    Host.Outcome State Fault Refusal :=
  s.issue { ins := i, who := .both, uses := uses } fun s c => uniformResult s c d words dist (f c c.leader)

end Sys2Proof.Machine
end

