-- ==== Sys2Proof/Machine/Flags.lean ====
section
/-! DEFINITION. The floating-point state of the issuer and its flags (02 R71, Table 02-16; 04 R125, R127, R128). -/

namespace Sys2Proof.Machine

/-- Rounding mode and FP32 flush options of a wave or core at issue (R125, R127). -/
def env32 (w : Wave) : Fp.Env :=
  { rm := Fp.RMode.ofCode w.rmode.toNat, ftzIn := w.ftz.getLsbD 0, ftzOut := w.ftz.getLsbD 1 }
/-- The same for FP64. -/
def env64 (w : Wave) : Fp.Env :=
  { rm := Fp.RMode.ofCode w.rmode.toNat, ftzIn := w.ftz.getLsbD 2, ftzOut := w.ftz.getLsbD 3 }
def rmodeOf (w : Wave) : Fp.RMode := Fp.RMode.ofCode w.rmode.toNat
/-- The OR of the sticky flags of every thread (R73). -/
def allFlags (w : Wave) : BitVec 5 := ((List.range 32).map w.flags).foldl (· ||| ·) 0#5
/-- The flags of a list of results, ORed (R147, R154, R159). -/
def orFlags (fs : List FFlags) : FFlags := fs.foldl (· ||| ·) 0#5

/-- Environment of a conversion: the flush options apply to its FP32 and FP64 source and result (R127, R157). -/
def cvtIn (w : Wave) : CvtFmt → Bool
  | .f32 => w.ftz.getLsbD 0
  | .f64 => w.ftz.getLsbD 2
  | _ => false
def cvtOut (w : Wave) : CvtFmt → Bool
  | .f32 => w.ftz.getLsbD 1
  | .f64 => w.ftz.getLsbD 3
  | _ => false

end Sys2Proof.Machine
end

