-- ==== Sys2Proof/Machine/Xlate.lean ====
section
/-! DEFINITION. Main memory: ownership and keys (18 R444-R446), page tables, the TLB and walks (R447-R450), translation faults and
the fault queue (R451, R452). -/

namespace Sys2Proof.Machine

/-- What a translation answers: a physical address, a fault with its reason (Table 18-4), or a wait for a scrub (R445); and what a read of
virtual memory may find besides, an uncorrectable word (R205). -/
inductive Xl where
  | pa (a : Nat)
  | fault (reason : Nat)
  | wait
  | ecc
  deriving DecidableEq, Repr

/-- The code of an access kind (Table 18-4). -/
def accCode : Access → Nat
  | .read => 0 | .write => 1 | .fetch => 2

namespace State

/-- The owner check of a physical address (R444, R473): 4 above the memory, 5 not owned, wait while it is scrubbed. -/
def owned (s : State) (p pa : Nat) : Option Xl :=
  let m := mownOff (pa / 2 ^ 30)
  if 2 ^ 33 * s.barBits capsOff 23 16 ≤ pa then some (.fault 4)
  else if !s.barFlag m 6 || s.barBits m 5 0 != p then some (.fault 5)
  else if s.barFlag m 7 then some .wait
  else none

/-- The number of a partition's key pair in force (R446). -/
def keyNum (s : State) (p : Nat) : Nat := 64 * (s.partOf p).key + p
/-- The key under which a line was last written; none where it has its zeros of bring-up (R446, R475). -/
def keyOf (s : State) (line : Nat) : Option Nat := (mget line s.lineKey).orElse fun _ => mget (line / 2 ^ 24) s.granKey
/-- Reading main memory under a partition's key. -/
def mainRead (s : State) (p pa n : Nat) : List Byte :=
  let k := s.keyNum p
  (List.range n).map fun i =>
    match s.keyOf ((pa + i) / 64) with
    | none => s.mem.byte (Base.lpddr + pa + i)
    | some e => if e = k then s.mem.byte (Base.lpddr + pa + i)
      else Config.wrongKey ((pa + i) / 16) (s.mem.bytes (Base.lpddr + (pa + i) / 16 * 16) 16) e k ((pa + i) % 16)
/-- The bytes of n of main memory whose 8-byte word is poison, as a mask (R205; log entry 15). -/
def mainPoison (s : State) (pa n : Nat) : Nat :=
  if s.eccBad = [] then 0
  else (List.range n).foldl (fun m i => if s.badAt (Base.lpddr + pa + i) = 0#8 then m else m + 2 ^ i) 0
/-- Writing it: a line under another key is read as it decrypts, and written whole under this one. A word that receives a poison byte is poison
from then on, until 8 bytes replace it (R205). -/
def mainWrite (s : State) (p pa : Nat) (bs : List Byte) (poison : Nat := 0) : State :=
  let k := s.keyNum p
  let n := bs.length
  let lines := (List.range ((pa + n + 63) / 64 - pa / 64)).map fun i => pa / 64 + i
  let s := lines.foldl (fun (s : State) l =>
    if s.keyOf l = some k then s else
      { s with mem := s.mem.setBytes (Base.lpddr + 64 * l) (s.mainRead p (64 * l) 64), lineKey := mset l k s.lineKey }) s
  let s := { s with mem := s.mem.setBytes (Base.lpddr + pa) bs }
  if s.eccBad = [] ∧ poison = 0 then s else
  (List.range ((pa + n + 7) / 8 - pa / 8)).foldl (fun (s : State) i =>
    let w := pa / 8 + i
    let (lo, hi) := (max pa (8 * w), min (pa + n) (8 * w + 8))
    let key := Base.lpddr / 8 + w
    if poison / 2 ^ (lo - pa) % 2 ^ (hi - lo) ≠ 0 then { s with eccBad := dset 0#8 key 0x7F#8 s.eccBad }
    else if hi - lo = 8 then { s with eccBad := dset 0#8 key 0#8 s.eccBad } else s) s
def mainLoad (s : State) (p pa n : Nat) : Nat := ofBytes (s.mainRead p pa n)

/-! ### Walks (R447-R449) -/

/-- The page of a leaf entry at a level (R448, Table 18-4a): none is a bad entry. -/
def leafSize (level e : Nat) : Option Nat :=
  let rk := bits e 7 5
  let ok := match level with | 0 | 1 => decide (rk ≤ 4) | 2 => decide (rk ≤ 1) | _ => false
  let size := 4 ^ rk * 2 ^ (12 + 10 * level)
  if ok && bits e 51 12 * 2 ^ 12 % size == 0 then some size else none

/-- One walk from a node down (R449), `level` + 1 levels to go. -/
def walkFrom (s : State) (p c va : Nat) : Nat → Nat → Xl ⊕ TlbEntry
  | 0, _ => .inl (.fault 3)
  | level + 1, node =>
    let ea := node + 8 * (va / 2 ^ (12 + 10 * level) % 1024)
    match s.owned p ea with
    | some x => .inl x
    | none =>
      let e := s.mainLoad p ea 8
      if !bit e 0 then .inl (.fault 1)
      else if bits e 11 8 ≠ 0 ∨ bits e 63 52 ≠ 0 then .inl (.fault 3)
      else if bit e 1 then
        match leafSize level e with
        | none => .inl (.fault 3)
        | some size =>
          let pa := bits e 51 12 * 2 ^ 12
          match s.owned p (pa + va % size) with
          | some x => .inl x
          | none => .inr { part := p, ctx := c, base := va / size * size, size := size, pa := pa, r := bit e 2, w := bit e 3, x := bit e 4 }
      else if level = 0 ∨ bit e 12 then .inl (.fault 3)
      else walkFrom s p c va level (bits e 51 12 * 2 ^ 12)

/-- A walk for a context (R449): reason 1 when the context is off. -/
def walk (s : State) (p c va : Nat) : Xl ⊕ TlbEntry :=
  if !s.barFlag (ctxOff p c) 0 then .inl (.fault 1)
  else s.walkFrom p c va 4 (s.barBits (ctxOff p c) 51 13 * 2 ^ 13)

/-- The permission check of an entry. -/
def permits (e : TlbEntry) : Access → Bool
  | .read => e.r | .write => e.w | .fetch => e.x
/-- The engines of a tile that translate (R449): copy 0, texture 1, ray 2, quasi-random 3, instruction fetch 4. -/
def engineOf (cluster k : Nat) : Option Nat := some (cluster * 16 + k)
/-- The entry of an address among cached ones. -/
def entryOf (es : List TlbEntry) (p c va : Nat) : Option TlbEntry :=
  es.find? fun e => e.part == p && e.ctx == c && decide (e.base ≤ va) && decide (va < e.base + e.size)
/-- The entry of an address in the second-level TLB. -/
def tlbHit (s : State) (p c va : Nat) : Option TlbEntry := entryOf s.tlb p c va
/-- The entry of an address in the first-level TLB of an engine. -/
def tlb1Hit (s : State) (eng : Option Nat) (p c va : Nat) : Option TlbEntry := eng.bind fun k => entryOf (dget [] k s.tlb1) p c va
/-- What an entry answers. -/
def viaEntry (s : State) (e : TlbEntry) (va : Nat) (acc : Access) : Xl :=
  let pa := e.pa + (va - e.base)
  match s.owned e.part pa with
  | some x => x
  | none => if permits e acc then .pa pa else .fault 2

/-- The word of the second-level TLB that an entry occupies (log entry 106). -/
def tlbWord (base : Nat) : Nat := Base.dieWide 0x20 + 8 * (base / 4096 % 65536)
/-- A walk whose success is cached (R449). -/
def xlateWalk (s : State) (p c va : Nat) (acc : Access) : Xl × State :=
  match s.walk p c va with
  | .inl x => (x, s)
  | .inr e => (s.viaEntry e va acc, if permits e acc then { s with tlb := (e :: s.tlb).take 65536 }.tagWrite (tlbWord e.base) 8 none else s)
/-- Translating an address past the first level (R449): a cached entry, or a walk. An entry with an uncorrectable error is discarded and fetched
again (R205). -/
def xlate2 (s : State) (p c va : Nat) (acc : Access) : Xl × State :=
  match s.tlbHit p c va with
  | some e =>
    match s.tagRead (tlbWord e.base) true (some (p, c)) with
    | (false, s) => (s.viaEntry e va acc, s)
    | (true, s) => { s with tlb := s.tlb.filter (· != e) }.xlateWalk p c va acc
  | none => s.xlateWalk p c va acc
/-- A translation that has succeeded is kept in the first-level TLB of the engine that asked for it: 64 entries (R449). -/
def keepEntry (s : State) (eng : Option Nat) (p c va : Nat) : State :=
  match eng, s.tlbHit p c va with
  | some k, some e => { s with tlb1 := mset k ((e :: dget [] k s.tlb1).take 64) s.tlb1 }
  | _, _ => s
/-- Translating an address for an engine of a tile, or for a part of the die that has no first-level TLB (R449). -/
def xlate (s : State) (p c va : Nat) (acc : Access) (eng : Option Nat := none) : Xl × State :=
  match s.tlb1Hit eng p c va with
  | some e => (s.viaEntry e va acc, s)
  | none => match s.xlate2 p c va acc with
    | (.pa a, s) => (.pa a, s.keepEntry eng p c va)
    | r => r

/-- Reading n bytes of virtual memory in parts that stay in one 64-byte line (`fuel` parts): the bytes with the mask of those that are poison, or
what stopped it. -/
def vreadN (s : State) (p c : Nat) (eng : Option Nat) : Nat → Nat → Nat → (List Byte × Nat ⊕ Xl) × State
  | 0, _, _ => (.inl ([], 0), s)
  | fuel + 1, va, n =>
    if n = 0 then (.inl ([], 0), s) else
    let k := min n (64 - va % 64)
    match s.xlate p c va .read eng with
    | (.pa a, s) =>
      match s.vreadN p c eng fuel (va + k) (n - k) with
      | (.inl (bs, m), s) => (.inl (s.mainRead p a k ++ bs, s.mainPoison a k + m * 2 ^ k), s)
      | r => r
    | (x, s) => (.inr x, s)
/-- Reading n bytes of virtual memory, with the mask of those that are poison. -/
def vreadP (s : State) (p c va n : Nat) (eng : Option Nat := none) : (List Byte × Nat ⊕ Xl) × State := s.vreadN p c eng (n / 64 + 2) va n
/-- Reading n bytes of virtual memory; an uncorrectable word stops the reader. -/
def vread (s : State) (p c va n : Nat) (eng : Option Nat := none) : (List Byte ⊕ Xl) × State :=
  match s.vreadP p c va n eng with
  | (.inl (bs, m), s) => (if m = 0 then .inl bs else .inr .ecc, s)
  | (.inr x, s) => (.inr x, s)
/-- Writing bytes of virtual memory, within one page per 64-byte line. -/
def vwriteN (s : State) (p c : Nat) : Nat → Nat → List Byte → Nat → Option Xl × State
  | 0, _, _, _ => (none, s)
  | fuel + 1, va, bs, poison =>
    if bs = [] then (none, s) else
    let k := min bs.length (64 - va % 64)
    match s.xlate p c va .write with
    | (.pa a, s) => (s.mainWrite p a (bs.take k) (poison % 2 ^ k)).vwriteN p c fuel (va + k) (bs.drop k) (poison / 2 ^ k)
    | (x, s) => (some x, s)
def vwrite (s : State) (p c va : Nat) (bs : List Byte) (poison : Nat := 0) : Option Xl × State :=
  s.vwriteN p c (bs.length / 64 + 2) va bs poison

/-! ### Faults and the fault queue (R451, R452) -/

/-- A record is held for a partition's fault queue. -/
def holdFault (s : State) (p id : Nat) (r : List Byte) : State :=
  let x := s.partOf p
  s.setPart p { x with heldFaults := x.heldFaults ++ [(id, r)] }
/-- A translation fault of an engine: one record serves a page and kind until its verdict (R322). The fault's id. -/
def raiseFault (s : State) (p c cluster engine va reason : Nat) (acc : Access) : Nat × State :=
  let page := va / 4096 * 4096
  match s.faultRecs.find? fun f => f.part == p && f.ctx == c && f.cluster == cluster && f.engine == engine && f.page == page &&
      f.acc == accCode acc with
  | some f => (f.id, s)
  | none =>
    let id := s.seq + 1
    let r := record 64 [(0, 0x30), (8, reason), (12, accCode acc), (14, engine), (20, c), (24, p), (32, cluster), (64, page),
      (128, s.cyc)]
    let f : FaultRec := { id := id, part := p, cluster := cluster, ctx := c, page := page, acc := accCode acc, engine := engine, seq := none }
    (id, { s with seq := id, faultRecs := s.faultRecs ++ [f] }.holdFault p id r)

/-- The fault queue has room (R451). -/
def faultRoom (s : State) (p : Nat) : Bool :=
  let b := pcfgOff p
  decide ((s.barBits b 543 512 + 2 ^ 32 - s.barBits b 575 544) % 2 ^ 32 < 2 ^ s.barBits b 491 488)

/-- The address of the fault queue's next record (R451). -/
def faultSlot (s : State) (p : Nat) : Nat :=
  let b := pcfgOff p
  s.barBits b 487 448 / 64 * 64 + 64 * (s.barBits b 543 512 % 2 ^ s.barBits b 491 488)

end State

/-- FAULT_RECORD_POST (R451): the oldest held record is written, then fqwr advances. -/
def tryFaultRecordPost (part : Nat) (s : State) : Option State :=
  match (s.partOf part).heldFaults with
  | [] => none
  | (id, r) :: rest =>
    let b := pcfgOff part
    let wr := s.barBits b 543 512
    let a := s.faultSlot part
    -- a write to an address that the partition does not own is refused, and one under scrub waits (R444, R445)
    let t := if (s.owned part a).isNone then s.mainWrite part a (r.take 60 ++ toBytes wr 4) else s
    let t := (t.setBar b 543 512 (wr + 1)).setPart part { s.partOf part with heldFaults := rest }
    event (s.faultRoom part && s.owned part a != some .wait)
      { t with faultRecs := t.faultRecs.map fun f => if f.id = id then { f with seq := some wr } else f }
/-- FAULT_RECORD_POST: it happens where its rule lets it; elsewhere nothing happens. -/
def execFaultRecordPost (part : Nat) (s : State) : Host.Outcome State Fault Refusal := happens s (tryFaultRecordPost part s)

/-- TRANSLATION_WALK (R449): a walk for a missed page; only a success is cached. -/
def execTranslationWalk (part ctx va : Nat) (acc : Access) (s : State) : Host.Outcome State Fault Refusal :=
  .next (s.xlate part ctx (va % 2 ^ 52) acc).2

end Sys2Proof.Machine
end

