-- ==== Sys2Proof/Machine/LaneControl.lean ====
section
/-! DEFINITION. Branches and the wave's own control instructions (03 R85-R102, R107, R108; 05 R175-R181). -/

namespace Sys2Proof.Machine

/-- Continue at a pc. -/
def goTo (s : State) (c : Ctx) (pc : BitVec 52) : Res := .done s { c.w with pc := pc }

/-- BRA and BRZ (R92): the condition of a thread. -/
def braCond (z : Bool) (c : Ctx) (a : Reg) (t : Nat) : Bool := (c.w.reg t a.toNat == 0) == z
/-- BRA and BRZ: one divergent branch (R92). -/
def braBody (z : Bool) (a : Reg) (off : BitVec 17) (s : State) (c : Ctx) : Res :=
  let taken := maskOf (c.active.filter (braCond z c a))
  let tgt := target c.w.pc off
  if taken = c.w.active then goTo s c tgt
  else if taken = 0 then goTo s c (c.w.pc + 4)
  else if c.w.stack.length = 32 then .trap trapStack
  else .done s { c.next with stack := { pc := tgt, mask := taken, rejoin := false } :: c.w.stack,
                             active := c.w.active &&& ~~~taken }
/-- BRA_BRZ (R92). -/
def execBraBrz (z : Bool) (a : Reg) (off : BitVec 17) (s : State) : Host.Outcome State Fault Refusal :=
  s.issue { ins := .braBrz z a off, who := .wave, uses := [r1 a] } (braBody z a off)
/-- UBRA_UBRZ (R93): the leader's register moves the whole wave. -/
def execUbraUbrz (z : Bool) (a : Reg) (off : BitVec 17) (s : State) : Host.Outcome State Fault Refusal :=
  s.issue { ins := .ubraUbrz z a off, who := .both, uses := [r1 a] } fun s c =>
    goTo s c (if braCond z c a c.leader then target c.w.pc off else c.w.pc + 4)
/-- JMP (R94). -/
def execJmp (off : BitVec 17) (s : State) : Host.Outcome State Fault Refusal :=
  s.issue { ins := .jmp off, who := .wave } fun s c => goTo s c (target c.w.pc off)
/-- UJMP (R94). -/
def execUjmp (off : BitVec 17) (s : State) : Host.Outcome State Fault Refusal :=
  s.issue { ins := .ujmp off, who := .both } fun s c => goTo s c (target c.w.pc off)
/-- CALL and UCALL (R95): the return address lands in the link register of the threads given. -/
def callBody (ts : List Nat) (a : Reg) (off : BitVec 17) (s : State) (c : Ctx) : Res :=
  let e := landing s c 1 32 (maskOf ts) (.regs (ts.map fun t => (a.toNat * 32 + t, returnAddr c.w.pc))) []
  .done s.fresh ({ c.w with pc := target c.w.pc off }.push e)
/-- CALL (R95). -/
def execCall (a : Reg) (off : BitVec 17) (s : State) : Host.Outcome State Fault Refusal :=
  s.issue { ins := .call a off, who := .wave, uses := [w1 a] } fun s c => callBody c.active a off s c
/-- UCALL (R95). -/
def execUcall (a : Reg) (off : BitVec 17) (s : State) : Host.Outcome State Fault Refusal :=
  s.issue { ins := .ucall a off, who := .both, uses := [w1 a] } fun s c => callBody c.all a off s c
/-- RET and URET (R96): the leader's link, within the 4 GiB region of the instruction. -/
def retBody (a : Reg) (s : State) (c : Ctx) : Res :=
  let x := c.w.reg c.leader a.toNat
  if x.toNat % 4 ≠ 0 then .trap (trapAlign x.toNat) else goTo s c (returnPc c.w.pc x)
/-- RET (R96). -/
def execRet (a : Reg) (s : State) : Host.Outcome State Fault Refusal :=
  s.issue { ins := .ret a, who := .wave, uses := [r1 a] } (retBody a)
/-- URET (R96). -/
def execUret (a : Reg) (s : State) : Host.Outcome State Fault Refusal :=
  s.issue { ins := .uret a, who := .both, uses := [r1 a] } (retBody a)
/-- MARK (R98): also with an empty mask (R90). -/
def execMark (off : BitVec 17) (s : State) : Host.Outcome State Fault Refusal :=
  s.issue { ins := .mark off, who := .wave, whenEmpty := true } fun s c =>
    if c.w.stack.length = 32 then .trap trapStack
    else .done s { c.next with stack := { pc := target c.w.pc off, mask := c.w.active, rejoin := true } :: c.w.stack }
/-- ULOOP (R97): the jump uses the decremented counter directly. -/
def execUloop (a : Reg) (off : BitVec 17) (s : State) : Host.Outcome State Fault Refusal :=
  s.issue { ins := .uloop a off, who := .both, uses := [r1 a] } fun s c =>
    let x := c.w.reg c.leader a.toNat - 1
    let e := landing s c 1 32 (maskOf c.all) (.regs (c.all.map fun t => (a.toNat * 32 + t, x))) []
    .done s.fresh ({ c.w with pc := if x ≠ 0 then target c.w.pc off else c.w.pc + 4 }.push e)

/-- NOP (R100). -/
def execNop (s : State) : Host.Outcome State Fault Refusal :=
  s.issue { ins := .nop, who := .wave } fun s c => .done s c.next
/-- UNOP (R100). -/
def execUnop (s : State) : Host.Outcome State Fault Refusal :=
  s.issue { ins := .unop, who := .both } fun s c => .done s c.next
/-- The wave without its active threads, in the mask, the live mask and every stack entry (R89). -/
def exitThreads (w : Wave) : Wave :=
  { w with live := w.live &&& ~~~w.active, active := 0,
           stack := w.stack.map fun e => { e with mask := e.mask &&& ~~~w.active } }
/-- Key of the ray of a thread. -/
def rayKey (g w t : Nat) : Nat := (g * 32 + w) * 32 + t
/-- The words of a pair for a thread. -/
def pairWords (reg t : Nat) (x : Nat × Nat) : List (Nat × Word) :=
  [(reg * 32 + t, BitVec.ofNat 32 x.1), ((reg + 1) * 32 + t, BitVec.ofNat 32 x.2)]
/-- What a job asks of a ray, as (thread, function). -/
def asksRay (d : Deferred) (t token : Nat) : Option Nat :=
  match d.job with
  | .trace rays => if rays.contains (t, token) then some 0 else none
  | .hitr fn rays => if rays.contains (t, token) then some fn else none
  | _ => none
/-- The threads that a job still waits for. -/
def raysOf (d : Deferred) : List (Nat × Nat) := match d.job with | .trace rays => rays | .hitr _ rays => rays | _ => []
/-- Words for a thread join a deferred result; with the last of them its value is made. -/
def addWords (d : Deferred) (t : Nat) (x : Nat × Nat) : Deferred :=
  if d.got.any fun e => e.1 == d.reg * 32 + t then d else
  let got := d.got ++ pairWords d.reg t x
  let full := (raysOf d).all fun r => got.any fun e => e.1 == d.reg * 32 + r.1
  { d with got := got, value := if full then some got else d.value }
/-- A thread's ray is abandoned (R399): the results that wait for it can no longer be made; each such word is a free value. -/
def abandonRay (s : State) (w : Wave) (g wi t : Nat) : State × Wave :=
  match mget (rayKey g wi t) s.rays with
  | none => (s, w)
  | some r =>
    let s := { s with rays := mdel (rayKey g wi t) s.rays }
    if r.status ≠ 15 then (s, w) else
    ({ s with free := s.free + 2 }, { w with deferred := w.deferred.map fun d =>
      if (asksRay d t r.token).isSome then addWords d t (Config.freeValue s.free, Config.freeValue (s.free + 1)) else d })

/-- EXIT (R89, R101): with nothing left, the wave ends (`retire`). A thread that ends abandons its ray (R399). -/
def execExit (s : State) : Host.Outcome State Fault Refusal :=
  s.issue { ins := .exit, who := .wave } fun s c =>
    let (s, w) := c.active.foldl (fun (st : State × Wave) t => abandonRay st.1 st.2 c.g c.wi t) (s, c.next)
    .done s (exitThreads w)
/-- TRAP (R102): code 11. -/
def execTrap (imm : BitVec 16) (s : State) : Host.Outcome State Fault Refusal :=
  s.issue { ins := .trap imm, who := .wave } fun _ _ => .trap { code := 11, imm := imm.toNat }
/-- UTRAP (R102). -/
def execUtrap (imm : BitVec 16) (s : State) : Host.Outcome State Fault Refusal :=
  s.issue { ins := .utrap imm, who := .both } fun _ _ => .trap { code := 11, imm := imm.toNat }
/-- BRK (R102): code 12. -/
def execBrk (imm : BitVec 16) (s : State) : Host.Outcome State Fault Refusal :=
  s.issue { ins := .brk imm, who := .wave } fun _ _ => .trap { code := 12, imm := imm.toNat }
/-- UBRK (R102). -/
def execUbrk (imm : BitVec 16) (s : State) : Host.Outcome State Fault Refusal :=
  s.issue { ins := .ubrk imm, who := .both } fun _ _ => .trap { code := 12, imm := imm.toNat }
/-- JOIN (R99): also with an empty mask (R90). -/
def execJoin (s : State) : Host.Outcome State Fault Refusal :=
  s.issue { ins := .join, who := .wave, whenEmpty := true } fun s c =>
    match c.w.stack with
    | [] => .trap trapStack
    | e :: rest =>
      -- a thread that no mask names any more has left the wave (R88)
      let live := rest.foldl (fun m x => m ||| x.mask) e.mask
      -- the end of a thread abandons its ray (R399)
      let gone := c.all.filter fun t => c.w.live.getLsbD t && !live.getLsbD t
      let (s, w) := gone.foldl (fun (st : State × Wave) t => abandonRay st.1 st.2 c.g c.wi t) (s, c.w)
      .done s { w with pc := e.pc, active := e.mask, stack := rest, live := c.w.live &&& live }

/-- A REGANG stands at an address. -/
def regangAt (s : State) (c : Ctx) (pc : BitVec 52) : Bool :=
  match s.xlate c.part c.l.ctx pc.toNat .fetch with
  | (.pa a, s) => match decode (BitVec.ofNat 32 (s.mainLoad c.part a 4)) with
    | .ok .regang => true
    | _ => false
  | _ => false
/-- A wave of the gang waits at a REGANG (R87); in the ordered regime, it stood at one at the end of the last commit (R232). -/
def atRegang (s : State) (c : Ctx) (w : Wave) : Bool :=
  w.faulty.isNone && (if c.ordered then !w.fretEnded && w.retired == 0 && w.active != 0 && regangAt s c w.pc else w.wait == .regang)
/-- REGANG (R87). An address comparator fires for each wave that would issue it (R114). -/
def regangBody (s : State) (c : Ctx) : Res :=
  -- the gang also parts at this very issue (R86)
  if c.locked || !(State.isParted c || State.gangDiffers c) then .done s c.next
  else
    let others := (State.gang c).filter fun e => e.1 != c.wi
    let all := ((c.wi, c.w) :: others).mergeSort fun x y => decide (x.1 ≤ y.1)
    let as (e : Nat × Wave) : Ctx := { c with wi := e.1, w := e.2 }
    if others.all fun e => atRegang s c e.2 then
      if others.all fun e => e.2.pc == c.w.pc then
        let fires := others.filterMap fun e => if e.2.skip then none else (s.comparatorAt (as e)).map fun k => (e, k)
        if fires ≠ [] then
          .become (fires.foldl (fun (s : State) e => s.takeTrap (as e.1) { code := 12, comparator := true, index := e.2 }) s)
        else
          -- all of them issue the REGANG together, and the gang is formed again
          let s := all.foldl (fun (s : State) e => s.retire (as e) { e.2 with pc := e.2.pc + 4 } 8) s
          .become (s.updGroup c.g fun g => { g with
            parted := g.parted.filter (· != c.slice / 8)
            waves := g.waves.zipIdx.map fun e => if all.any fun a => a.1 == e.2 then { e.1 with gangN := 0 } else e.1 })
      else .become (all.foldl (fun (s : State) e => s.takeTrap (as e) trapSync) s)
    else .wait (s.gangCheck c) { c.w with wait := .regang } 2
/-- REGANG (R87). -/
def execRegang (s : State) : Host.Outcome State Fault Refusal :=
  s.issue { ins := .regang, who := .wave, waits := true, pending := .regang } regangBody

/-! ### Barriers (R175-R181) -/

/-- arrive(k) of R176, on a group whose due phases are settled; none is SYNC. -/
def arrive (s : State) (c : Ctx) (k : Nat) : Option State := do
  let s := s.barSettle c
  let g ← mget c.g s.groups
  let w ← g.waves[c.wi]?
  let p := dget 0 k g.barPhase
  if mget k w.tickets = some p then none else
  let n := dget 0 k g.barCount + 1
  let s := s.updGroup c.g fun g =>
    { g with barCount := dset 0 k n g.barCount, waves := g.waves.modify c.wi fun w => { w with tickets := mset k p w.tickets } }
  let s := s.bindArrive c.lid c.g c.wi k
  let y := if c.locked then some (s.scy c.l) else none
  pure (if n = State.liveWaves g then s.barFull c.g k y else s)

/-- The wave after its arrival, as the state holds it. -/
def waveNow (s : State) (c : Ctx) : Wave := (s.wave c.g c.wi).getD c.w
/-- wait(k) of R176 at a wave that has arrived: the phase has passed. -/
def barPassed (s : State) (c : Ctx) (k : Nat) : Bool :=
  match mget c.g s.groups, mget k (waveNow s c).tickets with
  | some g, some p => dget 0 k g.barPhase != p
  | _, _ => false
/-- The wave that leaves barrier k: its ticket is empty. -/
def leaveBar (s : State) (c : Ctx) (k : Nat) : Wave :=
  let w := waveNow s c
  { w with pc := w.pc + 4, tickets := mdel k w.tickets }

/-- BAR (R176): arrives when it first reaches issue, then waits. -/
def barBody (k : Nat) (s : State) (c : Ctx) : Res :=
  let s := s.barSettle c
  if c.w.wait = .bar k then
    if barPassed s c k then .done s (leaveBar s c k) else .wait s (waveNow s c) 2
  else if c.ordered then .wait s { c.w with wait := .barPending k } 2
  else
    match arrive s c k with
    | none => .trap trapSync
    | some s => if barPassed s c k then .done s (leaveBar s c k) else .wait s { waveNow s c with wait := .bar k } 2
/-- BAR (R175, R176). -/
def execBar (k : BitVec 4) (s : State) : Host.Outcome State Fault Refusal :=
  s.issue { ins := .bar k, who := .wave, waits := true, pending := .barPending k.toNat } (barBody k.toNat)
/-- BARA (R176): arrives and does not wait; the ordered regime buffers the arrival, and its check with it (R229). -/
def execBara (k : BitVec 4) (s : State) : Host.Outcome State Fault Refusal :=
  s.issue { ins := .bara k, who := .wave } fun s c =>
    if c.ordered then .done s { c.next with buffer := c.w.buffer ++ [.bara k.toNat] }
    else match arrive s c k.toNat with
    | none => .trap trapSync
    | some s => let w := waveNow s c; .done s { w with pc := w.pc + 4 }
/-- BARW (R176). -/
def execBarw (k : BitVec 4) (s : State) : Host.Outcome State Fault Refusal :=
  s.issue { ins := .barw k, who := .wave, waits := true } fun s c =>
    let s := s.barSettle c
    if mget k.toNat c.w.tickets = none then .trap trapSync
    else if barPassed s c k.toNat then .done s (leaveBar s c k.toNat)
    else .wait s { c.w with wait := .condition } 2

/-- GBAR (R180, R181). -/
def gbarBody (s : State) (c : Ctx) : Res :=
  if c.card.coop = 0 then .trap trapSync else
  let s := s.gbarSettle c.lid
  let live := ((mget c.lid s.launches).map (·.gbarPhase)).getD 0
  let phase := match (if c.ordered then c.l.snap else none) with | some x => x.gbar | none => live
  match c.w.wait with
  | .gbar p => if phase ≠ p then .done s c.next else .wait s c.w 2
  | _ =>
    if c.ordered then .wait s { c.w with wait := .gbarPending } 2
    else
      let w := { c.w with wait := .gbar phase }
      let s := ((s.setWave c.g c.wi w).bindArrive c.lid c.g c.wi 16).gbarArrive c.g
      if ((mget c.lid s.launches).map (·.gbarPhase)).getD 0 ≠ phase then .done s c.next else .wait s w 2
/-- GBAR (R180). -/
def execGbar (s : State) : Host.Outcome State Fault Refusal :=
  s.issue { ins := .gbar, who := .wave, waits := true, pending := .gbarPending } gbarBody

/-! ### Deferred results (R107, R108) -/

/-- The landing entries of covered deferred results, in issue order. -/
def deferredLanding (c : Ctx) (dist : Nat) (d : Deferred) : Landing :=
  { id := d.id, slot := c.w.slot + dist, pc := d.pc, width := 32 * d.words, mask := d.mask, what := .regs (d.value.getD []),
    raise := d.raise, waiting := 0, arrived := true, nextFret := false, ecc := none, acqFail := none, again := false }
/-- The WAITT of the oldest k deferred results; none while one of them has not arrived. An uncorrectable one raises ECC (R110). -/
def coverDeferred (s : State) (c : Ctx) (k : Nat) (done : Wave → Res) : Res :=
  let cov := c.w.deferred.take k
  if cov.any fun d => !d.arrived then .wait s { c.w with wait := .condition } 1
  else match cov.find? fun d => d.ecc.isSome with
    | some d =>
      let w := { c.w with deferred := c.w.deferred.filter fun x => x.id != d.id }
      let ti := { trapEcc (d.ecc.getD ⟨0, 0, 0⟩) with landing := true, causePc := some d.pc.toNat }
      .become ((s.setWave c.g c.wi w).takeTrap { c with w := w } ti)
    | none => match cov.find? fun d => d.failed.isSome with
    | some d =>
      -- a failed translation of the engine raises XLATE at this WAITT (R397, R407)
      let w := { c.w with deferred := c.w.deferred.filter fun x => x.id != d.id }
      let ti := { trapXlate (d.failed.getD 0) with landing := true, causePc := some d.pc.toNat }
      .become ((s.setWave c.g c.wi w).takeTrap { c with w := w } ti)
    | none => done { c.w with deferred := c.w.deferred.drop k, pend := c.w.pend ++ cov.map (deferredLanding c 1) }
/-- WAITT (R108). -/
def execWaitt (n : BitVec 4) (s : State) : Host.Outcome State Fault Refusal :=
  s.issue { ins := .waitt n, who := .wave } fun s c =>
    coverDeferred s c (c.w.deferred.length - n.toNat) fun w => .done s { w with pc := w.pc + 4 }
/-- A deferred instruction takes the next counter; a ninth first performs the effect of WAITT 7 without a slot, and its own operands and checks
see what landed (R108). That effect stands where the instruction itself then traps (log entry 129). -/
def withCounter (s : State) (c : Ctx) (body : State → Ctx → Res) : Res :=
  if c.w.deferred.length < 8 then body s c
  else coverDeferred s c 1 fun w =>
    let old := c.w.pend.map (·.id)
    let now := w.pend.map fun (e : Landing) => if old.contains e.id then e else { e with slot := c.w.slot }
    let c := { c with w := ({ w with pend := now } : Wave).settle }
    match body s c with
    | .trap ti => .become ((s.setWave c.g c.wi c.w).takeTrap c ti)
    | r => r
/-- The deferred instruction's counter is taken, and the wave goes on. -/
def takeCounter (s : State) (c : Ctx) (reg words : Nat) (mask : BitVec 32) (job : DefJob) : Res :=
  .done s.fresh { c.next with deferred := c.w.deferred ++
    [{ id := s.seq, pc := c.w.pc, reg := reg, words := words, mask := mask, job := job, value := none, arrived := false, raise := [], ecc := none, got := [], fault := none, failed := none }] }

end Sys2Proof.Machine
end

