-- ==== Sys2Proof/Machine/LaneMemory.lean ====
section
/-! DEFINITION. Loads, stores, the spill stack, MWAIT and the atomics (05 R161-R174, R182-R184; 06 R192-R201). Addresses are
formed and checked at issue; the accesses are performed at their banks by BANK_REQUEST and LOCAL_STORE_REQUEST. -/

namespace Sys2Proof.Machine

/-- Thread, on-die address and place of each access of an instruction. -/
def accesses (s : State) (c : Ctx) (ad : Admit) (ts : List Nat) (addr : Nat → Nat) (n : Nat) : List (Nat × Nat × Place) :=
  ts.filterMap fun t => (s.place c ad (addr t) n).map fun p => (t, addr t, p)

/-- The check of every checked thread, ascending: the first that fails gives the trap (R169). -/
def checkAll (s : State) (c : Ctx) (ad : Admit) (rd wr : Bool) (ts : List Nat) (addr : Nat → Nat) (n : Nat) : Option TrapInfo :=
  State.firstTrap ts fun t => s.checkAccess c ad rd wr (addr t) n n

/-- The degree rule of the locked regime (R174): TIMING 0x03 at the instruction that presents an overloaded step. -/
def degreeTrap (c : Ctx) (atomic uniform : Bool) (acc : List (Nat × Nat × Place)) (n : Nat) : Option TrapInfo :=
  if c.locked && State.overloaded atomic uniform (acc.map fun a => (a.1, a.2.2)) n then
    some (trapTiming 3 (if c.isCore then 0 else c.slice))
  else none

/-- A load (R169): every active thread, or the leader for every thread. -/
def loadBody (ad : Admit) (uniform : Bool) (addr : Ctx → Nat → Nat) (n : Nat) (d : Reg) (dist : Nat) (s : State) (c : Ctx) : Res :=
  let ts := if uniform then [c.leader] else c.active
  match checkAll s c ad true false ts (addr c) n with
  | some ti => .trap ti
  | none =>
    let acc := accesses s c ad ts (addr c) n
    match degreeTrap c false uniform acc n with
    | some ti => .trap ti
    | none =>
      let (s, w) := s.issueLoad c (acc.map fun a => { t := a.1, onDie := a.2.1, place := a.2.2, targets := if uniform then c.all else [a.1] })
        n d.toNat dist uniform
      .done s { w with pc := w.pc + 4 }

/-- The bytes that a store takes from registers: words from vs upward, lowest first (R168). -/
def storeData (w : Wave) (t : Nat) (r : Reg) (n : Nat) : Nat :=
  ((List.range (n / 4)).map fun k => (w.reg t (r.toNat + k)).toNat * 2 ^ (32 * k)).foldl (· + ·) 0

/-- A store (R169): every active thread that is not a helper, or the leader. -/
def storeBody (ad : Admit) (uniform : Bool) (addr : Ctx → Nat → Nat) (n : Nat) (src : Reg) (s : State) (c : Ctx) : Res :=
  let ts := if uniform then [c.leader] else contributorsOf c
  match checkAll s c ad false true ts (addr c) n with
  | some ti => .trap ti
  | none =>
    let acc := accesses s c ad ts (addr c) n
    match degreeTrap c false uniform acc n with
    | some ti => .trap ti
    | none =>
      let (s, w) := s.issueStore c c.next (acc.map fun a => (a.1, a.2.1, a.2.2, storeData c.w a.1 src n)) n uniform
      .done s w
where
  /-- Active threads that are not helpers (Table 03-8). -/
  contributorsOf (c : Ctx) : List Nat := c.active.filter fun t => !c.isHelper t

/-- Bytes of a group-memory access. -/
def gBytes (wide : Bool) : Nat := if wide then 8 else 4
def gUse (wide : Bool) (r : Reg) (src : Bool) : Use := { reg := r, n := if wide then 2 else 1, align := if wide then 2 else 1, src := src }
/-- Bytes of a scratchpad access (Table 05-2). -/
def MemWidth.bytes : MemWidth → Nat
  | .w1 => 4 | .w2 => 8 | .w4 => 16
def sUse (w : MemWidth) (r : Reg) (src : Bool) : Use :=
  { reg := r, n := MemWidth.bytes w / 4, align := MemWidth.bytes w / 4, src := src }

/-- LDG, LDG2 (R168, R169): group memory, 3 slots. -/
def execLdg (wide : Bool) (d a : Reg) (off : BitVec 10) (s : State) : Host.Outcome State Fault Refusal :=
  s.issue { ins := .ldg wide d a off, who := .wave, uses := [gUse wide d false, r1 a] }
    (loadBody .group false (fun c t => mAddr c t a off (gBytes wide)) (gBytes wide) d 3)
/-- ULDG (R169); BOUNDS on a control core (R168). -/
def execUldg (wide : Bool) (d a : Reg) (off : BitVec 10) (s : State) : Host.Outcome State Fault Refusal :=
  s.issue { ins := .uldg wide d a off, who := .both, uses := [gUse wide d false, r1 a] } fun s c =>
    if c.isCore then .trap (trapBounds (mAddr c c.leader a off (gBytes wide)))
    else loadBody .group true (fun c t => mAddr c t a off (gBytes wide)) (gBytes wide) d 3 s c
/-- STG, STG2 (R169). -/
def execStg (wide : Bool) (src a : Reg) (off : BitVec 10) (s : State) : Host.Outcome State Fault Refusal :=
  s.issue { ins := .stg wide src a off, who := .wave, uses := [gUse wide src true, r1 a] }
    (storeBody .group false (fun c t => mAddr c t a off (gBytes wide)) (gBytes wide) src)
/-- USTG (R169); BOUNDS on a control core (R168). -/
def execUstg (wide : Bool) (src a : Reg) (off : BitVec 10) (s : State) : Host.Outcome State Fault Refusal :=
  s.issue { ins := .ustg wide src a off, who := .both, uses := [gUse wide src true, r1 a] } fun s c =>
    if c.isCore then .trap (trapBounds (mAddr c c.leader a off (gBytes wide)))
    else storeBody .group true (fun c t => mAddr c t a off (gBytes wide)) (gBytes wide) src s c
/-- LDS, LDS2, LDS4 (R169): scratchpad window or geometry block, 12 slots. -/
def execLds (w : MemWidth) (d a : Reg) (off : BitVec 10) (s : State) : Host.Outcome State Fault Refusal :=
  s.issue { ins := .lds w d a off, who := .wave, uses := [sUse w d false, r1 a] }
    (loadBody .windowOrGeometry false (fun c t => mAddr c t a off (MemWidth.bytes w)) (MemWidth.bytes w) d 12)
/-- ULDS (R169). -/
def execUlds (w : MemWidth) (d a : Reg) (off : BitVec 10) (s : State) : Host.Outcome State Fault Refusal :=
  s.issue { ins := .ulds w d a off, who := .both, uses := [sUse w d false, r1 a] }
    (loadBody .windowOrGeometry true (fun c t => mAddr c t a off (MemWidth.bytes w)) (MemWidth.bytes w) d 12)
/-- STS, STS2, STS4 (R169). -/
def execSts (w : MemWidth) (src a : Reg) (off : BitVec 10) (s : State) : Host.Outcome State Fault Refusal :=
  s.issue { ins := .sts w src a off, who := .wave, uses := [sUse w src true, r1 a] }
    (storeBody .window false (fun c t => mAddr c t a off (MemWidth.bytes w)) (MemWidth.bytes w) src)
/-- USTS (R169). -/
def execUsts (w : MemWidth) (src a : Reg) (off : BitVec 10) (s : State) : Host.Outcome State Fault Refusal :=
  s.issue { ins := .usts w src a off, who := .both, uses := [sUse w src true, r1 a] }
    (storeBody .window true (fun c t => mAddr c t a off (MemWidth.bytes w)) (MemWidth.bytes w) src)
/-- LDGX, STGX, LDSX, STSX: address va + vb (R168, R169). -/
def execLdgxStsx (o : IdxOp) (d a b : Reg) (s : State) : Host.Outcome State Fault Refusal :=
  let store := match o with | .stgx | .stsx => true | _ => false
  s.issue { ins := .ldgxStsx o d a b, who := .wave, uses := [{ reg := d, src := store }, r1 a, r1 b] } fun s c =>
    let ad (c : Ctx) (t : Nat) : Nat := eAddr c t a b
    match o with
    | .ldgx => loadBody .group false ad 4 d 3 s c
    | .stgx => storeBody .group false ad 4 d s c
    | .ldsx => loadBody .windowOrGeometry false ad 4 d 12 s c
    | .stsx => storeBody .window false ad 4 d s c

/-! ### The spill stack (R166) -/

/-- Local-store address of thread t's word in row o/4 of the wave's spill block (R166). -/
def spillAddr (c : Ctx) (t o : Nat) : Nat :=
  Base.local_ c.grp.cluster + c.grp.spillBase + c.card.spillBytes * c.wi + 128 * (o / 4) + 4 * t
/-- The checks of a spill access: ALIGN, then STACK, in this order also with no spill area (R166; log entry 99); a control core has no
spill stack. -/
def spillCheck (c : Ctx) (o : Nat) : Option TrapInfo :=
  if c.isCore then some trapStack
  else if o % 4 ≠ 0 then some (trapAlign o)
  else if c.card.spillBytes / 128 ≤ o / 4 then some trapStack
  else none
/-- A spill load of the given threads' rows, each into its targets: local-store accesses like those of group memory (R167, R235). Thread,
offset and targets of each. -/
def spillLoad (uniform : Bool) (accs : List (Nat × Nat × List Nat)) (d : Reg) (s : State) (c : Ctx) : Res :=
  let (s, w) := s.issueLoad c (accs.map fun a => { t := a.1, onDie := 0, place := .group (spillAddr c a.1 a.2.1), targets := a.2.2 }) 4 d.toNat 3 uniform
    (spill := true)
  .done s { w with pc := w.pc + 4 }
/-- A spill store: thread, offset and word of each access. No fret buffers it (Table 05-2 does not name it, R171; log
entry 126). -/
def spillStore (uniform : Bool) (accs : List (Nat × Nat × Nat)) (s : State) (c : Ctx) : Res :=
  let (s, w) := s.issueStore c c.next (accs.map fun a => (a.1, 0, .group (spillAddr c a.1 a.2.1), a.2.2)) 4 uniform (spill := true)
  .done s w
/-- SPL (R166). -/
def execSpl (d a : Reg) (off : BitVec 10) (s : State) : Host.Outcome State Fault Refusal :=
  s.issue { ins := .spl d a off, who := .wave, uses := [w1 d, r1 a] } fun s c =>
    match State.firstTrap c.active fun t => spillCheck c (mAddr c t a off 4) with
    | some ti => .trap ti
    | none => spillLoad false (c.active.map fun t => (t, mAddr c t a off 4, [t])) d s c
/-- USPL (R166): the leader's row and word, in every thread. -/
def execUspl (d a : Reg) (off : BitVec 10) (s : State) : Host.Outcome State Fault Refusal :=
  s.issue { ins := .uspl d a off, who := .both, uses := [w1 d, r1 a] } fun s c =>
    let o := mAddr c c.leader a off 4
    match spillCheck c o with
    | some ti => .trap ti
    | none => spillLoad true [(c.leader, o, c.all)] d s c
/-- SPS (R166): a helper thread writes nothing, and is not checked (Table 03-8). -/
def execSps (src a : Reg) (off : BitVec 10) (s : State) : Host.Outcome State Fault Refusal :=
  s.issue { ins := .sps src a off, who := .wave, uses := [r1 src, r1 a] } fun s c =>
    let ts := c.active.filter fun t => !c.isHelper t
    match State.firstTrap ts fun t => spillCheck c (mAddr c t a off 4) with
    | some ti => .trap ti
    | none => spillStore false (ts.map fun t => (t, mAddr c t a off 4, (c.w.reg t src.toNat).toNat)) s c
/-- USPS (R166): the leader's value in every thread's word of the leader's row. -/
def execUsps (src a : Reg) (off : BitVec 10) (s : State) : Host.Outcome State Fault Refusal :=
  s.issue { ins := .usps src a off, who := .both, uses := [r1 src, r1 a] } fun s c =>
    let o := mAddr c c.leader a off 4
    match spillCheck c o with
    | some ti => .trap ti
    | none => spillStore true (c.all.map fun t => (t, o, (c.w.reg c.leader src.toNat).toNat)) s c

/-! ### MWAIT (R182-R184) -/

/-- MWAIT (R182): arms the monitor, and takes its slot when the word differs from the expected value. In the ordered regime it compares the
committed word, and no wake-up counts (R183, R232). A word that is uncorrectable raises ECC (log entry 112). -/
def mwaitBody (d a : Reg) (off : BitVec 10) (s : State) (c : Ctx) : Res :=
  let (addr, x) := match c.w.wait with
    | .monitor m x _ | .look m x => (m, x)
    | _ => (mAddr c c.leader a off 4, c.w.reg c.leader d.toNat)
  let woken := match c.w.wait with | .monitor _ _ k => k && !c.ordered | _ => false
  match s.checkAccess c .groupOrWindow true false addr 4 4, s.place c .groupOrWindow addr 4 with
  | some ti, _ => .trap ti
  | none, some (.group m) => look s c addr x woken true m
  | none, some (.window m) => look s c addr x woken false m
  | none, _ => .trap (trapBounds addr)
where
  /-- The comparison (R183), of the word as its corrector gives it, after the wave's own earlier accesses to it (R170, R187); an armed monitor
  that has not fired is not compared again. -/
  look (s : State) (c : Ctx) (addr : Nat) (x : Word) (woken loc : Bool) (m : Nat) : Res :=
    if !c.ordered && !woken && armedNow c then .wait s c.w 2
    else if s.ownFirst c.g c.wi c.w.epoch m 4 then .stall s
    else if woken then .done s c.next
    else issueAt s (banksOf loc m 4) fun s =>
      match (s.occupy (banksOf loc m 4) 1).readJudged c loc m 4 with
      | (_, some h, _) => .trap (trapEcc { h with addr := addr })
      | (bs, none, s) => if ofBytes bs ≠ x.toNat then .done s c.next else .wait s { c.w with wait := .monitor addr x false } 2
  armedNow (c : Ctx) : Bool := c.w.wait matches .monitor ..
/-- MWAIT (R182-R184). -/
def execMwait (d a : Reg) (off : BitVec 10) (s : State) : Host.Outcome State Fault Refusal :=
  s.issue { ins := .mwait d a off, who := .wave, uses := [r1 d, r1 a], notLocked := true, waits := true } (mwaitBody d a off)

/-! ### Atomics (R192-R201) -/

/-- The threads whose atomics reach memory, and the landing entry of a returning atomic: helpers receive 0 (R197). -/
def atomicBody (returns : Option (Reg × Nat)) (a : Reg) (n : Nat) (kind : Nat → ReqKind) (buf : Nat → Nat → Option (Nat × Nat × Nat) → BufWrite)
    (s : State) (c : Ctx) : Res :=
  let ts := c.active.filter fun t => !c.isHelper t
  match checkAll s c .groupOrWindow true true ts (fun t => aAddr c t a) n with
  | some ti => .trap ti
  | none =>
    let acc := accesses s c .groupOrWindow ts (fun t => aAddr c t a) n
    match degreeTrap c true false acc n with
    | some ti => .trap ti
    | none =>
      let id := s.seq
      let s := s.fresh
      let addrOf (p : Place) : Nat × Bool := match p with | .group x => (x, true) | .window x => (x, false) | .geometry _ => (0, false)
      let s := if c.ordered then s else acc.foldl (fun (s : State) x =>
        let (ad, loc) := addrOf x.2.2
        s.request c ⟨loc, ad, 0, n⟩ x.2.1 x.1 [x.1] (returns.map fun r => (id, r.1.toNat, n / 4)) false (kind x.1)) s
      let w := if c.ordered then
          let news := acc.map fun x => buf x.1 (addrOf x.2.2).1 (returns.map fun r => (id, r.1.toNat, x.1))
          { c.next with buffer := c.w.buffer ++ news }
        else c.next
      match returns with
      | none => .done s w
      | some (d, dist) =>
        let zero := (c.active.filter c.isHelper).flatMap fun t => resultWords d.toNat (n / 4) t 0
        let e := landing s c dist (8 * n) c.w.active (.regs zero) []
        .done s (w.push { e with id := id, waiting := if c.ordered then 0 else acc.length,
                                 arrived := acc.isEmpty, nextFret := c.ordered })
/-- Operand of an atomic in a thread. -/
def atomX (c : Ctx) (t : Nat) (o : AtomOp) (b : Reg) : Nat := operand c.w t b (AtomOp.width o / 4)
def atomUse (o : AtomOp) (r : Reg) (src : Bool) : Use :=
  { reg := r, n := AtomOp.width o / 4, align := AtomOp.width o / 4, src := src }
/-- The slice time of an atomic instruction (R84): 24 cycles in group memory. Where its threads address both memories, the leader's address
decides (log entry 95). -/
def atomOcc (s : State) (a : Reg) : Nat :=
  match s.issuer with
  | some c => if aAddr c c.leader a < State.gmemBytes c then 24 else 8
  | none => 8
def atomRun (i : Instr) (returns : Option Reg) (o : AtomOp) (a b : Reg) (s : State) : Host.Outcome State Fault Refusal :=
  s.issue { ins := i, who := .wave, uses := (returns.toList.map fun d => atomUse o d false) ++ [r1 a, atomUse o b true],
            occupancy := atomOcc s a } fun s c =>
    atomicBody (returns.map fun d => (d, 12)) a (AtomOp.width o) (fun t => .atomic o (atomX c t o b))
      (fun t ad dest => .atomic o ad (AtomOp.width o) (atomX c t o b) dest) s c
/-- ATOM (R196-R200). -/
def execAtom (o : AtomOp) (d a b : Reg) (s : State) : Host.Outcome State Fault Refusal := atomRun (.atom o d a b) (some d) o a b s
/-- RED (R196-R200): no result. -/
def execRed (o : AtomOp) (a b : Reg) (s : State) : Host.Outcome State Fault Refusal := atomRun (.red o a b) none o a b s
/-- ATOM.MIN.i64 and the like (R198). -/
def execAtom64 (o : AtomOp) (d a b : Reg) (s : State) : Host.Outcome State Fault Refusal := atomRun (.atom64 o d a b) (some d) o a b s
/-- RED.MIN.i64 and the like (R198). -/
def execRed64 (o : AtomOp) (a b : Reg) (s : State) : Host.Outcome State Fault Refusal := atomRun (.red64 o a b) none o a b s
/-- CAS (R201): the destination holds the expected value. -/
def execCas (wide : Bool) (d a b : Reg) (s : State) : Host.Outcome State Fault Refusal :=
  let n := gBytes wide
  s.issue { ins := .cas wide d a b, who := .wave, uses := [gUse wide d true, r1 a, gUse wide b true], occupancy := atomOcc s a } fun s c =>
    atomicBody (some (d, 12)) a n (fun t => .cas (operand c.w t d (n / 4)) (operand c.w t b (n / 4)))
      (fun t ad dest => .cas ad n (operand c.w t d (n / 4)) (operand c.w t b (n / 4)) (dest.getD (0, 0, 0))) s c

end Sys2Proof.Machine
end

