-- ==== Sys2Proof/Machine/Ordering.lean ====
section
/-! DEFINITION. Fences, pegs and bindings (07 R215-R223, R231, R236), the end of a fret by FRETE (R228), and the events of banks,
logs and landings: BANK_REQUEST, LOCAL_STORE_REQUEST, BANK_RETENTION_ENTRY, CORRECTION_WRITEBACK, ELOGACK, EINJ_WRITE,
REL_INCREMENT, MWAIT_WAKE, RESULT_ARRIVAL and DEFERRED_RESULT_ARRIVAL (03 R105-R107, 05 R183, 06 R186-R209). -/

namespace Sys2Proof.Machine

/-- FENCE and UFENCE (R216): later accesses of this issuer stand in a later epoch. In the ordered and locked regimes the slot is
the whole effect (R230, R236). -/
def fenceBody (s : State) (c : Ctx) : Res :=
  .done s { c.next with epoch := if c.locked || c.ordered then c.w.epoch else c.w.epoch + 1 }
/-- FENCE (R216). -/
def execFence (sc : Scope) (s : State) : Host.Outcome State Fault Refusal :=
  s.issue { ins := .fence sc, who := .wave } fenceBody
/-- UFENCE (R216). -/
def execUfence (sc : Scope) (s : State) : Host.Outcome State Fault Refusal :=
  s.issue { ins := .ufence sc, who := .both } fenceBody

/-! ### Pegs -/

/-- The address of a peg operand and its checks: ALIGN, BOUNDS, WATCH (R220, R221). -/
def pegAddr (c : Ctx) (p : Reg) : Nat := (c.w.reg c.leader p.toNat).toNat
/-- The checks of a peg operand, in order. -/
def pegCheck (s : State) (c : Ctx) (p : Reg) (rd wr : Bool) : Option TrapInfo :=
  s.checkAccess c .window rd wr (pegAddr c p) 8 8

/-- ACQ (R221): elastic and ordered, the slot is taken when the peg has reached the sequence, in the ordered regime by the end of the last
commit (R232); locked, the peg is read at the leader's step and judged at the landing slot (R235, R236). -/
def acqBody (uniform : Bool) (p q : Reg) (s : State) (c : Ctx) : Res :=
  let seq := (c.w.reg c.leader q.toNat).toNat
  match pegCheck s c p true false with
  | some ti => .trap ti
  | none =>
    let a := s.windowAddr c.part (pegAddr c p)
    if c.locked then
      let id := s.seq
      let s := (s.acquired c).fresh.request c ⟨false, a, 0, 8⟩ (pegAddr c p) c.leader [] (some (id, 0, 0)) uniform (.pegRead seq)
      let e := landing s c 12 64 0 (.regs []) []
      .done s (c.next.push { e with id := id, waiting := 1, arrived := false })
    else
      -- the peg is read when the wait begins and after a change of its value
      let (bs, _, _) := s.readJudged c false a 8
      if decide (ofBytes bs < seq) && c.w.wait == .condition then .wait s c.w 2
      else if s.ownFirst c.g c.wi c.w.epoch a 8 then .stall s
      else issueAt s (banksOf false a 8) fun s =>
        let (bs, hit, s) := (s.occupy (banksOf false a 8) 1).readJudged c false a 8
        match hit with
        | some h => .trap (trapEcc { h with addr := pegAddr c p })
        | none => if seq ≤ ofBytes bs then .done (s.acquired c) c.next else .wait s { c.w with wait := .condition } 2
/-- ACQ (R221). -/
def execAcq (p q : Reg) (s : State) : Host.Outcome State Fault Refusal :=
  s.issue { ins := .acq p q, who := .wave, uses := [r1 p, r1 q], waits := true } (acqBody false p q)
/-- UACQ (R221). -/
def execUacq (p q : Reg) (s : State) : Host.Outcome State Fault Refusal :=
  s.issue { ins := .uacq p q, who := .both, uses := [r1 p, r1 q], waits := true } (acqBody true p q)

/-- A byte range of a slice overlaps a region of the window (on-die base and length, multiples of 8). -/
def inRegion (s : State) (p a n base len : Nat) : Bool :=
  (List.range ((len + 2 ^ 21 - 1) / 2 ^ 21 + 1)).any fun i =>
    -- the region's part in each slice it touches
    let lo := max base ((base / 2 ^ 21 + i) * 2 ^ 21)
    let hi := min (base + len) ((base / 2 ^ 21 + i + 1) * 2 ^ 21)
    decide (lo < hi) && decide (s.windowAddr p lo < a + n) && decide (a < s.windowAddr p lo + (hi - lo))

/-- The accesses that a REL waits for (R220): the issuer's writes to bytes bound to the peg, its earlier accesses to the peg's
word, those before its last fence, and its earlier increments. -/
def relCovers (s : State) (c : Ctx) (pa : Nat) : List Nat :=
  let a := s.windowAddr c.part pa
  let mine := s.reqs.filter fun r => r.group == c.g && r.wave == c.wi
  let writes (r : Req) : Bool := match r.kind with | .store _ | .atomic _ _ | .cas _ _ => true | _ => false
  let bound := c.l.bindings.filter fun b => b.peg == pa && (b.owner == none || b.owner == some (c.g, c.wi))
  let covered := mine.filter fun r =>
    (writes r && !r.local_ && bound.any fun b => inRegion s c.part r.addr r.width b.base b.len) ||
      (!r.local_ && decide (r.addr < a + 8) && decide (a < r.addr + r.width)) || decide (r.epoch < c.w.epoch)
  covered.map (·.id) ++ (s.rels.filter fun r => r.group == c.g && r.wave == c.wi).map (·.id)

/-- REL (R220): never delays its issuer; locked, it increments at the leader's step (R235, R236). -/
def relBody (uniform : Bool) (p : Reg) (s : State) (c : Ctx) : Res :=
  match pegCheck s c p false true with
  | some ti => .trap ti
  | none =>
    let pa := pegAddr c p
    let a := s.windowAddr c.part pa
    if c.ordered then .done s { c.next with buffer := c.w.buffer ++ [.peg a] }
    else if c.locked then
      .done (s.request c ⟨false, a, 0, 8⟩ pa c.leader [] none uniform .pegAdd) c.next
    else
      let r : RelWait := { id := s.seq, group := c.g, wave := c.wi, epoch := c.w.epoch, target := .peg a,
                           covers := relCovers s c pa, due := none }
      .done { s.fresh with rels := s.rels ++ [r] } c.next
/-- REL (R220). -/
def execRel (p : Reg) (s : State) : Host.Outcome State Fault Refusal :=
  s.issue { ins := .rel p, who := .wave, uses := [r1 p] } (relBody false p)
/-- UREL (R220). -/
def execUrel (p : Reg) (s : State) : Host.Outcome State Fault Refusal :=
  s.issue { ins := .urel p, who := .both, uses := [r1 p] } (relBody true p)

/-- BIND (R219). -/
def bindBody (p b l : Reg) (s : State) (c : Ctx) : Res :=
  let pa := pegAddr c p
  let base := pegAddr c b
  let len := pegAddr c l
  let table := c.l.bindings ++ c.l.newBindings
  let put (f : List PegBinding → List PegBinding) : Res :=
    .done (s.updLaunch c.lid fun x => if c.ordered then { x with newBindings := f x.newBindings } else { x with bindings := f x.bindings }) c.next
  if pa % 8 ≠ 0 then .trap (trapAlign pa)
  else if base % 8 ≠ 0 then .trap (trapAlign base)
  else if len % 8 ≠ 0 then .trap (trapAlign len)
  else if !s.inWindow c.part pa 8 then .trap (trapBounds pa)
  else if len = 0 then
    -- every entry of the peg leaves the table
    put fun t => (t.filter fun e => e.peg != pa) ++ (if c.ordered then [{ peg := pa, base := 0, len := 0, owner := none, links := [] }] else [])
  else if !s.inWindow c.part base len then .trap (trapBounds base)
  else if table.any fun e => e.peg != pa && decide (base < e.base + e.len) && decide (e.base < base + len) then .trap trapSync
  else if 16 ≤ (table.filter fun e => e.len != 0).length then .trap trapSync
  else put fun t => t ++ [{ peg := pa, base := base, len := len, owner := if c.ordered then none else some (c.g, c.wi), links := [] }]
/-- BIND (R219). -/
def execBind (p b l : Reg) (s : State) : Host.Outcome State Fault Refusal :=
  s.issue { ins := .bind p b l, who := .wave, uses := [r1 p, r1 b, r1 l] } (bindBody p b l)
/-- UBIND (R219). -/
def execUbind (p b l : Reg) (s : State) : Host.Outcome State Fault Refusal :=
  s.issue { ins := .ubind p b l, who := .both, uses := [r1 p, r1 b, r1 l] } (bindBody p b l)

/-- FRETE (R228): its slot is the last of the fret; elsewhere it does nothing. -/
def execFrete (s : State) : Host.Outcome State Fault Refusal :=
  s.issue { ins := .frete, who := .wave } fun s c => .done s { c.next with fretEnded := c.ordered }

/-! ### Events of banks and logs -/

/-- BANK_RETENTION_ENTRY (R189): after 4,096 idle cycles, unless the bank is held awake. -/
def tryBankRetentionEntry (cluster bank : Nat) (s : State) : Option State :=
  let b := cluster * 16 + bank % 16
  event (decide (cluster < 256) && !dget false b s.bankAsleep && decide (dget 0 b s.bankIdle + 4096 ≤ s.idleClock) && !heldAwake s b)
    { s with bankAsleep := mset b true s.bankAsleep }
/-- BANK_RETENTION_ENTRY: it happens where its rule lets it; elsewhere nothing happens. -/
def execBankRetentionEntry (cluster bank : Nat) (s : State) : Host.Outcome State Fault Refusal := happens s (tryBankRetentionEntry cluster bank s)

/-- A request is performed at its bank; a locked one must find the bank free and awake at its cycle (R188, R190). The words of one instruction
that fail so in one cycle are one trap (R109; log entry 84). -/
def bankServe (s : State) (r : Req) : State :=
  match r.due with
  | none => (s.serve r).accessDone r.group r.wave
  | some _ =>
    let bad := if bankTaken s r then some 3 else if r.banks.any (asleep s) then some 4 else none
    match bad, s.reqCtx r with
    | some k, some c =>
      let s := { s with reqs := s.reqs.filter fun q => q.id != r.id }.occupy r.banks 1
      let ti := { trapTiming k (if c.isCore then 0 else c.slice) with causePc := some r.pc.toNat }
      if (s.heldOf (2 + c.part)).contains (s.trapRecord c ti) then s else s.takeTrap c ti
    | _, _ => (s.serve r).accessDone r.group r.wave
/-- An elastic request wakes a bank in retention, and waits 24 cycles with all that queue behind it (R190). -/
def wakeOrServe (s : State) (r : Req) : State :=
  if r.due.isNone && r.banks.any (asleep s) then s.occupy r.banks 24 else bankServe s r

/-- A request may be performed now: a locked one at its cycle; another once it has reached a free bank, in its party's order and in the
order of the bank (R186, R193). -/
def reqReady (s : State) (loc : Bool) (r : Req) : Bool :=
  r.local_ == loc && match r.due with
    | none => decide (r.arrive ≤ s.cyc) && s.mayServe r && !(s.banksBusy r.banks && !merged s r) && !behind s r
    | some t => decide (t ≤ s.cyc)
def reqEvent (loc : Bool) (id : Nat) (s : State) : Option State :=
  match s.reqs.find? fun r => r.id == id with
  | some r => event (reqReady s loc r) (wakeOrServe s r)
  | none => none
/-- BANK_REQUEST (R186): a scratchpad bank serves request r. -/
def tryBankRequest (r : Nat) (s : State) : Option State := reqEvent false r s
/-- BANK_REQUEST: it happens where its rule lets it; elsewhere nothing happens. -/
def execBankRequest (r : Nat) (s : State) : Host.Outcome State Fault Refusal := happens s (tryBankRequest r s)
/-- LOCAL_STORE_REQUEST (R173): a local-store bank serves request r. -/
def tryLocalStoreRequest (r : Nat) (s : State) : Option State := reqEvent true r s
/-- LOCAL_STORE_REQUEST: it happens where its rule lets it; elsewhere nothing happens. -/
def execLocalStoreRequest (r : Nat) (s : State) : Host.Outcome State Fault Refusal := happens s (tryLocalStoreRequest r s)

/-- CORRECTION_WRITEBACK (R204): a correctable word is written back, in a cycle in which its bank has no request, or at the 4,096th cycle
after the read that found it. A word that has become uncorrectable meanwhile is written as poison (R205). -/
def tryCorrectionWriteback (word : Nat) (s : State) : Option State :=
  let bs := banksOf (decide (Base.local_ 0 ≤ word)) word 8
  let free := !s.banksBusy bs && s.reqs.all fun r => decide (s.cyc < r.arrive) || !(r.banks.any bs.contains)
  let late := decide ((mget word s.writebacks).getD 0 + 4096 ≤ s.cyc)
  let x := s.mem.load word 8
  let t := match classify (syndromeOf (s.badAt word)) with
    | .dataBit i => s.putWord word (Nat.xor x (2 ^ i)) false
    | .bad => s.putWord word x true
    | _ => s.putWord word x false
  -- an array that holds check bits only keeps no data here
  event ((mget word s.writebacks).isSome && (free || late)) (if 2 ^ 72 ≤ word then { t with mem := s.mem } else t)
/-- CORRECTION_WRITEBACK: it happens where its rule lets it; elsewhere nothing happens. -/
def execCorrectionWriteback (word : Nat) (s : State) : Host.Outcome State Fault Refusal := happens s (tryCorrectionWriteback word s)

/-- ELOGACK (R207): count := count − min(n, count) in the error block at BAR0 offset inst. -/
def execElogack (inst n : Nat) (s : State) : Host.Outcome State Fault Refusal :=
  let k := s.barBits (inst + 0x400) 5 0
  .next (if errorBlock inst then s.setBar (inst + 0x400) 5 0 (k - min (n % 64) k) else s)
/-- EINJ_WRITE (R209): the writable fields of EINJ of the error block at BAR0 offset inst. -/
def execEinjWrite (inst : Nat) (value : BitVec 128) (s : State) : Host.Outcome State Fault Refusal :=
  let v := value.toNat
  .next (if errorBlock inst then (s.setBar (inst + 0x410) 74 0 (bits v 74 0)).setBar (inst + 0x410) 119 96 (bits v 119 96) else s)

/-! ### Increments, wake-ups and arrivals -/

/-- The accesses that an increment waits for have been performed; a locked one is at its cycle. -/
def relReady (s : State) (r : RelWait) : Bool :=
  match r.due with
  | some t => decide (t ≤ s.cyc)
  | none => r.covers.all fun i => (s.reqs.all fun q => q.id != i) && s.rels.all fun q => q.id != i
/-- REL_INCREMENT (R220, R274): a REL or HSIG whose accesses are performed adds its 1; that of a peg is a request at its bank (R193). -/
def tryRelIncrement (r : Nat) (s : State) : Option State :=
  match s.rels.find? fun q => q.id == r with
  | some q => event (relReady s q) ((s.relPerform q).accessDone q.group q.wave)
  | none => none
/-- REL_INCREMENT: it happens where its rule lets it; elsewhere nothing happens. -/
def execRelIncrement (r : Nat) (s : State) : Host.Outcome State Fault Refusal := happens s (tryRelIncrement r s)

/-- What the comparison of a monitor finds of the word as its corrector gives it: whether it differs, and whether it cannot be read. The monitor
is armed while its group stands on its cluster (R184); in the ordered regime only the commit compares (R183). -/
def monitorDiffers (s : State) (g wi : Nat) : Bool × Bool × State :=
  match s.ctxOf g wi with
  | none => (false, false, s)
  | some c =>
    match c.w.wait with
    | .monitor a x false =>
      if c.ordered ∨ !(c.grp.status == .resident || c.grp.status == .suspended) then (false, false, s) else
      match s.place c .groupOrWindow a 4 with
      | some (.group m) | some (.window m) =>
        let (bs, hit, s) := s.readMem m 4 c.who
        (hit.isNone && ofBytes bs != x.toNat, hit.isSome, s)
      | _ => (false, false, s)
    | _ => (false, false, s)
/-- MWAIT_WAKE (R183): the word has changed and differs from the expected value. One that cannot be read is looked at again by its MWAIT (log
entry 112). -/
def tryMwaitWake (g w : Nat) (s : State) : Option State :=
  let (differs, unread, t) := monitorDiffers s g w
  event (differs || unread) <| t.updWave g w fun v =>
    match v.wait with
    | .monitor a x _ => { v with wait := if unread then .look a x else .monitor a x true }
    | _ => v
/-- MWAIT_WAKE: it happens where its rule lets it; elsewhere nothing happens. -/
def execMwaitWake (g w : Nat) (s : State) : Host.Outcome State Fault Refusal := happens s (tryMwaitWake g w s)

/-- The landing entry k of a wave has all its accesses performed and has not arrived. -/
def resultDone (s : State) (g w k : Nat) : Bool :=
  match s.wave g w with
  | some v => v.pend.any fun e => e.id == k && e.waiting == 0 && !e.arrived
  | none => false
/-- RESULT_ARRIVAL (R105, R106): a result reaches its wave, and lands where its slot has come. -/
def tryResultArrival (g w k : Nat) (s : State) : Option State :=
  let t := s.updWave g w fun v =>
    { v with pend := v.pend.map fun (e : Landing) => if e.id = k then { e with arrived := true } else e }.land
  let t := match s.ctxOf g w, t.wave g w with
    | some c, some v => t.regWrite c c.w v
    | _, _ => t
  event (resultDone s g w k) t
/-- RESULT_ARRIVAL: it happens where its rule lets it; elsewhere nothing happens. -/
def execResultArrival (g w k : Nat) (s : State) : Host.Outcome State Fault Refusal := happens s (tryResultArrival g w k s)

/-- DEFERRED_RESULT_ARRIVAL (R107): the value that its engine has made reaches the wave's deferred counter. -/
def tryDeferredResultArrival (g w k : Nat) (s : State) : Option State :=
  let ok := match s.wave g w with
    | some v => v.deferred.any fun d => d.id == k && d.value.isSome && !d.arrived
    | none => false
  event ok <| s.updWave g w fun v =>
    { v with deferred := v.deferred.map fun d => if d.id = k then { d with arrived := true } else d }
/-- DEFERRED_RESULT_ARRIVAL: it happens where its rule lets it; elsewhere nothing happens. -/
def execDeferredResultArrival (g w k : Nat) (s : State) : Host.Outcome State Fault Refusal := happens s (tryDeferredResultArrival g w k s)

end Sys2Proof.Machine
end

