-- ==== Sys2Proof/Machine/Control.lean ====
section
/-! DEFINITION. Handoff counters, stamps and the end of a control stream (09 R267-R280). -/

namespace Sys2Proof.Machine

/-- The card of the issuer holds the claim of its cluster (R16). -/
def holdsClaim (s : State) (c : Ctx) : Bool := (s.cluster c.grp.cluster).claim == some c.lid
/-- Accesses and increments of a party that are still to be performed. -/
def outstanding (s : State) (c : Ctx) : List Nat :=
  s.pendingReqs c.g c.wi ++ (s.rels.filter fun r => r.group == c.g && r.wave == c.wi).map (·.id)

/-- HSIG and UHSIG (R272, R274, R275): the increment follows the issuer's accesses; 8 cycles on in the locked regime. -/
def hsigBody (k : Nat) (s : State) (c : Ctx) : Res :=
  if !holdsClaim s c then .trap trapSync
  else if c.ordered then .done s { c.next with buffer := c.w.buffer ++ [.hsig k] }
  else
    let covers := if c.locked then [] else outstanding s c
    let r : RelWait := { id := s.seq, group := c.g, wave := c.wi, epoch := c.w.epoch, target := .handoff c.grp.cluster k,
                         covers := covers, due := if c.locked then some (s.cyc + 8) else none }
    if covers = [] ∧ !c.locked then .done (s.relPerform r) c.next
    else .done { s.fresh with rels := s.rels ++ [r] } c.next
/-- HSIG (R272). -/
def execHsig (k : BitVec 4) (s : State) : Host.Outcome State Fault Refusal :=
  s.issue { ins := .hsig k, who := .wave } (hsigBody k.toNat)
/-- UHSIG (R272). -/
def execUhsig (k : BitVec 4) (s : State) : Host.Outcome State Fault Refusal :=
  s.issue { ins := .uhsig k, who := .both } (hsigBody k.toNat)
/-- HWAIT (R273): the counter has reached the leader's value, in the ordered regime by the end of the last commit (R232); locked, it is read and
judged at issue (R275). -/
def execHwait (k : BitVec 4) (b : Reg) (s : State) : Host.Outcome State Fault Refusal :=
  s.issue { ins := .hwait k b, who := .both, uses := [r1 b], waits := true } fun s c =>
    if !holdsClaim s c then .trap trapSync
    else
      let hs := match (if c.ordered then c.l.snap else none) with
        | some x => dget [] c.grp.cluster x.counters
        | none => (s.cluster c.grp.cluster).h
      let h := dget 0#32 k.toNat hs
      if (h - c.w.reg c.leader b.toNat).toNat < 2 ^ 31 then .done (s.acquired c) c.next
      else if c.locked then .trap (trapTiming 0x0E)
      else .wait s { c.w with wait := .condition } 2

/-- HALT (R271): the stream ends; landings still pending are discarded, and its pc stays at the HALT. Its active mask is 0 from then on, also in the
record of a command that fails later (log entry 135). -/
def execHalt (s : State) : Host.Outcome State Fault Refusal :=
  s.issue { ins := .halt, who := .core } fun s c => .done s { c.w with pend := [], active := 0, live := 0, stack := [] }

/-- AT (R276): outside the locked regime it only takes its slot (R280). -/
def execAt (imm : BitVec 21) (s : State) : Host.Outcome State Fault Refusal :=
  s.issue { ins := .at imm, who := .core } fun s c =>
    .done s (if c.locked then { c.next with stamp := some (c.w.stampBase + imm.setWidth 64) } else c.next)
/-- ATV (R276). -/
def execAtv (n : Reg) (s : State) : Host.Outcome State Fault Refusal :=
  s.issue { ins := .atv n, who := .core, uses := [r2 n] } fun s c =>
    let b := c.w.dreg c.leader n.toNat
    .done s (if c.locked then { c.next with stampBase := b, stamp := some b } else c.next)
/-- WAITC (R277): the first issue cycle at or after the pending stamp. -/
def execWaitc (s : State) : Host.Outcome State Fault Refusal :=
  s.issue { ins := .waitc, who := .core } fun s c =>
    if !c.locked then .done s c.next
    else match c.w.stamp with
    | none => .trap (trapTiming 0x0C)
    | some t => if t.toNat ≤ s.scy c.l then .done s c.next
                else .wait s { c.w with nextIssue := ceilTo 8 t.toNat } 0

/-- The stamp checks of a stamped command (R278): the engine's commands that wait and the SCY at which its occupancy ends. The
start SCY, or the trap. -/
def stampCheck (s : State) (c : Ctx) (waiting endOcc : Nat) : TrapInfo ⊕ Nat :=
  match c.w.stamp with
  | none => .inl (trapTiming 0x0C)
  | some t =>
    if t.toNat < s.scy c.l + 128 then .inl (trapTiming 5)
    else if 16 ≤ waiting ∨ t.toNat < endOcc then .inl (trapTiming 0x0A)
    else .inr t.toNat

/-- The control core of a launch on a cluster, as an issuer, wherever its stream stands (R281): for the traps of its commands. -/
def coreOf (s : State) (lid cl : Nat) : Option Ctx :=
  (s.groups.find? fun e => e.2.launch == lid && e.2.kind == .stream && e.2.cluster == cl).bind fun e => s.ctxOf e.1 0
/-- A command of a locked engine is not ready at its cycle (R281, R282): TIMING, with cause_pc the command's address. The record names its
issuer (log entry 102: a locked wave that issued a copy stands for the core, and its slice is in the detail field). -/
def engineTrap (s : State) (party : Option Ctx) (pc : BitVec 52) (cause : Nat) : State :=
  match party with
  | some c => s.takeTrap c { trapTiming cause (if c.isCore ∨ 4 < cause then 0 else c.slice) with causePc := some pc.toNat }
  | none => s

end Sys2Proof.Machine
end

