-- ==== Sys2Proof/Machine/Cards.lean ====
section
/-! DEFINITION. Job cards: their fields (01 Tables 01-7 to 01-9), the checks made on them (R43, R361, R443), their edges (07 R225),
and where a group of a card can be placed (01 R19, R20; 05 R162, R163). -/

namespace Sys2Proof.Machine

/-! ### Fields -/

/-- A card from its 256 bytes, as a number (Table 01-7). -/
def parseCard (x : Nat) : Card :=
  { laneEntry := bits x 63 0, controlEntry := bits x 127 64, argBase := bits x 191 128, argCount := bits x 223 192
    argBytes := bits x 255 224, groups := bits x 287 256, wavesPerGroup := bits x 295 288, regs := bits x 303 296
    gmemKib := bits x 319 304, spillBytes := bits x 351 320, regime := bits x 359 352, fretLog2 := bits x 367 360
    coop := bits x 375 368, priority := bits x 383 376, rectX := bits x 391 384, rectY := bits x 399 392
    rectW := bits x 407 400, rectH := bits x 415 408, queue := bits x 431 416, chunkMin := bits x 447 432
    head := bits x 463 448, strip := bits x 479 464, flags := bits x 511 480, startTime := bits x 591 512
    deadline := bits x 719 640
    footprints := (List.range 8).map fun i =>
      let b := 768 + 128 * i
      { base := bits x (b + 63) b, len := bits x (b + 95) (b + 64), flags := bits x (b + 127) (b + 96) }
    donePeg := bits x 1823 1792, doneSeq := bits x 1855 1824, pgt := bits x 1919 1856, qrt := bits x 1983 1920
    seed := bits x 2047 1984, reserved := bits x 639 592 + bits x 767 720 }

namespace Card
def wake (k : Card) : Bool := bit k.flags 0
def donate (k : Card) : Bool := bit k.flags 1
def spawn (k : Card) : Bool := bit k.flags 2
def irq (k : Card) : Bool := bit k.flags 3
/-- The card claims handoff counters and control cores (R16). -/
def claims (k : Card) : Bool := k.controlEntry != 0 || bit k.flags 4
/-- A strip card (R361). -/
def isStrip (k : Card) : Bool := k.head != 0xFFFF
/-- Slot mask of the table store (R414). -/
def slotMask (k : Card) : Nat := bits k.qrt 55 52
/-- Registers of a thread as the register file gives them out (R19). -/
def regs16 (k : Card) : Nat := ceilTo 16 k.regs
def used (k : Card) : List Footprint := k.footprints.filter fun f => f.len != 0
end Card

namespace Footprint
def space (f : Footprint) : Nat := bits f.flags 3 2
def writes (f : Footprint) : Bool := bit f.flags 1
/-- Two footprints make an edge (R225). -/
def clash (f g : Footprint) : Bool :=
  f.space == g.space && decide (f.base < g.base + g.len) && decide (g.base < f.base + f.len) && (f.writes || g.writes)
end Footprint

/-- Cards joined by an edge (R225). -/
def edge (a b : List Footprint) : Bool := a.any fun f => b.any f.clash

namespace State

/-- A raster-engine card (R361): a strip card, or one in a raster queue of its partition. A child card is submitted to no queue (R344): its
`queue` is 2^16, which no range names. -/
def rasterCard (s : State) (p : Nat) (k : Card) : Bool :=
  k.isStrip || (decide (s.barBits (pcfgOff p) 431 416 ≤ k.queue) && decide (k.queue ≤ s.barBits (pcfgOff p) 447 432))

/-- Width and height of a card's rectangle. -/
def rectSize (s : State) (p : Nat) (k : Card) : Nat × Nat :=
  if k.rectW = 0 ∧ k.rectH = 0 then (s.partPw p, s.partPh p) else (k.rectW, k.rectH)
/-- Tiles of a card's rectangle in row-major order. -/
def cardTiles (s : State) (p : Nat) (k : Card) : List Nat :=
  let (w, h) := s.rectSize p k
  s.rectTiles p k.rectX k.rectY w h
/-- Its enabled tiles; a strip card's are those of its head's template (R350, R363). -/
def cardClusters (s : State) (p : Nat) (k : Card) : List Nat :=
  ((if k.isStrip then s.stplTiles p k.head else s.cardTiles p k).filter s.tileOk)

/-! ### The local-store split (R162, R163) -/

end State

/-- The room that a group takes on a cluster. -/
structure Room where
  g0 : Nat
  glen : Nat
  s0 : Nat
  slen : Nat
  first : Nat
  waves : Nat
  regs16 : Nat
  deriving Repr

/-- A range is free of a list of (base, length) blocks. -/
def freeOf (bs : List (Nat × Nat)) (a n : Nat) : Bool := bs.all fun b => decide (a + n ≤ b.1) || decide (b.1 + b.2 ≤ a) || b.2 == 0

/-- First-fit from below, in 4 KiB steps (R162). -/
def firstFit (bs : List (Nat × Nat)) (n : Nat) : Option Nat :=
  if n = 0 then some 0 else
  let starts := 0 :: bs.map fun b => ceilTo 4096 (b.1 + b.2)
  (starts.filter fun a => freeOf bs a n && decide (a + n ≤ 0xE0000)).min?
/-- The highest free run that ends at or below 0xF_0000 (R162). -/
def lastFit (bs : List (Nat × Nat)) (n : Nat) : Option Nat :=
  if n = 0 then some 0xF0000 else
  let starts := (0xF0000 :: bs.map (·.1)).filterMap fun e => if n ≤ e then some ((e - n) / 128 * 128) else none
  (starts.filter fun a => freeOf bs a n && decide (a + n ≤ 0xF0000)).max?

/-- Sizes of the areas A and S (Table 05-1). -/
def areaA (bs : List (Nat × Nat)) : Nat :=
  let used := bs.filter fun b => b.2 != 0
  if used = [] then 0
  else 0x20000 * ceilDiv (max ((used.map (·.2)).foldl (· + ·) 0) (((used.map fun b => b.1 + b.2).max?).getD 0)) 0x20000
def areaS (bs : List (Nat × Nat)) : Nat :=
  let used := bs.filter fun b => b.2 != 0
  if used = [] then 0
  else 0x1000 * ceilDiv (max ((used.map (·.2)).foldl (· + ·) 0) (0xF0000 - ((used.map (·.1)).min?).getD 0xF0000)) 0x1000

/-- Waves of a room on each slice. -/
def Room.onSlice (r : Room) (i : Nat) : Nat := ((List.range r.waves).filter fun w => (r.first + w) % 32 == i).length
/-- The first of some first slices at which the waves fit beside the residents (R19). -/
def fitSlices (rs : List Room) (waves regs16 : Nat) (firsts : List Nat) : Option Nat :=
  firsts.find? fun f =>
    (List.range 32).all fun i =>
      let mine := ((List.range waves).filter fun w => (f + w) % 32 == i).length
      let n := (rs.map fun r => r.onSlice i).foldl (· + ·) mine
      let words := (rs.map fun r => r.onSlice i * 8 * r.regs16).foldl (· + ·) (mine * 8 * regs16)
      mine == 0 || (decide (n ≤ 8) && decide (words ≤ 2048))

/-- Where a group of a card fits beside the residents of a cluster (R163); `store` tells that the primitive-id store exists. -/
def fitAt (rs : List Room) (store : Bool) (k : Card) (firsts : List Nat) : Option Room := do
  let glen := k.gmemKib * 1024
  let slen := k.wavesPerGroup * k.spillBytes
  let g0 ← firstFit (rs.map fun r => (r.g0, r.glen)) glen
  let s0 ← lastFit (rs.map fun r => (r.s0, r.slen)) slen
  let first ← fitSlices rs k.wavesPerGroup k.regs16 firsts
  let r : Room := { g0 := g0, glen := glen, s0 := s0, slen := slen, first := first, waves := k.wavesPerGroup, regs16 := k.regs16 }
  let a := areaA ((r :: rs).map fun r => (r.g0, r.glen))
  let sp := areaS ((r :: rs).map fun r => (r.s0, r.slen))
  let p := if store then 0x10000 else 0
  if a ≤ 0xE0000 ∧ a + sp + p + 0x10000 ≤ 0x100000 then some r else none

/-- The place of a new group: at the lowest first slice possible (R20). -/
def fit (rs : List Room) (store : Bool) (k : Card) : Option Room := fitAt rs store k [0, 8, 16, 24]

/-- Groups of a card that fit beside given residents, up to a bound. -/
def capacityFrom (store : Bool) (k : Card) : Nat → List Room → Nat
  | 0, _ => 0
  | n + 1, rs => match fit rs store k with
    | some r => 1 + capacityFrom store k n (r :: rs)
    | none => 0
/-- Groups of a card on an empty cluster (R25, R233): p of R233. -/
def capacity (k : Card) (n : Nat) : Nat := capacityFrom false k n []

namespace State

/-- A group holds its place on its cluster. -/
def occupies (g : Group) : Bool :=
  g.kind == .lane && (g.status == .resident || g.status == .halted || g.status == .suspended || g.status == .stopping)
/-- The rooms taken on a cluster. -/
def rooms (s : State) (cl : Nat) : List Room :=
  s.groups.filterMap fun e =>
    if e.2.cluster = cl ∧ occupies e.2 then
      (mget e.2.launch s.launches).map fun l =>
        { g0 := e.2.gmemBase, glen := l.card.gmemKib * 1024, s0 := e.2.spillBase, slen := l.card.wavesPerGroup * l.card.spillBytes,
          first := e.2.s0, waves := e.2.waves.length, regs16 := l.card.regs16 }
    else none

/-- A launch that has neither ended nor been rejected. -/
def alive (l : Launch) : Bool := l.status != .completed && l.status != .rejected && l.status != .killed
/-- The partition that a tile belongs to, of the enabled ones. -/
def admittedHeads (s : State) : List Nat := (List.range 132).filter fun h => s.barFlag (stplOff h) 289
/-- The admitted templates that reserve a cluster. -/
def reservedBy (s : State) (cl : Nat) : List Nat :=
  s.admittedHeads.filter fun h => (s.stplTiles (s.headPart h) h).contains cl
/-- The cluster serves a running raster-engine card: its primitive-id store exists (R162; log entry 98). -/
def servesRaster (s : State) (cl : Nat) : Bool :=
  s.launches.any fun e => e.2.status == .running && s.rasterCard e.2.part e.2.card && (s.cardClusters e.2.part e.2.card).contains cl

/-- The shape of a head's strip groups, as a card (R347, R348). -/
def stripShape (s : State) (h : Nat) : Card :=
  let b := stplOff h
  { (default : Card) with wavesPerGroup := s.barBits b 239 232, regs := s.barBits b 247 240, gmemKib := s.barBits b 271 256,
                          spillBytes := 128 * s.barBits b 287 272 }
/-- Placing a group of a card on a cluster (R163), with the room that admitted templates keep for their strip groups (R349). -/
def roomFor (s : State) (cl : Nat) (k : Card) : Option Room :=
  let rs := s.rooms cl
  let store := s.servesRaster cl
  match fit rs store k with
  | none => none
  | some r =>
    if k.isStrip then some r
    else if (s.reservedBy cl).all fun h =>
        decide (s.barBits (stplOff h) 231 224 ≤ capacityFrom true (s.stripShape h) 8 (r :: rs)) then some r
    else none

/-! ### Records of the task engine (R360) -/

/-- A task-engine record, held for the partition's trap queue (Table 12-6). -/
def taskRecord (s : State) (part ctx kind code queue card head strip count : Nat) : State :=
  s.holdRec (2 + part) (record 64 [(0, kind), (8, code), (20, ctx), (24, part), (32, queue), (64, card), (128, s.cyc), (192, head),
    (208, strip), (224, count)])
/-- A record about a launch. -/
def launchRecord (s : State) (l : Launch) (kind code count : Nat) : State :=
  s.taskRecord l.part l.ctx kind code (if l.card.isStrip || l.hwq.isNone then 0xFFFF else l.card.queue) l.cardVa l.card.head
    l.card.strip count

/-! ### Checks (R43) -/

/-- The hardware queue of a partition-relative queue number (R331, R332). -/
def findQueue (s : State) (p q : Nat) : Option Nat :=
  (List.range 1024).find? fun n => s.barFlag (qcfgOff n) 6 && s.barBits (qcfgOff n) 5 0 == p && s.barBits (qcfgOff n) 31 16 == q
/-- The queue lies in a context's range (R443). -/
def inCtxRange (s : State) (p c q : Nat) : Bool :=
  s.barFlag (ctxOff p c) 0 && decide (s.barBits (ctxOff p c) 79 64 ≤ q) && decide (q ≤ s.barBits (ctxOff p c) 95 80)
/-- A strip card has its head's shape (R348). -/
def stripShapeOk (s : State) (k : Card) : Bool :=
  let t := s.stripShape k.head
  s.barFlag (stplOff k.head) 289 && k.wavesPerGroup == t.wavesPerGroup && k.regs == t.regs && k.gmemKib == t.gmemKib &&
    k.spillBytes == t.spillBytes

/-- The checks of a card that need no table and no queue, as (code, fails): Table 01-10. Three corners are the model's choice (log entry
88): arg_base above the 52-bit range counts as a reserved field (0x10); a whole-partition rectangle (rect_w = rect_h = 0) with rect_x or
rect_y not 0 lies outside the partition (0x13); qrt bits [63:56] not 0 give 0x1A also without an image address. -/
def cardFails (s : State) (p c : Nat) (k : Card) (child : Bool) : List (Nat × Bool) :=
  let (w, h) := s.rectSize p k
  let aligned := (List.range 5).any (fun i => 2 ^ i == w) && (List.range 5).any (fun i => 2 ^ i == h) &&
    k.rectX % w == 0 && k.rectY % h == 0
  let raster := !child && s.rasterCard p k
  let unused := k.footprints.filter fun f => f.len == 0
  [ (0x10, k.reserved != 0 || decide (32 ≤ k.flags) || decide (2 ^ 52 ≤ k.argBase) || unused.any (fun f => f.base != 0 || f.flags != 0) ||
      k.used.any fun f => decide (16 ≤ f.flags)),
    (0x11, k.laneEntry == 0 || k.laneEntry % 4 != 0 || decide (2 ^ 52 ≤ k.laneEntry) || k.controlEntry % 4 != 0 ||
      decide (2 ^ 52 ≤ k.controlEntry) || (child && k.controlEntry != 0)),
    (0x12, !child && (decide (2 < k.regime) || (if k.regime == 1 then decide (k.fretLog2 < 6) || decide (16 < k.fretLog2) else k.fretLog2 != 0) ||
      decide (1 < k.coop) || decide (7 < k.priority))),
    (0x13, !child && ((k.rectW == 0) != (k.rectH == 0) || decide (s.partPw p < k.rectX + w) || decide (s.partPh p < k.rectY + h) ||
      (k.regime == 2 && !aligned))),
    (0x14, k.wavesPerGroup == 0 || decide (32 < k.wavesPerGroup) || k.regs == 0 || decide (128 < k.regs)),
    (0x15, k.gmemKib % 4 != 0 || decide (896 < k.gmemKib) || k.spillBytes % 128 != 0 || decide (65536 < k.spillBytes) ||
      (k.wavesPerGroup != 0 && decide (k.wavesPerGroup ≤ 32) && k.regs != 0 && decide (k.regs ≤ 128) && (fit [] k.isStrip k).isNone)),
    (0x16, k.argBytes % 8 != 0 || decide (4096 < k.argBytes) || (k.argCount != 0 && k.argBytes == 0) ||
      (k.groups == 0 && (k.argCount == 0 || k.coop == 1 || k.chunkMin == 0)) ||
      (child && k.coop == 1) || (raster && (k.groups != 0 || k.argCount != 1 || decide (k.argBytes < 128)))),
    (0x17, (if child then k.head != 0xFFFF || k.strip != 0 else
        (decide (131 < k.head) && k.head != 0xFFFF) || (k.strip != 0 && k.head == 0xFFFF) ||
        (decide (k.head ≤ 131) && !s.stripShapeOk k) || (s.findQueue p k.queue).isNone || !s.inCtxRange p c k.queue) ||
      (raster && (k.regime != 0 || k.coop != 0 || k.controlEntry != 0))),
    (0x18, !child && k.used.any fun f => decide (2 ≤ f.space) || bits f.flags 1 0 == 0 ||
      (f.space == 0 && decide (2 ^ 52 < f.base + f.len)) || (f.space == 1 && !s.inWindow p f.base f.len)),
    (0x19, k.donePeg != 0 && (k.donePeg % 8 != 0 || !s.inWindow p k.donePeg 8)),
    (0x1A, (k.donate && k.regime != 0) || (k.spawn && k.regime == 2) || (k.slotMask == 0 && bits k.qrt 51 0 != 0) || bits k.qrt 63 56 != 0) ]

/-! ### The process-group table (R22, R260) -/

/-- An entry of a process-group table (Table 08-6). -/
def parsePgt (x : Nat) : PgtEntry :=
  { pkg := bits x 15 0, dom := bits x 31 16, pos := bits x 39 32,
    neighbours := bits x 63 48 :: bits x 79 64 :: (List.range 6).map fun i => bits x (95 + 16 * i) (80 + 16 * i),
    shareBase := bits x 223 192, shareCount := bits x 255 224 }

/-- The tag is that of another running card on the package (R260); only a card in status running counts (log entry 128). -/
def tagTaken (s : State) (tag : Nat) : Bool :=
  s.launches.any fun l => l.2.status == .running && l.2.tag == tag && l.2.card.pgt != 0
/-- Reading a table and checking it: none while a granule of it is being scrubbed (R445), none inside for launch error 0x1B; else the tag and
the entries. The table is read where pgt points, whatever its alignment and its bits [63:52] (log entry 89). -/
def readPgt (s : State) (p c va : Nat) : Option (Option (Nat × List PgtEntry)) × State :=
  match s.vread p c va 32 with
  | (.inr .wait, s) => (none, s)
  | (.inr _, s) => (some none, s)
  | (.inl hd, s) =>
    let x := ofBytes hd
    let n := bits x 31 0
    let (tx, ty, tz) := (bits x 71 64, bits x 79 72, bits x 87 80)
    if n = 0 ∨ 16384 < n ∨ bits x 255 88 ≠ 0 ∨ ((tx ≠ 0 ∨ ty ≠ 0 ∨ tz ≠ 0) ∧ tx * ty * tz ≠ n) then (some none, s)
    else match s.vread p c (va + 32) (32 * n) with
    | (.inr .wait, s) => (none, s)
    | (.inr _, s) => (some none, s)
    | (.inl bs, s) =>
      let xs := (List.range n).map fun i => ofBytes ((bs.drop (32 * i)).take 32)
      let es := xs.map parsePgt
      let keys := es.map fun e => (e.dom, e.pos)
      let own := s.barBits tbcfgOff 31 16
      let tag := bits x 63 32
      if xs.any (fun e => bits e 47 40 != 0 || bits e 191 176 != 0) ∨ keys.eraseDups.length ≠ n ∨ !(es.any fun e => e.pkg == own) ∨ s.tagTaken tag
      then (some none, s) else (some (some (tag, es)), s)

end State

/-- A launch as it enters its queue. -/
def Launch.fresh (k : Card) (va : Nat) (onDie : Bool) (part ctx order root : Nat) (hwq : Option Nat) : Launch :=
  { card := k, cardVa := va, onDie := onDie, part := part, ctx := ctx, status := .queued, order := order, rank := 0, ranks := 1, tag := 0,
    pgt := [], dealt := 0, made := 0, finished := 0, streams := 0, lastCluster := none, bindings := [], newBindings := [], fret := 0, snap := none, indexBase := 0,
    gbarPhase := 0, start := none, scy0 := 0, stopped := 0, tune := none, gbarDue := none, gbarAfter := none, turns := [], hwq := hwq, haltAt := none,
    closeAt := none, committing := false, recorded := false, deadlineDone := false, root := root, tree := none, target := none,
    activated := 0, raster := none, ring := none, corr := 0, corrNext := [], tunes := [], stops := [], inserted := [], tuned := 0, reports := [] }

end Sys2Proof.Machine
end

