-- ==== Sys2Proof/Machine/Copy.lean ====
section
/-! DEFINITION. The copy engine (11 R312-R330): descriptors, CPY, CPYG, CPYS, CLOSE, WAITB, the transfer of a piece, faults with
their verdicts, and replay. -/

namespace Sys2Proof.Machine

/-! ### Rows and pieces (R312, R314) -/

namespace Copy

/-- Plane pitch in rows. -/
def pitch (k : Copy) : Nat := if k.pg = 0 then k.yr else k.pg
/-- Rows of the whole copy: plane by plane. -/
def rows (k : Copy) : Nat := k.zp * k.yr
/-- Width of the address sums in a space: 2^52 in main memory, 2^32 elsewhere (R312). -/
def modulus (space : Nat) : Nat := if space = 0 then 2 ^ 52 else 2 ^ 32
/-- Place of row r counted by a pitch: plane q and row i (R312). -/
def linear (k : Copy) (r : Nat) : Nat := r / k.yr * k.pitch + r % k.yr
def idxOf (k : Copy) (r : Nat) : Nat := (k.idx.getD []).getD r 0
/-- Address of row r in the source (Table 11-3), within its space. -/
def srcRow (k : Copy) (r : Nat) : Nat :=
  (k.src % modulus k.sspace + (if k.form = 0 then k.linear r else if k.form = 1 then k.idxOf r else r) * k.srp) % modulus k.sspace
/-- Address of row r in the destination. -/
def dstRow (k : Copy) (r : Nat) : Nat :=
  (k.dst % modulus k.dspace + (if k.form = 0 then k.linear r else if k.form = 2 then k.idxOf r else r) * k.drp) % modulus k.dspace
/-- The pieces of a row from byte j on: offset and length (R314). -/
def cuts (k : Copy) (s d : Nat) : Nat → Nat → List (Nat × Nat)
  | 0, _ => []
  | fuel + 1, j =>
    if k.xb ≤ j then [] else
    let a := min (k.xb - j) (64 - (d + j) % 64)
    let n := if k.sspace = 0 && !k.fill then min a (4096 - (s + j) % 4096) else a
    (j, n) :: cuts k s d fuel (j + n)
/-- A row's pieces; the halves of a dimension are a QTAB's pieces (R422). -/
def rowPieces (k : Copy) (r : Nat) : List (Nat × Nat) := k.cuts (k.srcRow r) (if k.form = 3 then 0 else k.dstRow r) k.xb 0
/-- Piece n from row r on, over `fuel` rows: row, offset in the row and length. -/
def findPiece (k : Copy) : Nat → Nat → Nat → Option (Nat × Nat × Nat)
  | 0, _, _ => none
  | fuel + 1, r, n =>
    let ps := k.rowPieces r
    if n < ps.length then ps[n]?.map fun p => (r, p.1, p.2) else findPiece k fuel (r + 1) (n - ps.length)
def pieceAt (k : Copy) (n : Nat) : Option (Nat × Nat × Nat) := k.findPiece k.rows 0 n
/-- The number of pieces. -/
def pieceCount (k : Copy) : Nat := ((List.range k.rows).map fun r => (k.rowPieces r).length).foldl (· + ·) 0
/-- Cycles for which a locked copy occupies the engine (R328). -/
def occupancy (k : Copy) : Nat :=
  if k.form = 0 ∨ k.form = 3 then k.pieceCount
  else k.yr * (ceilDiv k.xb 64 + 1) + if k.sspace = 0 && !k.fill then k.yr * ceilDiv k.xb 4096 else 0

end Copy

/-! ### Checks at issue (R316) -/

/-- The address form of a space (Table 11-2). -/
def spaceForm (space a : Nat) : Bool :=
  match space with
  | 0 => decide (a < 2 ^ 52) | 1 => decide (a < 2 ^ 32) | 2 => decide (a < 2 ^ 36) | _ => decide (a < 2 ^ 46)

/-- Where n bytes of space 1 lie for a copy of this issuer; the geometry block only as a source. -/
def onDie (s : State) (c : Ctx) (source : Bool) (a n : Nat) : Option Place :=
  (s.place c .groupOrWindow a n).orElse fun _ => if source then s.place c .windowOrGeometry a n else none

/-- A row of a side lies where its space admits it. -/
def rowAdmitted (s : State) (c : Ctx) (space : Nat) (base : Nat) (source : Bool) (a n : Nat) : Bool :=
  match space with
  | 1 => (onDie s c source a n).isSome
  | 2 => match mget (base / 2 ^ 32 % 16) (s.cluster c.grp.cluster).ranges with
    | some r => decide (a + n ≤ 4096 * r.gcount)
    | none => false
  | _ => true

/-- The first row of a side that leaves its range: its address. -/
def badRow (s : State) (c : Ctx) (space base : Nat) (source : Bool) (row : Nat → Nat) (n rows : Nat) : Option Nat :=
  ((List.range rows).map row).find? fun a => !rowAdmitted s c space base source a n

/-- The index array lies in group memory or in one slice of the window (R316). -/
def idxAdmitted (s : State) (c : Ctx) (a n : Nat) : Bool :=
  match s.place c .groupOrWindow a n with
  | some (.group _) => true
  | some (.window _) => (a - 0x40000000) / 2 ^ 21 == (a + n - 1 - 0x40000000) / 2 ^ 21
  | _ => false

/-- The checks of R316 before the stamp checks. -/
def copyCheck (s : State) (c : Ctx) (i : Instr) (k : Copy) (d : Nat) : Option TrapInfo :=
  let ill := bits d 159 156 != 0 || bit d 175 || k.xb == 0 || k.yr == 0 || k.zp == 0 || decide (3 < k.sspace) || decide (3 < k.dspace) ||
    k.sspace == 3 || !spaceForm k.sspace k.src || !spaceForm k.dspace k.dst || (k.fill && (k.src != 0 || k.sspace != 0)) ||
    (k.fill && k.form == 1) || (k.form != 0 && k.zp != 1) || (k.dspace == 3 && c.card.regime == 0 && c.card.pgt == 0)
  let regime := (k.dspace == 3 && c.card.regime != 0) || (c.locked && !c.isCore && (k.dspace == 0 || (k.sspace == 0 && !k.fill)))
  let srcBad := if k.fill then none else
    if k.form = 1 then badRow s c k.sspace k.src true (fun _ => k.src % Copy.modulus k.sspace) k.xb 1
    else badRow s c k.sspace k.src true k.srcRow k.xb k.rows
  let dstBad := if k.form = 2 then badRow s c k.dspace k.dst false (fun _ => k.dst % Copy.modulus k.dspace) k.xb 1
    else badRow s c k.dspace k.dst false k.dstRow k.xb k.rows
  if ill then some (trapIllop (wordOf i))
  else if regime then some (trapRegime (wordOf i))
  else if ((k.sspace == 2 && !k.fill) || k.dspace == 2) && !holdsClaim s c then some trapSync
  else if k.form ≠ 0 ∧ k.idxAddr % 4 ≠ 0 then some (trapAlign k.idxAddr)
  else match srcBad, dstBad with
  | some a, _ => some (trapBounds a)
  | none, some a => some (trapBounds a)
  | none, none =>
    if k.form ≠ 0 ∧ !idxAdmitted s c k.idxAddr (4 * k.yr) then some (trapBounds k.idxAddr) else none

/-- The copy that a descriptor names (Table 11-1). -/
def copyOf (s : State) (c : Ctx) (form d idxAddr : Nat) : Copy :=
  { group := c.g, wave := c.wi, launch := c.lid, cluster := c.grp.cluster, batch := c.w.batch, pc := c.w.pc, form := form
    src := bits d 63 0, dst := bits d 127 64, xb := bits d 143 128, yr := bits d 155 144, zp := bits d 167 160
    sspace := bits d 170 168, dspace := bits d 173 171, fill := bit d 174, pg := bits d 191 176, srp := bits d 223 192
    drp := bits d 255 224, idxAddr := idxAddr, idx := if form = 0 then some [] else none, covers := outstanding s c
    next := 0, ahead := [], start := none, fetched := [], held := c.ordered, order := s.seq, remote := [], sent := [], early := [], stage := [] }

/-- Stamped copies of a cluster that have not started (R278). -/
def copiesWaiting (s : State) (c : Ctx) (quasi : Bool) : Nat :=
  (s.copies.filter fun e => e.2.cluster == c.grp.cluster && (e.2.form == 3) == quasi && match e.2.start with
    | some t => decide (s.scy c.l < t) | none => false).length

/-- CPY, CPYG and CPYS (R315-R318, R328). -/
def copyBody (i : Instr) (form : Nat) (a : Reg) (b : Option Reg) (s : State) (c : Ctx) : Res :=
  let d := ((List.range 8).map fun k => (c.w.reg c.leader (a.toNat + k)).toNat * 2 ^ (32 * k)).foldl (· + ·) 0
  let k := copyOf s c form d ((b.map fun r => (c.w.reg c.leader r.toNat).toNat).getD 0)
  match copyCheck s c i k d with
  | some ti => .trap ti
  | none =>
    let cl := s.cluster c.grp.cluster
    let add (k : Copy) : Res :=
      let s := match k.start with
        | some t => s.setCluster c.grp.cluster { cl with copyEnd := max cl.copyEnd (t + k.occupancy) }
        | none => s
      .done { s.fresh with copies := mset s.seq k s.copies } c.next
    if !c.locked then add k
    else if c.isCore then
      match stampCheck s c (copiesWaiting s c false) cl.copyEnd with
      | .inl ti => .trap ti
      | .inr t => add { k with start := some t }
    else add { k with start := some (s.scy c.l + 8) }

/-- The descriptor registers. -/
def r8 (r : Reg) : Use := { reg := r, n := 8, align := 8 }
/-- CPY (R315). -/
def execCpy (a : Reg) (s : State) : Host.Outcome State Fault Refusal :=
  s.issue { ins := .cpy a, who := .both, uses := [r8 a] } (copyBody (.cpy a) 0 a none)
/-- CPYG (R315). -/
def execCpyg (a b : Reg) (s : State) : Host.Outcome State Fault Refusal :=
  s.issue { ins := .cpyg a b, who := .both, uses := [r8 a, r1 b] } (copyBody (.cpyg a b) 1 a (some b))
/-- CPYS (R315). -/
def execCpys (a b : Reg) (s : State) : Host.Outcome State Fault Refusal :=
  s.issue { ins := .cpys a b, who := .both, uses := [r8 a, r1 b] } (copyBody (.cpys a b) 2 a (some b))

/-! ### Batches (R319-R321) -/

/-- Closed batches of an issuer with a copy that is not complete. -/
def openBatches (s : State) (g wi next : Nat) : List Nat :=
  ((s.copies.filter fun e => e.2.group == g && e.2.wave == wi && e.2.batch != next).map fun e => e.2.batch).eraseDups
/-- comp of R319: the batch before the oldest incomplete one. -/
def compOf (s : State) (g wi next : Nat) : Nat :=
  ((openBatches s g wi next).foldl (fun m b => if (b + 2 ^ 32 - m) % 2 ^ 32 < 2 ^ 31 then m else b) next + 2 ^ 32 - 1) % 2 ^ 32
/-- Batch b is covered by a wait for n (R321). -/
def covered (n b : Nat) : Bool := decide ((n + 2 ^ 32 - b) % 2 ^ 32 < 2 ^ 31)

/-- CLOSE (R320). In the ordered regime a wave with 64 incomplete batches ends its fret first (R232). -/
def execClose (d : Reg) (s : State) : Host.Outcome State Fault Refusal :=
  s.issue { ins := .close d, who := .both, uses := [w1 d], endsFret := true } fun s c =>
    if 64 ≤ (openBatches s c.g c.wi c.w.batch).length then
      if c.locked then .trap (trapTiming 0x0A) else .wait s { c.w with wait := .condition } 1
    else
      let e := landing s c 1 32 (maskOf c.all) (.regs (c.all.map fun t => (d.toNat * 32 + t, BitVec.ofNat 32 c.w.batch))) []
      .done s.fresh ({ c.next with batch := (c.w.batch + 1) % 2 ^ 32 }.push e)

/-- WAITB (R321). -/
def execWaitb (d b : Reg) (s : State) : Host.Outcome State Fault Refusal :=
  s.issue { ins := .waitb d b, who := .both, uses := [w1 d, r1 b], waits := true } fun s c =>
    let n := (c.w.reg c.leader b.toNat).toNat
    if !covered (compOf s c.g c.wi c.w.batch) n then
      if c.locked then .trap (trapTiming 0x0E) else .wait s { c.w with wait := .condition } 2
    else match c.w.batchFail.find? fun e => covered n e.1 with
    | some (k, va) =>
      .become ((s.updWave c.g c.wi fun w => { w with batchFail := mdel k w.batchFail }).takeTrap c (trapXlate va))
    | none =>
      let bits := ((c.w.batchBits.filter fun e => covered n e.1).map (·.2)).foldl Nat.lor 0
      let e := landing s c 1 32 (maskOf c.all) (.regs (c.all.map fun t => (d.toNat * 32 + t, BitVec.ofNat 32 bits))) []
      .done (s.acquired c).fresh ({ c.next with batchBits := c.w.batchBits.filter fun e => !covered n e.1 }.push e)

/-! ### Pieces (R317, R322-R326, R328) -/

/-- A status bit of Table 11-4 for the batch of a copy. -/
def batchBit (s : State) (k : Copy) (b : Nat) : State :=
  s.updWave k.group k.wave fun w => { w with batchBits := mset k.batch (Nat.lor (dget 0 k.batch w.batchBits) b) w.batchBits }

/-- Piece n of copy id is complete (R317); with its last piece the copy leaves the engine. -/
def pieceDone (s : State) (id n : Nat) : State :=
  match mget id s.copies with
  | none => s
  | some k =>
    let ahead := n :: k.ahead
    let k := if n = k.next then
        -- the completed run grows over the pieces that were done ahead of it
        let run := (List.range ahead.length).foldl (fun m _ => if ahead.contains m then m + 1 else m) n
        { k with next := run, ahead := ahead.filter fun m => decide (run ≤ m) }
      else { k with ahead := ahead }
    let k := { k with fetched := mdel n k.fetched, remote := k.remote.filter (· != n), early := mdel n k.early }
    if (k.pieceAt k.next).isNone then { s with copies := mdel id s.copies } else { s with copies := mset id k s.copies }

/-- The bytes of a side in space 1 lie in one array each: physical address and length of its one or two parts. -/
def placeParts (s : State) (c : Ctx) (p : Place) (a n : Nat) : List (Nat × Nat) :=
  match p with
  | .group x => [(x, n)]
  | .window x =>
    let k := 2 ^ 21 - (a - 0x40000000) % 2 ^ 21
    if n ≤ k then [(x, n)] else [(x, k), (s.windowAddr c.part (a + k), n - k)]
  | .geometry _ => []

/-- What one side of a piece answers; `later` is an access whose bank has to wake first (R190). -/
inductive Side where
  | data (bs : List Byte) (poison : Nat)
  | written
  | sent
  | fault (reason va : Nat)
  | wait
  | later
  | norange
  | refused
  | locked (cause : Nat)

/-- An access of the engine to parts of banked arrays (R186, R188, R190, R193): the answer that keeps it from being performed now, and the
state. -/
def bankAnswer (s : State) (c : Ctx) (parts : List (Nat × Nat)) : Option Side × State :=
  if c.locked then ((bankFault s parts).map .locked, s.occupy (partBanks parts) 1)
  else match engineAt s parts fun s => some s with
  | none => (some .wait, s)
  | some t => if (partBanks parts).any (asleep s) then (some .later, t) else (none, t)

/-- The operand-range bytes of an offset, while the range that holds them is reserved. -/
def rangePart (s : State) (k : Copy) (base off n : Nat) : Option (List (Nat × Nat)) :=
  (mget (base / 2 ^ 32 % 16) (s.cluster k.cluster).ranges).bind fun r =>
    if off + n ≤ 4096 * r.gcount then some [(Base.operand k.cluster + 4096 * r.gbase + off, n)] else none

/-- The source side of a piece. -/
def readSide (s : State) (c : Ctx) (k : Copy) (r j n : Nat) : Side × State :=
  let a := (k.srcRow r + j) % Copy.modulus k.sspace
  if k.fill then (.data (List.replicate n 0#8) 0, s) else
  match k.sspace with
  | 0 => match s.xlate c.part c.l.ctx a .read (State.engineOf k.cluster 0) with
    | (.pa m, s) => (.data (s.mainRead c.part m n) (s.mainPoison m n), s)
    | (.fault x, s) => (.fault x a, s)
    | (_, s) => (.wait, s)
  | 2 => match rangePart s k k.src a n with
    | some ps => let (bs, p, s) := readParts s ps c.who; (.data bs p, s)
    | none => (.norange, s)
  | _ => match onDie s c true a n with
    | some (.geometry o) => (.data (s.geometryBytes c.part o n) 0, s)
    | some p =>
      let ps := placeParts s c p a n
      match bankAnswer s c ps with
      | (some x, s) => (x, s)
      | (none, s) => let (bs, q, s) := readParts s ps c.who; (.data bs q, s)
    | none => (.norange, s)

/-- The port of a remote piece (R329). -/
def remotePort (_k : Copy) (a : Nat) : Nat := (a - 0x40000000) / 2 ^ 21 % 64
/-- A piece may still be sent on a port: it is neither done nor sent. -/
def toSend (k : Copy) (port n : Nat) : Bool :=
  decide (k.next ≤ n) && !k.ahead.contains n && !k.remote.contains n && match k.pieceAt n with
    | some (r, j, _) => remotePort k ((k.dstRow r + j) % Copy.modulus k.dspace) == port
    | none => false
/-- The destination side of a piece. A remote piece leaves as a best-effort flit; the last of each group of 8 on its port, and the last of the
copy there, is marked (R244). -/
def writeSide (s : State) (c : Ctx) (id : Nat) (k : Copy) (piece r j : Nat) (bs : List Byte) (poison : Nat) : Side × State :=
  let n := bs.length
  let a := (k.dstRow r + j) % Copy.modulus k.dspace
  match k.dspace with
  | 0 => match s.xlate c.part c.l.ctx a .write (State.engineOf k.cluster 0) with
    | (.pa m, s) => (.written, s.mainWrite c.part m bs poison)
    | (.fault x, s) => (.fault x a, s)
    | (_, s) => (.wait, s)
  | 2 => match rangePart s k k.dst a n with
    | some ps => (.written, writeParts s ps bs poison c.who)
    | none => (.norange, s)
  | 4 =>
    -- a dimension of the table store is written when both of its pieces have arrived (R422)
    let st := (s.cluster k.cluster).store
    let at_ := Base.table k.cluster + 128 * State.storeDim st (k.dst / 256) (k.dst % 256 + piece / 2)
    match mget (if piece % 2 = 0 then piece + 1 else piece - 1) k.stage with
    | none => (.written, { s with copies := mupd id (fun k => { k with stage := mset piece (bs, poison) k.stage }) s.copies })
    | some (other, p) =>
      let (lo, hi) := if piece % 2 = 0 then ((bs, poison), (other, p)) else ((other, p), (bs, poison))
      let s := { s with copies := mupd id (fun k => { k with stage := k.stage.filter fun e => e.1 / 2 != piece / 2 }) s.copies }
      (.written, writeParts s [(at_, 128)] (lo.1 ++ hi.1) (lo.2 + 2 ^ lo.1.length * hi.2) c.who)
  | 3 =>
    let home (e : PgtEntry) : Bool := e.dom == s.barBits tbcfgOff 47 32
    match (c.l.pgt[k.dst / 2 ^ 32 % 2 ^ 14]?).filter home with
    | none => (.refused, s)
    | some e =>
    let port := remotePort k a
    let count := dget 0 port k.sent
    let last := count % 8 == 7 || !((List.range k.pieceCount).any fun n => n != piece && toSend k port n)
    let s := s.send "best-effort" ([e.pos, port, ownPos s, c.l.tag, a, id, piece, poison, last.toNat] ++ bs.map BitVec.toNat)
    (.sent, { s with
      copies := mupd id (fun k => { k with remote := piece :: k.remote, sent := mset port (count + 1) k.sent }) s.copies
      -- at most one such flit a cycle, and every second cycle where the power manager limits them (R471)
      portUsed := mset port ((dget (0, 0) port s.portUsed).1, s.cyc + if s.halfRate then 2 else 1) s.portUsed })
  | _ => match onDie s c false a n with
    | some p =>
      let ps := placeParts s c p a n
      match bankAnswer s c ps with
      | (some x, s) => (x, s)
      | (none, s) => (.written, writeParts s ps bs poison c.who)
    | none => (.norange, s)

/-- A side that touches main memory. -/
def Copy.main (k : Copy) : Bool := (k.sspace == 0 && !k.fill) || k.dspace == 0
/-- The index array is read before the rows it places (R317): the copy with its indexes, or what keeps the read from being performed now. -/
def readIdx (s : State) (c : Ctx) (k : Copy) : (Copy ⊕ Side) × State :=
  match s.place c .groupOrWindow k.idxAddr (4 * k.yr) with
  | some p =>
    let ps := placeParts s c p k.idxAddr (4 * k.yr)
    match bankAnswer s c ps with
    | (some x, s) => (.inr x, s)
    | (none, s) =>
      let (bs, _, s) := readParts s ps c.who
      (.inl { k with idx := some ((List.range k.yr).map fun i => ofBytes ((bs.drop (4 * i)).take 4)) }, s)
  | none => (.inl { k with idx := some [] }, s)
/-- An indexed row leaves its admitted range (R317). A range that is released is none (R325). -/
def badIndex (s : State) (c : Ctx) (k : Copy) (r : Nat) : Bool :=
  let released (base : Nat) : Bool := (mget (base / 2 ^ 32 % 16) (s.cluster k.cluster).ranges).isNone
  (k.form == 1 && !(k.sspace == 2 && released k.src) && !rowAdmitted s c k.sspace k.src true (k.srcRow r) k.xb) ||
    (k.form == 2 && !(k.dspace == 2 && released k.dst) && !rowAdmitted s c k.dspace k.dst false (k.dstRow r) k.xb)

/-- One access of a piece: its write where its data is held, else its read and, but for a locked copy, its write; faults and refusals are
settled. None where it must wait: for a scrub (R445) or for a bank (R187). -/
def stepPiece (s : State) (c : Ctx) (id : Nat) (k : Copy) (n r j len : Nat) : Option State :=
  let fail (s : State) (b : Nat) : State := pieceDone (batchBit s k b) id n
  let late (s : State) (cause : Nat) : State := engineTrap (pieceDone s id n) (some c) k.pc cause
  let hold (s : State) (bs : List Byte) (poison : Nat) : State :=
    { s with copies := mupd id (fun k => { k with fetched := mset n (bs, poison) k.fetched, early := mdel n k.early }) s.copies }
  let faulted (s : State) (reason va : Nat) (acc : Access) (data : Option (List Byte × Nat)) : State :=
    if c.locked then late s 0x0B
    else
      let (f, s) := s.raiseFault c.part c.l.ctx k.cluster (if k.form = 3 then 3 else 0) va reason acc
      { s with replays := s.replays ++ [{ cluster := k.cluster, copy := id, piece := n, fault := f, va := va, data := data }] }
  let write (s : State) (bs : List Byte) (poison : Nat) : Option State :=
    match writeSide s c id k n r j bs poison with
    | (.written, s) => some (pieceDone (if poison = 0 then s else batchBit s k 4) id n)
    | (.fault x va, s) => some (faulted s x va .write (some (bs, poison)))
    | (.norange, s) => some (fail s 2)
    | (.refused, s) => some (fail s 1)
    | (.locked x, s) => some (late s x)
    | (.sent, s) => some (if poison = 0 then s else batchBit s k 4)
    | (.later, s) => some s
    | (_, s) => if c.locked then some (late s 0x0B) else none
  if badIndex s c k r then some (fail s 8)
  else match mget n k.fetched with
  | some (bs, p) => write s bs p
  | none =>
    match readSide s c k r j len with
    -- a piece whose write has to wait holds its data
    | (.data bs p, s) => if c.locked then some (hold s bs p) else some ((write s bs p).getD (hold s bs p))
    | (.fault x va, s) => some (faulted s x va .read none)
    | (.norange, s) => some (fail s 2)
    | (.locked x, s) => some (late s x)
    | (.later, s) => some s
    | (_, s) => if c.locked then some (late s 0x0B) else none

/-- The distance to the slice of the index array (R328). -/
def idxDist (s : State) (c : Ctx) (k : Copy) : Nat :=
  match s.place c .groupOrWindow k.idxAddr 4 with
  | some (.window x) => s.dist c.part k.cluster ((x - Base.slice 0) / 2 ^ 21)
  | _ => 0
/-- Locked cycles of piece n: the SCYs at which its read and its write are performed, and the cycles that each is then under way (Table
11-5). -/
def pieceTimes (s : State) (c : Ctx) (k : Copy) (n r j len : Nat) : (Nat × Nat) × (Nat × Nat) :=
  let t := k.start.getD 0
  let cl (p : Option Place) : Nat := match p with
    | some (.window x) => s.dist c.part k.cluster ((x - Base.slice 0) / 2 ^ 21)
    | _ => 0
  let ds := if k.sspace = 1 then cl (onDie s c true ((k.srcRow r + j) % 2 ^ 32) len) else 0
  let dd := if k.dspace = 1 then cl (onDie s c false ((k.dstRow r + j) % 2 ^ 32) len) else 0
  let d := if k.form = 0 ∨ k.form = 3 then 0 else match s.place c .groupOrWindow k.idxAddr 4 with
    | some (.window _) => 20 + 2 * idxDist s c k
    | _ => 0
  if k.fill then ((t + n, 0), (t + n + 10 + dd, 10 + dd))
  else if k.sspace = 0 then ((t + d + n, 0), (t + d + n + 1536 + 10 + dd, 10 + dd))
  else if k.dspace = 0 then ((t + d + n + 10 + ds, 10 + ds), (t + d + n + 20 + 2 * ds + 1536, 1536))
  else ((t + d + n + 10 + ds, 10 + ds), (t + d + n + 30 + 2 * ds + dd, 10 + dd))
/-- The SCY at which a locked copy reads its index array, and the cycles that the access is then under way: as its first access, with group
memory at t; of a fill, whose writes Table 11-5 places without D, not after the first of them (log entry 100). -/
def idxTime (s : State) (c : Ctx) (k : Copy) : Nat × Nat :=
  let t := k.start.getD 0
  match s.place c .groupOrWindow k.idxAddr 4 with
  | some (.window _) => (if k.fill then min (t + 10 + idxDist s c k) (t + 10) else t + 10 + idxDist s c k, 10 + idxDist s c k)
  | _ => (t, 0)
/-- An access of a locked copy has come to its cycle: one that was under way when a stop began, at its CYC (R286). -/
def copyDue (s : State) (c : Ctx) (k : Copy) (n y : Nat) : Bool :=
  match mget n k.early with
  | some t => decide (t ≤ s.cyc)
  | none => s.scyPast c.l y
/-- The accesses of locked copies that are under way when a stop begins at SCY y and CYC t keep their physical cycles (R286). -/
def keepEarly (s : State) (lid t y : Nat) : State :=
  { s with copies := s.copies.map fun e =>
      let k := e.2
      match (if k.launch = lid ∧ k.start.isSome then s.ctxOf k.group k.wave else none) with
      | none => e
      | some c =>
        let due (n at_ len : Nat) : List (Nat × Nat) :=
          if decide (y ≤ at_) && decide (at_ < y + len) && (mget n k.early).isNone then [(n, t + (at_ - y))] else []
        let more :=
          if k.idx.isNone then due (2 ^ 64) (idxTime s c k).1 (idxTime s c k).2
          else (List.range k.pieceCount).flatMap fun n =>
            if n < k.next ∨ k.ahead.contains n then [] else
            match k.pieceAt n with
            | some (r, j, len) =>
              let (rd, wr) := pieceTimes s c k n r j len
              if (mget n k.fetched).isSome then due n wr.1 wr.2 else due n rd.1 rd.2
            | none => []
        (e.1, { k with early := k.early ++ more }) }

/-- A group's memory is in its cluster: not saved to the context pool (R326). -/
def inPlace (g : Group) : Bool := g.status != .saved
/-- An index array in the issuer's group memory that has not been read. -/
def idxInGroup (c : Ctx) (k : Copy) : Bool := k.idx.isNone && decide (k.idxAddr < State.gmemBytes c)
/-- What is still to be done of a piece touches the issuer's group memory: its read, unless its data is held, or its write (R326). -/
def touchesGroup (c : Ctx) (k : Copy) (n r j : Nat) : Bool :=
  (k.sspace == 1 && !k.fill && (mget n k.fetched).isNone && decide ((k.srcRow r + j) % 2 ^ 32 < State.gmemBytes c)) ||
    (k.dspace == 1 && decide ((k.dstRow r + j) % 2 ^ 32 < State.gmemBytes c))
/-- A lower-numbered piece has still to read bytes that piece n writes (R317). -/
def readsBefore (k : Copy) (n r j len : Nat) : Bool :=
  k.sspace == k.dspace && !k.fill && k.form != 3 && (List.range n).any fun m =>
    decide (k.next ≤ m) && !k.ahead.contains m && (mget m k.fetched).isNone && match k.pieceAt m with
      | some (r', j', n') =>
        let a := (k.srcRow r' + j') % Copy.modulus k.sspace
        let b := (k.dstRow r + j) % Copy.modulus k.dspace
        decide (a < b + len) && decide (b < a + n')
      | none => false
/-- Pieces that an engine has in flight (R314): read and not written, sent and not answered, or held for replay. -/
def piecesInFlight (s : State) (cl : Nat) : Nat :=
  ((s.copies.filter fun e => e.2.cluster == cl).map fun e => e.2.fetched.length + e.2.remote.length + e.2.stage.length).foldl (· + ·) 0 +
    (s.replays.filter fun r => r.cluster == cl).length
/-- A best-effort flit may leave on a port in this cycle: no scheduled flit takes it (R254), nor another best-effort one (R471). -/
def portFree (s : State) (port : Nat) : Bool :=
  decide ((dget (0, 0) port s.portUsed).1 ≤ s.cyc) && decide ((dget (0, 0) port s.portUsed).2 ≤ s.cyc) &&
  s.sends.all fun e => e.2.port != port || match mget e.2.launch s.launches with
    | some l => l.status != .running || s.scyStands l || !(decide (e.2.t ≤ s.scy l) && decide (s.scy l < e.2.t + e.2.count))
    | none => true

/-- COPY_PIECE_TRANSFER (R317, R328): the engine transfers one piece, or one half of a locked one; the first event of an indexed copy reads its
index array. The limit of R314 on the pieces in flight does not move the cycles of a locked copy (log entry 101). -/
def tryCopyPieceTransfer (copy piece : Nat) (s : State) : Option State :=
  let no : Option State := none
  match mget copy s.copies with
  | none => no
  | some k =>
    match s.ctxOf k.group k.wave with
    | none => no
    | some c =>
      let fresh := decide (k.next ≤ piece) && !k.ahead.contains piece && !k.remote.contains piece &&
        !(s.replays.any fun r => r.copy == copy && r.piece == piece)
      -- a locked copy keeps the cycles of Table 11-5
      let first := c.locked || k.covers.all fun i => (s.reqs.all fun q => q.id != i) && s.rels.all fun q => q.id != i
      -- ordered copies follow one another in commit order (R231, R327)
      let turn := !c.ordered || s.copies.all fun e => e.1 == copy || e.2.launch != k.launch || e.2.held || decide (k.order < e.2.order) ||
        (match s.ctxOf e.2.group e.2.wave with | some x => !x.ordered | none => true)
      let room := !k.main || decide ((s.replays.filter fun r => r.cluster == k.cluster).length < 64)
      let begun := (mget piece k.fetched).isSome
      let place := begun || c.locked || decide (piecesInFlight s k.cluster < 256)
      if !(fresh && first && turn && room && place && !k.held) || (idxInGroup c k && !inPlace c.grp) then no
      else if k.idx.isNone then
        -- the index array comes first; of a locked copy, at the cycle at which its access of t is performed (log entry 100)
        if c.locked && !copyDue s c k (2 ^ 64) (idxTime s c k).1 then no else
        match readIdx s c k with
        | (.inl k, s) => some { s with copies := mset copy k s.copies }
        | (.inr (.locked x), s) => some (engineTrap { s with copies := mset copy { k with idx := some [] } s.copies } (some c) k.pc x)
        | (.inr .later, s) => some s
        | (.inr _, _) => no
      else match k.pieceAt piece with
      | none => no
      | some (r, j, n) =>
        let remote := k.dspace == 3 && !portFree s (remotePort k ((k.dstRow r + j) % 2 ^ 32))
        if (touchesGroup c k piece r j && !inPlace c.grp) || (!c.locked && readsBefore k piece r j n) || remote then no
        else
          let (tr, tw) := pieceTimes s c k piece r j n
          -- the cycles of a refused row pass with no access (R328)
          let due := if begun || badIndex s c k r then tw.1 else tr.1
          if c.locked && !copyDue s c k piece due then no
          else match stepPiece s c copy k piece r j n with
          | some t => some t
          | none => no
/-- COPY_PIECE_TRANSFER: it happens where its rule lets it; elsewhere nothing happens. -/
def execCopyPieceTransfer (copy piece : Nat) (s : State) : Host.Outcome State Fault Refusal := happens s (tryCopyPieceTransfer copy piece s)

/-! ### Verdicts (R323, R324, R452) -/

/-- The fault of a posted record. -/
def faultOf (s : State) (part seq : Nat) : Option FaultRec := s.faultRecs.find? fun f => f.part == part && f.seq == some seq
/-- The piece of a replay entry is free to be transferred again; a faulting write keeps the data it has read. -/
def reissue (s : State) (r : Replay) : State :=
  match r.data with
  | none => s
  | some d => { s with copies := mupd r.copy (fun k => { k with fetched := mset r.piece d k.fetched }) s.copies }

end Sys2Proof.Machine
end

