-- ==== Sys2Proof/Machine/Task.lean ====
section
/-! DEFINITION. The task engine (12 R331-R346, R358-R360; 01 R16, R17, R25, R37-R43): ENQ, TKSPAWN and TKARG, submission, dispatch,
placement, chunk dealing, donation, card trees, completion, and the posting of host records (19 R455-R457). -/

namespace Sys2Proof.Machine

/-! ### ENQ, TKSPAWN and TKARG (R341-R343, R346) -/

/-- The intake of a partition is full (R332). -/
def intakeFull (s : State) (p : Nat) : Bool := decide (256 ≤ (s.partOf p).intake.length)
/-- An entry joins the intake. -/
def joinIntake (s : State) (p : Nat) (addr : Nat) (onDie : Bool) (ctx : Nat) (covers : List Nat) : State :=
  let x := s.partOf p
  s.fresh.setPart p { x with intake := x.intake ++ [{ seq := s.seq, addr := addr, onDie := onDie, ctx := ctx, covers := covers }] }

/-- The ring of a tree: the enabled clusters of its root's rectangle (R345). -/
def treeRing (s : State) (root : Nat) : List Nat :=
  match mget root s.launches with
  | some l => s.cardClusters l.part l.card
  | none => []
/-- Children of a tree that are spawned and not yet read (R343). -/
def unreadChildren (s : State) (root : Nat) : Nat := (s.children.filter fun e => e.2.root == root).length
/-- A spawn with status 0: the child waits to be read, and the issuing cluster has sent a message (R343, R345). -/
def spawnChild (s : State) (root source target addr : Nat) (onDie : Bool) (covers : List Nat) : State :=
  let s := { s.fresh with children := mset s.seq { root := root, addr := addr, onDie := onDie, target := target, source := source, covers := covers } s.children }
  s.updLaunch root fun l => { l with tree := l.tree.map fun t =>
    { t with balance := dset 0 source (dget 0 source t.balance + 1) t.balance
             black := if target < source then dset false source true t.black else t.black } }

/-- A landing whose value is made at the commit of the fret (R231, R342). -/
def commitLanding (s : State) (c : Ctx) : Landing :=
  { landing s c 12 32 (maskOf c.all) (.regs []) [] with waiting := 1, arrived := false, nextFret := true }
/-- The status of ENQ and TKSPAWN lands at 12 slots in every thread. -/
def statusLanding (s : State) (c : Ctx) (d : Reg) (status : Nat) : Landing :=
  landing s c 12 32 (maskOf c.all) (.regs (c.all.map fun t => (d.toNat * 32 + t, BitVec.ofNat 32 status))) []

/-- The checks of the address operand (R341): ALIGN, BOUNDS. -/
def submitCheck (s : State) (c : Ctx) (x : Nat) (onDie : Bool) : Option TrapInfo :=
  if x % 64 ≠ 0 then some (trapAlign x)
  else if onDie && (decide (2 ^ 32 ≤ x) || !s.inWindow c.part x 256) then some (trapBounds x)
  else if !onDie && decide (2 ^ 52 ≤ x) then some (trapBounds x)
  else none

/-- ENQ (R341, R342). -/
def enqBody (d a b : Reg) (s : State) (c : Ctx) : Res :=
  let x := (c.w.dreg c.leader a.toNat).toNat
  let f := (c.w.reg c.leader b.toNat).toNat
  if 2 ≤ f then .trap (trapIllop (wordOf (.enq d a b)))
  else match submitCheck s c x (f == 1) with
  | some ti => .trap ti
  | none =>
    if c.ordered then
      let e := commitLanding s c
      .done s.fresh { c.next.push e with buffer := c.w.buffer ++ [.enq x (f == 1) (e.id, d.toNat)] }
    else
      let full := intakeFull s c.part
      let e := statusLanding s c d (if full then 1 else 0)
      .done (if full then s.fresh else joinIntake s.fresh c.part x (f == 1) c.l.ctx (outstanding s c)) (c.next.push e)
/-- ENQ (R341). -/
def execEnq (d a b : Reg) (s : State) : Host.Outcome State Fault Refusal :=
  s.issue { ins := .enq d a b, who := .both, uses := [w1 d, r2 a, r1 b], notLocked := true } (enqBody d a b)

/-- TKSPAWN (R343). -/
def tkspawnBody (d a b : Reg) (s : State) (c : Ctx) : Res :=
  let x := (c.w.dreg c.leader a.toNat).toNat
  let f := (c.w.reg c.leader b.toNat).toNat
  let ring := treeRing s c.l.root
  let here := ring.findIdx (· == c.grp.cluster)
  let t := if f / 2 ^ 16 = 0xFFFF then here else f / 2 ^ 16
  let spawns := ((mget c.l.root s.launches).map fun l => l.card.spawn).getD false
  if f % 2 ^ 16 / 2 ≠ 0 then .trap (trapIllop (wordOf (.tkspawn d a b)))
  else if !spawns || decide (ring.length ≤ t) then .trap trapSync
  else match submitCheck s c x (bit f 0) with
  | some ti => .trap ti
  | none =>
    if c.ordered then
      let e := commitLanding s c
      .done s.fresh { c.next.push e with buffer := c.w.buffer ++ [.spawn x (bit f 0) t (e.id, d.toNat)] }
    else
      let full := decide (256 ≤ unreadChildren s c.l.root)
      let e := statusLanding s c d (if full then 1 else 0)
      .done (if full then s.fresh else spawnChild s.fresh c.l.root here t x (bit f 0) (outstanding s c)) (c.next.push e)
/-- TKSPAWN (R343). A wave of a locked launch may issue it: R67 names every form that the regime forbids (log entry 109). -/
def execTkspawn (d a b : Reg) (s : State) : Host.Outcome State Fault Refusal :=
  s.issue { ins := .tkspawn d a b, who := .both, uses := [w1 d, r2 a, r1 b] } (tkspawnBody d a b)

/-- TKARG (R346). -/
def execTkarg (d a b : Reg) (s : State) : Host.Outcome State Fault Refusal :=
  s.issue { ins := .tkarg d a b, who := .wave, uses := [w2 d, r1 a, r1 b] } fun s c =>
    let count := if c.card.groups = 0 then c.grp.chunkCount else c.card.argCount
    match State.firstTrap c.active fun t =>
        let i := (c.w.reg t a.toNat).toNat
        if count ≤ i then some (trapBounds i) else none with
    | some ti => .trap ti
    | none => laneResult s c d 2 2 fun t =>
      ((c.card.argBase + (c.grp.chunkBase + (c.w.reg t a.toNat).toNat) * c.card.argBytes + (c.w.reg t b.toNat).toNat) % 2 ^ 52, 0)

/-! ### Submission (R332, R455) -/

/-- HOST_SUBMISSION (R455): one posted write to a partition's submission window. -/
def execHostSubmission (part : Nat) (data : List Byte) (s : State) : Host.Outcome State Fault Refusal :=
  let x := ofBytes data
  let addr := bits x 63 0
  let onDie := bit x 64
  let ctx := bits x 71 68
  let bad := data.length != 64 || bits x 67 65 != 0 || bits x 511 72 != 0 || !s.partEn part || !s.barFlag (ctxOff part ctx) 0 ||
    addr % 64 != 0 || (!onDie && decide (2 ^ 52 ≤ addr)) || (onDie && (decide (2 ^ 32 ≤ addr) || !s.inWindow part addr 256)) ||
    intakeFull s part
  .next <| if bad then s.setPart part { s.partOf part with drops := ((s.partOf part).drops + 1) % 2 ^ 32 }
    else joinIntake s part addr onDie ctx []

/-- The scratchpad bytes of a card. -/
def cardParts (s : State) (p addr : Nat) (onDie : Bool) : List (Nat × Nat) :=
  if onDie && s.inWindow p addr 256 then windowParts s p addr 256 else []
/-- Reading a card's 256 bytes (R37, R443): its number, none when it cannot be read (0x1F), or a wait for a scrub. -/
def readCard (s : State) (p c addr : Nat) (onDie : Bool) : Option (Option Nat) × State :=
  if onDie then
    if !s.inWindow p addr 256 then (some none, s) else
    let (bs, bad, s) := readParts s (cardParts s p addr onDie) (some (p, c))
    (some (if bad ≠ 0 then none else some (ofBytes bs)), s)
  else match s.vread p c addr 256 with
  | (.inl bs, s) => (some (some (ofBytes bs)), s)
  | (.inr .wait, s) => (none, s)
  | (.inr _, s) => (some none, s)

/-- A card's entries keep R39: its footprints take part in the comparison of R43. -/
def footprintsOk (s : State) (p c : Nat) (k : Card) : Bool :=
  k.used.all (fun f => decide (f.flags < 16)) && !((s.cardFails p c k false).any fun e => e.1 == 0x18 && e.2)

/-- A child's first group is accepted, or the child is rejected: one message received at its target position (R345). -/
def childGone (s : State) (root target : Nat) : State :=
  s.updLaunch root fun l => { l with tree := l.tree.map fun t =>
    { t with balance := dset 0 target (dget 0 target t.balance - 1) t.balance } }
/-- A queued card is rejected at dispatch, and with 0x1F every card behind it in its queue that an edge joins to it (R43). -/
def rejectQueued : Nat → State → Nat → Nat → State
  | 0, s, _, _ => s
  | fuel + 1, s, lid, code =>
    match mget lid s.launches with
    | none => s
    | some l =>
      if !State.alive l then s else
      let s := match l.target with
        | some p => childGone (s.launchRecord l 0x40 code 0) l.root p
        | none => (s.launchRecord l 0x40 code 0).leaveQueue l
      let s := s.updLaunch lid fun l => { l with status := .rejected, hwq := none, target := none }
      let s := s.resumeSuspended
      let behind := s.launches.filter fun e => e.2.hwq == l.hwq && l.hwq.isSome && decide (l.order < e.2.order) && State.alive e.2 &&
        edge l.card.used e.2.card.used
      behind.foldl (fun s e => rejectQueued fuel s e.1 0x1F) s

/-- A card is rejected at submission: its record, and what it means for the intake behind it (R43). -/
def rejectIntake (s : State) (p c addr code : Nat) (k : Option Card) : State :=
  let strip := (k.map Card.isStrip).getD false
  let q := if strip then 0xFFFF else (k.map (·.queue)).getD 0
  let s := s.taskRecord p c 0x40 code q addr ((k.map (·.head)).getD 0xFFFF) ((k.map (·.strip)).getD 0) 0
  match k with
  | none => s
  | some k =>
    let x := s.partOf p
    if footprintsOk s p c k then
      s.setPart p { x with rejected := x.rejected ++ [{ queue := k.queue, footprints := k.used, below := s.seq }] }
    else s

/-- INTAKE_CARD_READ (R332, R43): the card at the head of the intake is read, checked, and appended to its queue or rejected. -/
def tryIntakeCardRead (part : Nat) (s : State) : Option State :=
  let no : Option State := none
  let x := s.partOf part
  match x.intake with
  | [] => no
  | e :: rest =>
    if !(e.covers.all fun i => (s.reqs.all fun q => q.id != i) && s.rels.all fun q => q.id != i) || x.teardown.isSome then no else
    engineAt s (cardParts s part e.addr e.onDie) fun s => match readCard s part e.ctx e.addr e.onDie with
    | (none, _) => no
    | (some m, s) =>
      let x := s.partOf part
      let rej := x.rejected.filter fun r => decide (e.seq < r.below)
      let s := s.setPart part { x with intake := rest, rejected := if rest = [] then [] else rej }
      match m with
      | none => some (rejectIntake s part e.ctx e.addr 0x1F none)
      | some bitsOf =>
        let k := parseCard bitsOf
        match (if k.pgt = 0 then (some (some (0, [])), s) else s.readPgt part e.ctx k.pgt) with
        | (none, _) => no
        | (some pgt, s) =>
        let overlap := rej.any fun r => r.queue == k.queue && edge r.footprints k.used
        let codes := ((s.cardFails part e.ctx k false).filter (·.2)).map (·.1) ++
          (if pgt.isNone then [0x1B] else []) ++ (if overlap then [0x1F] else [])
        match codes with
        | code :: _ => some (rejectIntake s part e.ctx e.addr code (some k))
        | [] =>
          match s.findQueue part k.queue with
          | none => some (rejectIntake s part e.ctx e.addr 0x17 (some k))
          | some q =>
            let count := s.barBits (qcfgOff q) 127 96
            let id := mfresh s.launches
            let own := s.barBits tbcfgOff 31 16
            let l := Launch.fresh k e.addr e.onDie part e.ctx s.seq id (some q)
            let l := match pgt with
              | some (tag, es) => if k.pgt = 0 then l else
                { l with tag := tag, pgt := es, rank := es.findIdx (·.pkg == own), ranks := es.length }
              | none => l
            event (decide (count < s.barBits (qcfgOff q) 76 64))
              (({ s.fresh with launches := mset id l s.launches }.setBar (qcfgOff q) 127 96 (count + 1)).touchQueue q 12 4)
/-- INTAKE_CARD_READ: it happens where its rule lets it; elsewhere nothing happens. -/
def execIntakeCardRead (part : Nat) (s : State) : Host.Outcome State Fault Refusal := happens s (tryIntakeCardRead part s)

/-! ### Groups (R161, R338) -/

/-- C of R338. -/
def dealClusters (s : State) (l : Launch) : Nat :=
  if l.card.regime = 1 then (s.rectSize l.part l.card).1 * (s.rectSize l.part l.card).2 else (s.cardClusters l.part l.card).length
/-- The next chunk of a card: base and count (R338); for a card with groups, all records (R40). -/
def nextChunk (s : State) (l : Launch) : Nat × Nat :=
  if l.card.groups ≠ 0 then (0, l.card.argCount) else
  let r := l.card.argCount - l.dealt
  (l.dealt, min r (max l.card.chunkMin (r / (2 * dealClusters s l))))
/-- The card has a group that is not made (R40, R338). -/
def canDeal (s : State) (l : Launch) : Bool :=
  !s.rasterCard l.part l.card && (if l.card.groups ≠ 0 then decide (l.made < l.card.groups) else decide (l.dealt < l.card.argCount))

/-- The waves of a new group: every register and flag 0, all threads live (R161, R71). -/
def newWaves (k : Card) : List Wave :=
  List.replicate k.wavesPerGroup { Wave.init with pc := BitVec.ofNat 52 k.laneEntry, active := 0xFFFFFFFF#32, live := 0xFFFFFFFF#32 }
/-- The waves of a shading group (R377). -/
def shadeWaves (k : Card) (sh : Shade) : List Wave :=
  (List.range k.wavesPerGroup).map fun w =>
    let mine := (sh.cells.filter fun e => e.1 / 32 == w)
    let live := maskOf (mine.map fun e => e.1 % 32)
    { Wave.init with pc := BitVec.ofNat 52 k.laneEntry, active := live, live := live, ended := live == 0
                     helper := maskOf ((mine.filter (·.2.helper)).map fun e => e.1 % 32) }

/-- A group of a launch: index, cluster, chunk. -/
def newGroup (lid : Nat) (l : Launch) (cl index base count : Nat) : Group :=
  { launch := lid, kind := .lane, index := index, cluster := cl, s0 := 0, waves := newWaves l.card, gmemBase := 0, spillBase := 0
    chunkBase := base, chunkCount := count, barCount := [], barPhase := [], barDue := [], barAfter := [], status := .waiting, trapped := false
    parted := [], slot := none, priv := 0, placedAt := 0, chargedFrom := 0, stopFrom := none, gbarArrived := false, shade := none }
/-- The control stream of a launch on a cluster (R17, R268). -/
def streamGroup (lid : Nat) (l : Launch) (cl : Nat) (st : GroupStatus) : Group :=
  { newGroup lid l cl 0 0 l.card.argCount with
    kind := .stream, status := st
    waves := [{ Wave.init with pc := BitVec.ofNat 52 l.card.controlEntry, active := 1, live := 1 }] }

/-- The state that the first fret of an ordered launch, or the fret after a commit, starts from (R230, R232); `slot`: a slot was there to be
claimed. -/
def takeSnap (s : State) (l : Launch) (slot : Bool) : Snap :=
  { mem := s.mem, bad := s.eccBad, counters := s.clusters.map fun e => (e.1, e.2.h), slot := slot, gbar := l.gbarPhase }
/-- Fret 0 of an ordered launch begins when its first group starts (R227). -/
def beginFrets (s : State) (lid : Nat) : State :=
  match mget lid s.launches with
  | some l => if l.card.regime = 1 ∧ l.snap.isNone then s.updLaunch lid fun l => { l with snap := some (takeSnap s l true) } else s
  | none => s
/-- A group becomes resident in a room, with its group memory and spill stacks zeroed (R161, R162). -/
def becomeResident (s : State) (g : Nat) (r : Room) : State :=
  match mget g s.groups with
  | none => s
  | some x =>
    let s := (s.zeroRange (Base.local_ x.cluster + r.g0) r.glen).zeroRange (Base.local_ x.cluster + r.s0) r.slen
    -- the dispatcher writes the zeros of the registers too (R161)
    let regs := ((mget x.launch s.launches).map fun (l : Launch) => l.card.regs).getD 0
    let s := (List.range x.waves.length).foldl (fun (s : State) i => s.regFileAll x.cluster ((r.first + i) % 32) g regs true none) s
    let s := beginFrets s x.launch
    s.updGroup g fun x => { x with status := .resident, gmemBase := r.g0, spillBase := r.s0, s0 := r.first, placedAt := s.cyc, chargedFrom := s.cyc }

/-- The root's first group starts the token of its tree (R345). -/
def startToken (s : State) (lid : Nat) (l : Launch) : State :=
  if l.made = 0 ∧ l.tree.isSome then
    s.updLaunch lid fun l => { l with tree := l.tree.map fun t => { t with token := some 0, tokenAt := s.cyc } }
  else s
/-- The next group of a launch is made on a cluster, resident in a room or waiting (R335, R338). -/
def makeGroup (s : State) (lid cl : Nat) (r : Option Room) : State :=
  match mget lid s.launches with
  | none => s
  | some l =>
    let (base, n) := nextChunk s l
    let g := mfresh s.groups
    let s := { s with groups := mset g (newGroup lid l cl (l.indexBase + l.made) base n) s.groups }
    let s := s.updLaunch lid fun l =>
      { l with made := l.made + 1, dealt := if l.card.groups = 0 then base + n else l.dealt, lastCluster := some cl, target := none }
    let s := startToken s lid l
    -- a child's first group is one message received (R345)
    let s := match l.target with
      | some p => childGone s l.root p
      | none => s
    match r with
    | some r => becomeResident s g r
    | none => s

/-! ### Dispatch (R16, R17, R25, R42, R225, R337, R414) -/

/-- The cards of the same queue ahead of a card that have not ended, nearest first (R225). -/
def ahead (s : State) (l : Launch) : List Launch :=
  if l.hwq.isNone then [] else
  ((s.launches.map (·.2)).filter fun a => a.hwq == l.hwq && decide (a.order < l.order) && State.alive a).mergeSort
    fun a b => decide (b.order ≤ a.order)
/-- Dependences of R225 are resolved. -/
def depsMet (s : State) (l : Launch) : Bool :=
  let as := ahead s l
  decide (as.length ≤ 64) && !(as.any fun a => edge a.card.used l.card.used)
/-- A time field with nanoseconds above 999,999,999 (0x1C). -/
def badTime (t : Nat) : Bool := decide (10 ^ 9 ≤ t % 2 ^ 32)
/-- Start cycle of a locked card (R42). -/
def startCyc (s : State) (l : Launch) : Nat := ceilTo 64 (s.cycOfPtp l.card.startTime)
/-- A pre-empted group waits for its restore on a cluster, before which no new group of a non-strip card is placed there (R335). The saved
groups of the card's own ordered launch that have ended their fret wait for its commit, and let its others have their turns (R233). -/
def awaitsRestore (s : State) (lid : Nat) (l : Launch) (cl : Nat) : Bool :=
  s.groups.any fun e => e.2.cluster == cl && e.2.status == .saved && !e.2.trapped &&
    !(l.card.regime == 1 && e.2.launch == lid && e.2.waves.all fun w => w.ended || w.fretEnded)
/-- The rectangle is free for a locked card (R335, R337). -/
def rectFree (s : State) (lid : Nat) (l : Launch) : Bool :=
  (s.cardClusters l.part l.card).all fun cl =>
    (s.reservedBy cl).isEmpty && !awaitsRestore s lid l cl && s.groups.all fun e => e.2.cluster != cl || e.2.launch == lid || !State.occupies e.2
/-- The table store of a cluster is free for a card (R414): no card holds it, and no template reserves the cluster for strip cards. -/
def storeFree (s : State) (l : Launch) (cl : Nat) : Bool :=
  (s.cluster cl).store.holder.isNone && (l.card.isStrip || (s.reservedBy cl).isEmpty)
/-- Every enabled cluster's claim is free for the card (R16), and for one that is placed as a whole every table store (R414). -/
def unitsFree (s : State) (l : Launch) : Bool :=
  (s.cardClusters l.part l.card).all fun cl =>
    (!l.card.claims || (s.cluster cl).claim.isNone) &&
    (l.card.slotMask == 0 || (l.card.regime != 2 && l.card.coop != 1) || storeFree s l cl)
/-- Cluster of group i of a cooperative or locked card placed by turns over the clusters (R335, R337). -/
def turnCluster (cls : List Nat) (i : Nat) : Nat := cls.getD (i % cls.length) 0

/-- The ordered regime's view of a table store that has just been loaded for the launch: the state its frets start from holds it (R416, R424). -/
def Snap.withStore (x : Snap) (s : State) (cl : Nat) : Snap :=
  let a := Base.table cl
  let mine (k : Nat) : Bool := decide (a ≤ k) && decide (k < a + 2 ^ 17)
  { x with mem := (s.mem.filter fun c => mine c.1).foldl (fun m c => m.setByte c.1 c.2) (x.mem.clear a (2 ^ 17))
           bad := (x.bad.filter fun e => !mine (8 * e.1)) ++ s.eccBad.filter fun e => mine (8 * e.1) }
/-- The table store of a cluster is ready for its holder (R416): it shows in the state that an ordered launch's frets start from, and the
control stream that waits for it there may start. -/
def storeLoaded (s : State) (lid cl : Nat) : State :=
  let s := s.updLaunch lid fun l => { l with snap := l.snap.map fun x => x.withStore s cl }
  { s with groups := s.groups.map fun e =>
      if e.2.launch = lid ∧ e.2.cluster = cl ∧ e.2.kind = .stream ∧ e.2.status = .waiting ∧
          ((mget lid s.launches).map fun (l : Launch) => l.card.regime) ≠ some 2 then
        (e.1, { e.2 with status := .resident }) else e }
/-- A card takes the table store of a cluster (R414, R416). -/
def takeStore (s : State) (lid : Nat) (l : Launch) (cl : Nat) : State :=
  let p := ((List.range 4).filter (bit l.card.slotMask)).length
  let image := bits l.card.qrt 51 0
  let dims := if image = 0 then (List.range 4).map fun i => if bit l.card.slotMask i then 256 / p else 0 else [0, 0, 0, 0]
  let s := s.setCluster cl { s.cluster cl with store := { TableStore.init with holder := some lid, dims := dims, loaded := image == 0 } }
  if image = 0 then storeLoaded s lid cl else s
/-- The card that takes the table store of a cluster next: the oldest running one that has none there (R414). -/
def storeWanted (s : State) (cl : Nat) : Option (Nat × Launch) :=
  s.launches.foldl (fun b e =>
    if e.2.status == .running && e.2.card.slotMask != 0 && e.2.card.regime != 2 && storeFree s e.2 cl && (s.cardClusters e.2.part e.2.card).contains cl then
      match b with
      | some (x : Nat × Launch) => if e.2.order < x.2.order then some e else b
      | none => some e
    else b) none

/-- The claims of a card are taken on its clusters, with their arrays zeroed, and the table stores that are free there (R16, R287, R414, R416). -/
def takeUnits (s : State) (lid : Nat) (l : Launch) : State :=
  (s.cardClusters l.part l.card).foldl (fun (s : State) cl =>
    let s := if l.card.claims then
        let s := (s.zeroRange (Base.operand cl) (2 ^ 20)).zeroRange (Base.accum cl) (2 ^ 19)
        s.setCluster cl { s.cluster cl with claim := some lid, h := [], ranges := [], cmds := [], issued := 0, matEnd := 0, matFlags := [] }
      else s
    -- a locked card has its clusters to itself: no stamped copy occupies the engine yet
    let s := if l.card.regime = 2 then s.setCluster cl { s.cluster cl with copyEnd := 0 } else s
    if l.card.slotMask ≠ 0 ∧ storeFree s l cl then takeStore s lid l cl else s) s

/-- Can all groups of a card be resident at once on its clusters, were they empty (R25, R337)? -/
def allFit (s : State) (l : Launch) (n : Nat) : Bool :=
  let cls := s.cardClusters l.part l.card
  if l.card.regime = 2 then cls != [] && decide (ceilDiv n cls.length ≤ capacity l.card n)
  else decide (n ≤ cls.length * capacity l.card n)

/-- Number of groups a card will have: its groups, or its chunks (R338). -/
def chunkTotal (s : State) : Nat → Launch → Nat
  | 0, _ => 0
  | n + 1, l => if canDeal s l then
      let (b, k) := nextChunk s l
      1 + chunkTotal s n { l with dealt := b + k, made := l.made + 1 }
    else 0
def groupTotal (s : State) (l : Launch) : Nat := if l.card.groups ≠ 0 then l.card.groups else chunkTotal s l.card.argCount l

/-- A group may be placed on a cluster now, as far as reservations, service and restores are concerned (R335, R349, R351, R414). The groups of an
open tile of a raster card are placed also while a strip card is in service there: the card stops between tiles (R388). -/
def clusterTakes (s : State) (lid : Nat) (l : Launch) (cl : Nat) : Bool :=
  l.card.isStrip ||
    ((!s.inService cl || l.raster.isSome) && ((s.reservedBy cl).isEmpty || (l.card.regime == 0 && l.card.slotMask == 0)) && !awaitsRestore s lid l cl)
/-- The table store of a cluster is loaded for the card (R416). -/
def storeReady (s : State) (lid : Nat) (l : Launch) (cl : Nat) : Bool :=
  l.card.slotMask == 0 || ((s.cluster cl).store.holder == some lid && (s.cluster cl).store.loaded)
/-- A room for a group of a launch on a cluster. -/
def roomOn (s : State) (lid : Nat) (l : Launch) (cl : Nat) : Option Room :=
  if clusterTakes s lid l cl && storeReady s lid l cl then s.roomFor cl l.card else none

/-- Clusters of a card in the order of R335: after the one that took its previous group; a child's first at its target (R344). -/
def tryOrder (s : State) (l : Launch) : List Nat :=
  let cls := if l.hwq.isSome then s.cardClusters l.part l.card else
    match mget l.root s.launches with | some r => s.cardClusters r.part r.card | none => []
  let k := match l.target, l.lastCluster with
    | some p, _ => p
    | none, some cl => (cls.findIdx (· == cl) + 1) % max 1 cls.length
    | none, none => 0
  cls.drop k ++ cls.take k

/-- Groups that wait at a cluster. -/
def waitingAt (s : State) (cl : Nat) : List (Nat × Group) :=
  s.groups.filter fun e => e.2.cluster == cl && e.2.kind == .lane && e.2.status == .waiting
/-- Shading groups of a card that its owner clusters take at once: sgroups of a strip card (R378). -/
def shadeCap (s : State) (l : Launch) : Nat := if l.card.isStrip then s.barBits (stplOff l.card.head) 231 224 else 256
/-- Groups of a launch that stand on a cluster. -/
def standing (s : State) (lid cl : Nat) : Nat :=
  (s.groups.filter fun e => e.2.launch == lid && e.2.cluster == cl && State.occupies e.2).length
/-- The next shading group of a raster card goes to a cluster, its tile's owner, and finds no room there. -/
def shadeLacksRoom (s : State) (lid : Nat) (l : Launch) (cl : Nat) : Bool :=
  l.status == .running && (match l.raster with
    | some job => job.tiles.any fun t => t.2.cluster == cl && t.2.pending != []
    | none => false) && decide (standing s lid cl < shadeCap s l) && (s.roomFor cl l.card).isNone
/-- A group that is assigned to a cluster and finds no room there, one that waits or a tile's next shading group, blocks it against the
priorities up to its own, until it is placed (R336). -/
def blockedFor (s : State) (lid : Nat) (l : Launch) (cl : Nat) : Bool :=
  !l.card.isStrip && (((waitingAt s cl).any fun e => e.2.launch != lid &&
    match mget e.2.launch s.launches with
    | some b => decide (l.card.priority ≤ b.card.priority)
    | none => false) ||
  s.launches.any fun e => e.1 != lid && decide (l.card.priority ≤ e.2.card.priority) && shadeLacksRoom s e.1 e.2 cl)

/-- Placing every group of a card that starts as one, in index order; none when one does not fit (R25, R337). -/
def placeAll (s : State) (lid : Nat) : Nat → Option State
  | 0 => some s
  | n + 1 =>
    match mget lid s.launches with
    | none => none
    | some l =>
      if !canDeal s l then some s else
      let choice := if l.card.regime = 2 then
          let cl := turnCluster (s.cardClusters l.part l.card) l.made
          (if blockedFor s lid l cl then none else s.roomFor cl l.card).map fun r => (cl, r)
        else (tryOrder s l).findSome? fun cl =>
          (if clusterTakes s lid l cl && !blockedFor s lid l cl then s.roomFor cl l.card else none).map fun r => (cl, r)
      match choice with
      | none => none
      | some (cl, r) => placeAll (makeGroup s lid cl (some r)) lid n

/-- The control streams of a claiming card (R17). -/
def startStreams (s : State) (lid : Nat) (l : Launch) : State :=
  if l.card.controlEntry = 0 then s else
  let cls := s.cardClusters l.part l.card
  let s := cls.foldl (fun (s : State) cl =>
    { s with groups := mset (mfresh s.groups) (streamGroup lid l cl (if storeReady s lid l cl then .resident else .waiting)) s.groups }) s
  s.updLaunch lid fun l => { l with streams := cls.length }

/-- The 16 KiB from control_entry, as far as they can be fetched, with the mask of their poison; a granule under scrub is waited for (R445). The
spec does not say what a word without a translation holds (log entry 119). -/
def streamBytes (s : State) (l : Launch) : Option (List Byte × Nat × State) :=
  let va := l.card.controlEntry
  (List.range 4096).foldl (fun (st : Option (List Byte × Nat × State)) i => st.bind fun (bs, m, s) =>
    match s.xlate l.part l.ctx ((va + 4 * i) % 2 ^ 52) .fetch with
    | (.pa a, s) => some (bs ++ s.mainRead l.part a 4, m + s.mainPoison a 4 * 2 ^ (4 * i), s)
    | (.wait, _) => none
    | (_, s) => some (bs ++ [0, 0, 0, 0], m, s)) (some ([], 0, s))
/-- They are loaded into the stream caches of a locked card (R270). -/
def loadStreams (s : State) (l : Launch) : Option State :=
  if l.card.controlEntry = 0 ∨ l.card.regime ≠ 2 then some s else
  (streamBytes s l).map fun (bs, m, s) =>
    (s.cardClusters l.part l.card).foldl (fun (s : State) cl => writeParts s [(Base.stream cl, 16384)] bs m none) s

/-- Places of an ordered launch (R233). -/
def orderedPlaces (s : State) (l : Launch) : Nat :=
  capacity l.card 256 * ((s.rectSize l.part l.card).1 * (s.rectSize l.part l.card).2)

/-- Checks at dispatch (R43): codes 0x1C, 0x1D and 0x21. -/
def dispatchCode (s : State) (l : Launch) : Option Nat :=
  let locked := l.card.regime == 2
  let late := locked && (l.card.startTime == 0 || decide (startCyc s l < s.cyc + 4096))
  if badTime l.card.startTime || badTime l.card.deadline || late then some 0x1C
  else if locked && (s.cardTiles l.part l.card).any (fun c => !s.tileOk c) then some 0x1D
  else if (locked || l.card.coop == 1) && !allFit s l (groupTotal s l) then some 0x21
  else none

/-- A queued card starts (R25, R42): it takes its units and its control streams; its groups are placed afterwards. The clusters of a locked
card run at full speed from here on (R13, R471). -/
def dispatchStart (s : State) (launch : Nat) (l : Launch) : State :=
  let locked := l.card.regime == 2
  let t := takeUnits s launch l
  let ring := t.cardClusters l.part l.card
  let t := if locked then { t with clocks := t.clocks.filter fun e => !ring.contains e.1 } else t
  let t := t.updLaunch launch fun l => { l with
    status := if locked then .dispatched else .running
    start := if locked then some (startCyc s l) else none
    activated := min (orderedPlaces s l) (groupTotal s l)
    tree := if l.card.spawn ∧ l.root = launch then some (Tree.init ring) else none }
  let t := startStreams t launch l
  (loadStreams t l).getD t

/-- A queued card may start now, as far as its dependences, its time, its rectangle and its units are concerned (R16, R25, R42, R225, R337);
one with a bad time field is rejected as soon as its dependences are met. -/
def dispatchReady (s : State) (lid : Nat) (l : Launch) : Bool :=
  let locked := l.card.regime == 2
  let due := locked || l.card.startTime == 0 || decide (s.cycOfPtp l.card.startTime ≤ s.cyc)
  l.status == .queued && depsMet s l && (badTime l.card.startTime || badTime l.card.deadline ||
    (unitsFree s l && due && (!locked || rectFree s lid l)))
/-- A cooperative card whose groups can all be placed at once (R25). -/
def coopReady (s : State) (lid : Nat) (l : Launch) : Bool :=
  l.card.coop == 1 && l.card.regime != 2 && dispatchReady s lid l && (dispatchCode s l).isNone &&
    (placeAll (dispatchStart s lid l) lid (groupTotal s l)).isSome

/-- The table store of a cluster is not loaded at SCY 0 of a locked launch (R416): TIMING for the launch, in a record that names the cluster's
control core, or the first wave place of its slice 0. -/
def lateStore (launch : Nat) (l : Launch) (t : State) (cl : Nat) : State :=
  let party := (t.groups.find? fun e => e.2.launch == launch && e.2.cluster == cl && e.2.kind == .stream).orElse fun _ =>
    t.groups.find? fun e => e.2.launch == launch && e.2.cluster == cl
  match party.bind fun e => t.ctxOf e.1 0 with
  | some c => t.takeTrap c (trapTiming 0x0B)
  -- no group stands on that cluster: its first wave place alone is named
  | none => haltFrom ((t.launchTrap l cl 0 8 l.card.laneEntry l.card.laneEntry 0 0x0B 0xFFFFFFFF).updLaunch launch fun l =>
      { l with recorded := true }) launch t.cyc 8
/-- LAUNCH_START_CYCLE (R17, R42, R416): SCY 0 of a locked launch; a table store that is not loaded raises TIMING. -/
def tryLaunchStartCycle (launch : Nat) (s : State) : Option State :=
  match mget launch s.launches with
  | none => none
  | some l =>
    let t := s.updLaunch launch fun l => { l with status := .running }
    let t := { t with groups := t.groups.map fun e =>
      if e.2.launch = launch ∧ e.2.status = .waiting then (e.1, { e.2 with status := .resident }) else e }
    -- the master learns of a launch of the domain that does not run on it (R257, R258; log entry 103)
    let t := if l.card.regime = 2 ∧ 1 < s.domSize ∧ !isMaster s then
        t.send "domain" ([10, l.tag, ownPos s, l.start.getD 0, l.card.startTime] ++ if l.pgt = [] then [ownPos s] else l.pgt.map (·.pos))
      else t
    let t := ((s.cardClusters l.part l.card).filter fun cl => !storeReady s launch l cl).foldl (lateStore launch l) t
    event (l.status == .dispatched && decide (l.start.getD 0 ≤ s.cyc)) t
/-- LAUNCH_START_CYCLE: it happens where its rule lets it; elsewhere nothing happens. -/
def execLaunchStartCycle (launch : Nat) (s : State) : Host.Outcome State Fault Refusal := happens s (tryLaunchStartCycle launch s)

/-! ### Placement (R333-R336, R344, R350, R378) -/

/-- Where the next group of a launch goes: a cluster, and the room it takes unless it waits there (R335). A shading group goes to its
tile's owner, at most sgroups at once for a strip card (R378). -/
def nextPlace (s : State) (lid : Nat) (l : Launch) : Option (Nat × Option Room) :=
  match l.raster with
  | some job =>
    job.tiles.findSome? fun (t : Nat × TileJob) =>
      if t.2.pending = [] ∨ shadeCap s l ≤ standing s lid t.2.cluster ∨ blockedFor s lid l t.2.cluster then none
      else (roomOn s lid l t.2.cluster).map fun r => (t.2.cluster, some r)
  | none =>
    if !canDeal s l || (l.card.regime == 1 && decide (l.activated ≤ l.made)) then none else
    let cls := (if l.target.isSome then (tryOrder s l).take 1 else tryOrder s l).filter fun cl => !blockedFor s lid l cl
    match cls.findSome? fun cl => (roomOn s lid l cl).map fun r => (cl, r) with
    | some (cl, r) => some (cl, some r)
    | none => if l.card.regime = 0 then
        (cls.find? fun cl => storeReady s lid l cl && decide ((waitingAt s cl).length < 4)).map fun cl => (cl, none)
      else none

/-- A card has a group to place (12, "Choosing the next group"): a running one, or a cooperative one that starts with all its groups. -/
def placeable (s : State) (lid : Nat) (l : Launch) : Bool := (l.status == .running && (nextPlace s lid l).isSome) || coopReady s lid l

/-- The candidate of a queue: its oldest eligible card. -/
def candidate (s : State) (q : Nat) : Option (Nat × Launch) :=
  (s.launches.filter fun e => e.2.hwq == some q && !e.2.card.isStrip && placeable s e.1 e.2).foldl
    (fun b e => match b with | some x => if e.2.order < x.2.order then some e else b | none => some e) none

/-- The deficit of a queue, as a signed number. -/
def deficit (s : State) (q : Nat) : Int := sext (s.barBits (qcfgOff q) 191 128) 64
def setDeficit (s : State) (q : Nat) (d : Int) : State :=
  let lim : Int := ((2 ^ 63 : Nat) : Int)
  (s.setBar (qcfgOff q) 191 128 (wrapInt 64 (max (-lim) (min (lim - 1) d)))).touchQueue q 16 8
def quantum (s : State) (q : Nat) : Nat := max 1 (s.barBits (qcfgOff q) 63 32)

/-- The queue choice of R333: the card served next, and the state with the deficits it changed. -/
def chooseQueue (s : State) : Option (Nat × State) :=
  let cands := (List.range 1024).filterMap fun q => if s.barFlag (qcfgOff q) 6 then (candidate s q).map fun c => (q, c) else none
  match (cands.map fun e => e.2.2.card.priority).max? with
  | none => none
  | some pr =>
    let top := cands.filter fun e => e.2.2.card.priority == pr
    -- rounds in which every queue adds its quantum before one is above 0
    let rounds := if top.any fun e => decide (0 < deficit s e.1) then 0
      else ((top.map fun e => ((-(deficit s e.1)) / (quantum s e.1 : Int)).toNat + 1).min?).getD 0
    let s := top.foldl (fun (s : State) e => setDeficit s e.1 (deficit s e.1 + (rounds * quantum s e.1 : Nat))) s
    let last := mget pr s.lastQueue
    let open_ := top.filter fun e => decide (0 < deficit s e.1)
    let after := open_.filter fun e => match last with | some k => decide (k < e.1) | none => true
    ((after ++ open_).head?).map fun e => (e.2.1, { s with lastQueue := mset pr e.1 s.lastQueue })

/-- A strip card goes before another: earlier deadline, then lower head (R350). -/
def stripBefore (a b : Launch) : Bool :=
  decide (ptpNs a.card.deadline < ptpNs b.card.deadline) ||
    (decide (ptpNs a.card.deadline = ptpNs b.card.deadline) && decide (a.card.head < b.card.head))
/-- The strip card served first on contended clusters (R350). -/
def stripFirst (s : State) : Option Nat :=
  ((s.launches.filter fun e => e.2.card.isStrip && placeable s e.1 e.2).foldl
    (fun b e => match b with
      | some (x : Nat × Launch) => if stripBefore e.2 x.2 then some e else b
      | none => some e) none).map (·.1)

/-- CARD_DISPATCH (R25, R42, R225, R333, R337): a queued card whose dependences are met starts, or is rejected. A locked card is placed as a
whole; so is a cooperative one, once the scheduler serves it. -/
def tryCardDispatch (launch : Nat) (s : State) : Option State :=
  let no : Option State := none
  match mget launch s.launches with
  | none => no
  | some l =>
    if !dispatchReady s launch l then no else
    match dispatchCode s l with
    | some code => some (rejectQueued (s.launches.length + 1) s launch code)
    | none =>
      let whole (u : State) : Option State :=
        match placeAll (dispatchStart u launch l) launch (groupTotal s l) with
        | some t => some t
        | none => no
      if l.card.regime = 2 then (if (loadStreams s l).isNone then no else whole s)
      else if l.card.coop ≠ 1 then some (dispatchStart s launch l)
      else match stripFirst s, chooseQueue s with
        | none, some (f, u) => if f = launch then whole u else no
        | _, _ => no
/-- CARD_DISPATCH: it happens where its rule lets it; elsewhere nothing happens. -/
def execCardDispatch (launch : Nat) (s : State) : Host.Outcome State Fault Refusal := happens s (tryCardDispatch launch s)

/-- A shading group leaves its tile's list and becomes resident (R377, R378). -/
def placeShade (s : State) (lid cl : Nat) (r : Room) : State :=
  match mget lid s.launches with
  | none => s
  | some l =>
    match l.raster with
    | none => s
    | some job =>
      match job.tiles.find? fun t => t.2.cluster == cl && t.2.pending != [] with
      | none => s
      | some (j, t) =>
        match t.pending with
        | [] => s
        | sh :: rest =>
          let g := mfresh s.groups
          let x := { newGroup lid l cl job.made 0 l.card.argCount with shade := some sh, waves := shadeWaves l.card sh }
          let s := { s with groups := mset g x s.groups }
          let s := s.updLaunch lid fun l => { l with
            made := l.made + 1
            raster := some { job with made := job.made + 1, tiles := mset j { t with pending := rest } job.tiles } }
          becomeResident (startToken s lid l) g r

/-- GROUP_PLACEMENT (R333-R336): a waiting group of the launch becomes resident on the cluster; or the launch is the one that the
scheduler serves next, and its next group goes to the cluster. -/
def tryGroupPlacement (launch cluster : Nat) (s : State) : Option State :=
  let no : Option State := none
  match mget launch s.launches with
  | none => no
  | some l =>
    let mine := (waitingAt s cluster).filter fun e => e.2.launch == launch
    match mine.head?, (if blockedFor s launch l cluster then none else roomOn s launch l cluster) with
    | some (g, _), some r => event (l.status == .running) (becomeResident s g r)
    | _, _ =>
      match nextPlace s launch l with
      | none => no
      | some (cl, r) =>
        let go (s : State) : State := match l.raster, r with
          | some _, some r => placeShade s launch cl r
          | _, _ => makeGroup s launch cl r
        if cl ≠ cluster ∨ l.status ≠ .running then no
        -- children pass through no queue (R344)
        else if l.hwq.isNone then some (go s)
        else match stripFirst s with
        | some f => event (f == launch) (go s)
        | none => match chooseQueue s with
          | some (f, t) => event (f == launch) (go t)
          | none => no
/-- GROUP_PLACEMENT: it happens where its rule lets it; elsewhere nothing happens. -/
def execGroupPlacement (launch cluster : Nat) (s : State) : Host.Outcome State Fault Refusal := happens s (tryGroupPlacement launch cluster s)

/-! ### Donation (R339, R340) -/

/-- STEAL_REQUEST (R339): a cluster without waiting groups of a donating card takes half of those of the first cluster of its row that
has two or more; a request that finds none is not repeated for 4,096 cycles. -/
def tryStealRequest (launch cluster : Nat) (s : State) : Option State :=
  let no : Option State := none
  match mget launch s.launches with
  | none => no
  | some l =>
    let row := (tryOrder s l).filter fun c => c / 16 == cluster / 16
    let order := (row.filter fun c => decide (cluster < c)).mergeSort (fun a b => decide (a ≤ b)) ++
      (row.filter fun c => decide (c < cluster)).mergeSort (fun a b => decide (a ≤ b))
    let of (c : Nat) := (waitingAt s c).filter fun e => e.2.launch == launch
    let ok := l.status == .running && l.card.donate && row.contains cluster && (of cluster).isEmpty &&
      (roomOn s launch l cluster).isSome && !blockedFor s launch l cluster && (mget launch (s.cluster cluster).stealAfter).isNone
    event ok <|
      match order.find? fun c => decide (2 ≤ (of c).length) with
      | none => s.setCluster cluster { s.cluster cluster with stealAfter := mset launch (s.cyc + 4096) (s.cluster cluster).stealAfter }
      | some v =>
        let ids := (((of v).map (·.1)).reverse).take ((of v).length / 2)
        ids.foldl (fun s g => s.updGroup g fun x => { x with cluster := cluster }) s
/-- STEAL_REQUEST: it happens where its rule lets it; elsewhere nothing happens. -/
def execStealRequest (launch cluster : Nat) (s : State) : Host.Outcome State Fault Refusal := happens s (tryStealRequest launch cluster s)
/-- STEAL_RETRY_TIMER (R339): the 4,096 cycles are over. -/
def tryStealRetryTimer (launch cluster : Nat) (s : State) : Option State :=
  let x := s.cluster cluster
  match mget launch x.stealAfter with
  | none => none
  | some t => event (decide (t ≤ s.cyc)) (s.setCluster cluster { x with stealAfter := mdel launch x.stealAfter })
/-- STEAL_RETRY_TIMER: it happens where its rule lets it; elsewhere nothing happens. -/
def execStealRetryTimer (launch cluster : Nat) (s : State) : Host.Outcome State Fault Refusal := happens s (tryStealRetryTimer launch cluster s)

/-! ### Card trees (R343-R345) -/

/-- Groups of the cards of a tree: the index of the first group of an ordered child card that is read now (R343; log entry 90). -/
def treeGroups (s : State) (root : Nat) : Nat :=
  ((s.launches.filter fun e => e.2.root == root && e.2.status != .rejected).map fun e =>
    groupTotal s { e.2 with dealt := 0, made := 0 }).foldl (· + ·) 0
/-- A child card as it runs: what R344 takes from the root, what it ignores, and no queue. -/
def childCard (root own : Card) : Card :=
  { own with regime := root.regime, fretLog2 := root.fretLog2, priority := root.priority, rectX := root.rectX, rectY := root.rectY
             rectW := root.rectW, rectH := root.rectH, queue := 2 ^ 16
             footprints := List.replicate 8 { base := 0, len := 0, flags := 0 }, pgt := 0 }

/-- CHILD_CARD_READ (R343, R344): a spawned card is read and checked, and is rejected or may be placed: at once, or when the units that it
claims are free and its start_time has come (R16, R414; log entry 91). The children of an ordered tree are read in commit order. -/
def tryChildCardRead (child : Nat) (s : State) : Option State :=
  let no : Option State := none
  match mget child s.children with
  | none => no
  | some ch =>
    match mget ch.root s.launches with
    | none => no
    | some root =>
      let turn := root.card.regime != 1 || s.children.all fun e => e.2.root != ch.root || decide (child ≤ e.1)
      if !(turn && ch.covers.all fun i => (s.reqs.all fun q => q.id != i) && s.rels.all fun q => q.id != i) then no else
      engineAt s (cardParts s root.part ch.addr ch.onDie) fun s => match readCard s root.part root.ctx ch.addr ch.onDie with
      | (none, _) => no
      | (some m, s) =>
        let s := { s with children := mdel child s.children }
        let reject (code head strip : Nat) : State :=
          childGone (s.taskRecord root.part root.ctx 0x40 code 0xFFFF ch.addr head strip 0) ch.root ch.target
        match m with
        | none => some (reject 0x1F 0xFFFF 0)
        | some x =>
          let own := parseCard x
          let k := childCard root.card own
          match ((s.cardFails root.part root.ctx { k with coop := own.coop } true).filter (·.2)).head? with
          | some (code, _) => some (reject code own.head own.strip)
          | none =>
            let id := mfresh s.launches
            let l := { Launch.fresh { k with coop := 0 } ch.addr ch.onDie root.part root.ctx s.seq ch.root none with
              target := some ch.target, fret := root.fret, indexBase := if k.regime = 1 then treeGroups s ch.root else 0 }
            let t := { s.fresh with launches := mset id l s.launches }
            some (if dispatchReady t id l && (dispatchCode t l).isNone then dispatchStart t id l else t)
/-- CHILD_CARD_READ: it happens where its rule lets it; elsewhere nothing happens. -/
def execChildCardRead (child : Nat) (s : State) : Host.Outcome State Fault Refusal := happens s (tryChildCardRead child s)

/-- A TKSPAWN of the group waits for the commit of its fret (R343). -/
def spawnPending (x : Group) : Bool := x.waves.any fun w => w.buffer.any fun b => match b with | .spawn _ _ _ _ => true | _ => false
/-- A cluster is passive: no group of the tree stands there, and no TKSPAWN of the tree is pending there (R345). -/
def treePassive (s : State) (root cl : Nat) : Bool :=
  s.groups.all fun e => e.2.cluster != cl || (e.2.status == .ended && !spawnPending e.2) ||
    ((mget e.2.launch s.launches).map fun (l : Launch) => l.root) != some root
/-- TERMINATION_TOKEN_PASS (R345): the token leaves a passive cluster. -/
def tryTerminationTokenPass (launch : Nat) (s : State) : Option State :=
  let no : Option State := none
  match (mget launch s.launches).bind (·.tree) with
  | none => no
  | some t =>
    match t.token with
    | none => no
    | some i =>
      let sum := t.tokenSum + dget 0 i t.balance
      let black := t.tokenBlack || dget false i t.black
      let t1 := { t with black := mdel i t.black, tokenAt := s.cyc + 2 }
      let t2 := if i + 1 < t.ring.length then { t1 with token := some (i + 1), tokenSum := sum, tokenBlack := black }
        else
          -- back at position 0: the round is clean if the token is white and its sum is 0
          let clean := if !black && sum == 0 then t.clean + 1 else 0
          { t1 with token := if 2 ≤ clean then none else some 0, tokenSum := 0, tokenBlack := false, clean := clean }
      event (decide (t.tokenAt ≤ s.cyc) && treePassive s launch (t.ring.getD i 0) && decide (t.clean < 2))
        (s.updLaunch launch fun l => { l with tree := some t2 })
/-- TERMINATION_TOKEN_PASS: it happens where its rule lets it; elsewhere nothing happens. -/
def execTerminationTokenPass (launch : Nat) (s : State) : Host.Outcome State Fault Refusal := happens s (tryTerminationTokenPass launch s)

/-! ### Completion (R41, R433, R434, R456) -/

/-- An engine still has work of a wave that has ended: a texture instruction that is not served (R41, R107). -/
def servedAll (w : Wave) : Bool := w.deferred.all fun d => d.value.isSome || d.failed.isSome || d.ecc.isSome ||
  match d.job with | .texture _ _ => false | _ => true
/-- Everything of a card is done (R41, R345); a locked launch that is to halt does not complete (R283). -/
def cardDone (s : State) (lid : Nat) (l : Launch) : Bool :=
  let mine := s.groups.filter fun e => e.2.launch == lid
  l.status == .running && !canDeal s l && (l.card.regime != 1 || decide (groupTotal s { l with dealt := 0, made := 0 } ≤ l.made) || s.rasterCard l.part l.card) &&
  l.streams == 0 && l.haltAt.isNone && mine.all (fun e => e.2.status == .ended && e.2.waves.all fun w => w.buffer == [] && servedAll w) &&
  s.copies.all (fun e => e.2.launch != lid) && s.sends.all (fun e => e.2.launch != lid) &&
  s.reqs.all (fun r => !(mine.any fun e => e.1 == r.group)) && s.rels.all (fun r => !(mine.any fun e => e.1 == r.group)) &&
  s.clusters.all (fun e => e.2.claim != some lid || e.2.cmds == []) &&
  (match l.tree with
    | none => true
    -- without a group there is nothing that the token could be started for (log entry 122)
    | some t => (decide (2 ≤ t.clean) || l.made == 0) && unreadChildren s lid == 0 && s.launches.all fun e => e.1 == lid || e.2.root != lid || !State.alive e.2) &&
  (match l.raster with
    | none => !s.rasterCard l.part l.card
    | some job => job.closed || (job.tiles != [] && decide (headerTiles job.header ≤ (job.tiles.filter fun t => t.2.done).length)))

/-- The completion peg is released (R41). -/
def releaseDone (s : State) (l : Launch) : State :=
  if l.card.donePeg = 0 then s else
  let a := s.windowAddr l.part l.card.donePeg
  ((s.occupy (banksOf false a 8) 3).rmw a 8 false (some (l.part, l.ctx)) fun old => if old < l.card.doneSeq then some l.card.doneSeq else none).2.2

/-- A card completes: its slot is published and the previous one released, its units are given back, the peg is released, and a record is
posted where the card asks for one. -/
def finishCard (s : State) (lid : Nat) (l : Launch) : State :=
  let s := match l.ring with
    | none => s
    | some k =>
      let s := match k.prev with | some p => if k.released then s else s.releaseSlot l.card.head p | none => s
      if k.published ∨ s.slotHolder l.card.head k.slot ≠ some lid then s else s.publishSlot l.card.head k.slot
  -- the rates lowered in a strip are told at its end (R352; log entry 27)
  let s := match l.raster with
    | some j => if j.lowered = [] then s else s.launchRecord l 0x42 1 j.lowered.length
    | none => s
  let s := (releaseDone s l).releaseUnits lid
  let s := s.leaveQueue l
  let s := { s with groups := s.groups.filter fun e => e.2.launch != lid
                    preempts := s.preempts.filter fun r => ((mget r.1 s.groups).map fun (g : Group) => g.launch) != some lid }
  let s := s.updLaunch lid fun l => { l with status := .completed, hwq := none, raster := none }
  let s := if l.card.irq then
      s.holdRec 1 (record 64 [(0, 0x80), (24, l.part), (64, l.cardVa), (128, s.cyc)])
    else s
  s.resumeSuspended
/-- CARD_COMPLETION (R41). -/
def tryCardCompletion (launch : Nat) (s : State) : Option State :=
  match mget launch s.launches with
  | none => none
  | some l =>
    -- the release is one RMW slot at the peg's bank (R193)
    if !cardDone s launch l then none else
      atBanks s (if l.card.donePeg = 0 then [] else banksOf false (s.windowAddr l.part l.card.donePeg) 8) fun s => some (finishCard s launch l)
/-- CARD_COMPLETION: it happens where its rule lets it; elsewhere nothing happens. -/
def execCardCompletion (launch : Nat) (s : State) : Host.Outcome State Fault Refusal := happens s (tryCardCompletion launch s)

/-- DEADLINE_EVENT (R42): a card other than a strip card is incomplete at its deadline. -/
def tryDeadlineEvent (launch : Nat) (s : State) : Option State :=
  match mget launch s.launches with
  | none => none
  | some l =>
    let ok := State.alive l && l.card.deadline != 0 && !badTime l.card.deadline && !l.card.isStrip && !l.deadlineDone &&
      decide (s.cycOfPtp l.card.deadline ≤ s.cyc)
    event ok ((s.launchRecord l 0x41 0 0).updLaunch launch fun l => { l with deadlineDone := true })
/-- DEADLINE_EVENT: it happens where its rule lets it; elsewhere nothing happens. -/
def execDeadlineEvent (launch : Nat) (s : State) : Host.Outcome State Fault Refusal := happens s (tryDeadlineEvent launch s)

/-- HOST_RECORD_POST (R456): the oldest held record of the error queue (0) or the completion queue (1) is written. -/
def tryHostRecordPost (queue : Nat) (s : State) : Option State :=
  event (decide (queue ≤ 1) && s.heldOf queue != [] && s.queueOpen queue) (s.postHeld queue)
/-- HOST_RECORD_POST: it happens where its rule lets it; elsewhere nothing happens. -/
def execHostRecordPost (queue : Nat) (s : State) : Host.Outcome State Fault Refusal := happens s (tryHostRecordPost queue s)
/-- TRAP_RECORD_POST (R112, R456): the oldest held record of a partition's trap queue is written. -/
def tryTrapRecordPost (part : Nat) (s : State) : Option State :=
  event (decide (part < 64) && s.heldOf (2 + part) != [] && s.queueOpen (2 + part)) (s.postHeld (2 + part))
/-- TRAP_RECORD_POST: it happens where its rule lets it; elsewhere nothing happens. -/
def execTrapRecordPost (part : Nat) (s : State) : Host.Outcome State Fault Refusal := happens s (tryTrapRecordPost part s)

end Sys2Proof.Machine
end

