-- ==== Sys2Proof/Machine/Quasi.lean ====
section
/-! DEFINITION. The quasi-random engine (16 R414-R424): points, QSAMP, QRAW, QSAMPD, QTAB, QSEED, and the load of a table store. -/

namespace Sys2Proof.Machine

/-- The card of the issuer holds the table store of its cluster (R414). -/
def holdsStore (s : State) (c : Ctx) : Bool := (s.cluster c.grp.cluster).store.holder == some c.lid

/-- Elastic regime: an access of the issuer from before its last FENCE is still to be performed; the store is accessed after it (R216, R217,
R424; log entry 127). -/
def behindFence (s : State) (c : Ctx) : Bool :=
  !c.locked && ((s.reqs.any fun r => r.group == c.g && r.wave == c.wi && decide (r.epoch < c.w.epoch)) ||
    s.rels.any fun r => r.group == c.g && r.wave == c.wi && decide (r.epoch < c.w.epoch))

/-! ### Points (R418, R419) -/

/-- One round of the scramble. -/
def scrambleRound (y m : Nat) : Nat := Nat.xor y (y * m % 2 ^ 32)
def brev32 (x : Nat) : Nat := ((List.range 32).map fun j => if bit x j then 2 ^ (31 - j) else 0).foldl (· + ·) 0
/-- The nested scramble of R419. -/
def scramble (x c : Nat) : Nat :=
  let y := (brev32 x + c) % 2 ^ 32
  brev32 (scrambleRound (scrambleRound (scrambleRound (scrambleRound y 0x5E9A3C16) 0xA7D41B62) 0x3B6EC8F4) 0xD2195A0E)
/-- The XOR of a dimension's words over the Gray code of the index (R418). -/
def rawPoint (words : List Nat) (i : Nat) : Nat :=
  let g := Nat.xor i (i / 2)
  ((List.range 32).map fun k => if bit g k then words.getD k 0 else 0).foldl Nat.xor 0
/-- A point from the words of its dimension (R418). -/
def pointOf (words : List Nat) (scr : Bool) (seed i : Nat) : Nat :=
  if scr then scramble (rawPoint words i) seed else rawPoint words i

/-- The words of a dimension that a locked QTAB makes visible by a cycle: both of its pieces are in the engine (R422, R424). -/
def lockedTable (s : State) (c : Ctx) (slot d y : Nat) : Option (List Byte) :=
  s.copies.findSome? fun e =>
    let k := e.2
    let m := d - k.dst % 256
    if k.form ≠ 3 ∨ k.cluster ≠ c.grp.cluster ∨ k.launch ≠ c.lid ∨ k.dst / 256 ≠ slot ∨ d < k.dst % 256 then none else
    let part (n : Nat) : Option (List Byte) := ((mget n k.fetched).orElse fun _ => mget n k.stage).map (·.1)
    match k.pieceAt (2 * m + 1), part (2 * m), part (2 * m + 1) with
    | some (r, j, n), some a, some b => if (pieceTimes s c k (2 * m + 1) r j n).2.1 ≤ y then some (a ++ b) else none
    | _, _, _ => none
/-- The seed that a locked QSEED makes visible by a CYC. -/
def lockedSeed (s : State) (c : Ctx) (slot d t : Nat) : Option Nat :=
  s.rels.foldl (fun b r => match r.target, r.due with
    | .seeds cl k z, some u => if cl = c.grp.cluster ∧ k = slot ∧ u ≤ t then some (State.seedOf z d) else b
    | _, _ => b) none

/-- The point of a thread, before the scramble and after it, with the error of an uncorrectable word (R418, R420, R424). A thread of step j
reads at c + j + 2 when locked; one of an ordered launch the store as its fret found it. -/
def pointAt (s : State) (c : Ctx) (t slot d i : Nat) : (Nat × Nat) × Option EccHit × State :=
  let cl := c.grp.cluster
  let x := (s.cluster cl).store
  let n := State.storeDim x slot d
  let (bs, h, s) := s.readJudged c false (Base.table cl + 128 * n) 128
  let (sd, h', s) := s.readJudged c false (Base.table cl + 0x8000 + 4 * n) 4
  let bs := if c.locked then (lockedTable s c slot d (s.scy c.l + t / 4 + 2)).getD bs else bs
  let seed := if c.locked then (lockedSeed s c slot d (s.cyc + t / 4 + 2)).getD (ofBytes sd) else ofBytes sd
  let words := (List.range 32).map fun k => ofBytes ((bs.drop (4 * k)).take 4)
  ((rawPoint words i, pointOf words (bit x.scr slot) seed i), h.orElse fun _ => h', s)

/-- (x >> 8)·2^−24 in FP32 and x·2^−32 in FP64, both exact (R420). -/
def point32 (x : Nat) : Nat := if x / 256 = 0 then 0 else (Fp.round Fp.f32 .nearest false .inf false (mkRat (x / 256) (2 ^ 24))).1
def point64 (x : Nat) : Nat := if x = 0 then 0 else (Fp.round Fp.f64 .nearest false .inf false (mkRat x (2 ^ 32))).1
/-- What a point instruction lands of a point: QRAW (form 0), QSAMP (1) or QSAMPD (2). -/
def pointValue (form x : Nat) : Nat := if form = 0 then x else if form = 1 then point32 x else point64 x

/-- QSAMP, QRAW and QSAMPD (R420): the checks, then a point for every active thread, landing at 4 slots. -/
def pointBody (form : Nat) (d a b : Reg) (s : State) (c : Ctx) : Res :=
  let words := if form = 2 then 2 else 1
  let slotOf (t : Nat) := bits (c.w.reg t b.toNat).toNat 9 8
  let dimOf (t : Nat) := (c.w.reg t b.toNat).toNat % 256
  if !holdsStore s c then .trap trapSync
  else match State.firstTrap c.active fun t =>
      if !bit c.card.slotMask (slotOf t) || decide ((s.cluster c.grp.cluster).store.dims.getD (slotOf t) 0 ≤ dimOf t) then
        some (trapBounds (c.w.reg t b.toNat).toNat) else none with
  | some ti => .trap ti
  | none => if behindFence s c then .stall s else
    let (xs, hit, s) := c.active.foldl (fun (st : List (Nat × Nat × Nat) × Option EccHit × State) t =>
      let (x, h, s) := pointAt st.2.2 c t (slotOf t) (dimOf t) (c.w.reg t a.toNat).toNat
      (st.1 ++ [(t, x)], st.2.1.orElse fun _ => h, s)) ([], none, s)
    let e := landing s c 4 (32 * words) c.w.active (.regs (xs.flatMap fun x => resultWords d.toNat words x.1 (pointValue form x.2.2))) []
    let ps := if !c.locked then [] else (xs.filter fun x => bit (s.cluster c.grp.cluster).store.scr (slotOf x.1)).map fun x =>
      { reg := d.toNat, words := words, form := form, thread := x.1, slot := slotOf x.1, dim := dimOf x.1, raw := x.2.1, cyc := s.cyc + x.1 / 4 + 2 }
    .done s.fresh (c.next.push { e with ecc := hit, points := ps })

/-- QSAMP (R420). -/
def execQsamp (d a b : Reg) (s : State) : Host.Outcome State Fault Refusal :=
  s.issue { ins := .qsamp d a b, who := .wave, uses := [w1 d, r1 a, r1 b] } (pointBody 1 d a b)
/-- QRAW (R420). -/
def execQraw (d a b : Reg) (s : State) : Host.Outcome State Fault Refusal :=
  s.issue { ins := .qraw d a b, who := .wave, uses := [w1 d, r1 a, r1 b] } (pointBody 0 d a b)
/-- QSAMPD (R420). -/
def execQsampd (d a b : Reg) (s : State) : Host.Outcome State Fault Refusal :=
  s.issue { ins := .qsampd d a b, who := .wave, uses := [w2 d, r1 a, r1 b] } (pointBody 2 d a b)

/-! ### QTAB and QSEED (R421-R424) -/

/-- The checks of QTAB before the stamp checks, in order (R421). -/
def qtabCheck (s : State) (c : Ctx) (i : Instr) (slot src ctl : Nat) : Option TrapInfo :=
  let d0 := bits ctl 7 0
  let n := bits ctl 16 8
  let form := bit ctl 17
  let bad := !bit c.card.slotMask slot || decide ((s.cluster c.grp.cluster).store.dims.getD slot 0 < d0 + n) ||
    (if form then decide (2 ^ 32 ≤ src) || !s.inWindow c.part src (128 * n) else decide (2 ^ 52 ≤ src))
  if !holdsStore s c then some trapSync
  else if decide (2 ^ 18 ≤ ctl) || n == 0 || decide (256 < n) then some (trapIllop (wordOf i))
  else if c.locked && !c.isCore && !form then some (trapRegime (wordOf i))
  else if src % 128 ≠ 0 then some (trapAlign src)
  else if bad then some (trapBounds src)
  else none

/-- QTAB (R421, R422): a copy of 2n pieces into the table store. -/
def execQtab (slot : BitVec 2) (a b : Reg) (s : State) : Host.Outcome State Fault Refusal :=
  s.issue { ins := .qtab slot a b, who := .both, uses := [r2 a, r1 b] } fun s c =>
    let src := (c.w.dreg c.leader a.toNat).toNat
    let ctl := (c.w.reg c.leader b.toNat).toNat
    match qtabCheck s c (.qtab slot a b) slot.toNat src ctl with
    | some ti => .trap ti
    | none =>
      let k : Copy :=
        { group := c.g, wave := c.wi, launch := c.lid, cluster := c.grp.cluster, batch := c.w.batch, pc := c.w.pc, form := 3, src := src
          dst := slot.toNat * 256 + bits ctl 7 0, xb := 64, yr := 2 * bits ctl 16 8, zp := 1, sspace := if bit ctl 17 then 1 else 0
          dspace := 4, fill := false, pg := 0, srp := 64, drp := 0, idxAddr := 0, idx := some [], covers := outstanding s c, next := 0
          ahead := [], start := none, fetched := [], held := c.ordered, order := s.seq, remote := [], sent := [], early := [], stage := [] }
      let cl := s.cluster c.grp.cluster
      let add (k : Copy) : Res :=
        let s := match k.start with
          | some t => s.setCluster c.grp.cluster { cl with store := { cl.store with busy := max cl.store.busy (t + k.occupancy) } }
          | none => s
        .done { s.fresh with copies := mset s.seq k s.copies } c.next
      if !c.locked then add k
      else if c.isCore then
        match stampCheck s c (copiesWaiting s c true) cl.store.busy with
        | .inl ti => .trap ti
        | .inr t => add { k with start := some t }
      else add { k with start := some (s.scy c.l + 8) }

/-- z of R423 without the dimension. -/
def seedBase (l : Launch) (slot stream : Nat) : Nat := l.card.seed + stream * 2 ^ 32 + slot * 2 ^ 16
/-- The points of a slot that are read at or after the cycle in which a locked QSEED writes take the new seed (R424). -/
def Landing.reseed (slot z cyc : Nat) (e : Landing) : Landing :=
  match e.what with
  | .regs vals =>
    let ps := e.points.filter fun p => p.slot == slot && decide (cyc ≤ p.cyc)
    let new := ps.flatMap fun p => resultWords p.reg p.words p.thread (pointValue p.form (scramble p.raw (State.seedOf z p.dim)))
    { e with what := .regs (vals.map fun v => (v.1, (mget v.1 new).getD v.2)) }
  | _ => e
/-- A locked QSEED reaches the points that its launch has in progress on the cluster. -/
def reseed (s : State) (c : Ctx) (slot z : Nat) : State :=
  { s with groups := s.groups.map fun e => if e.2.launch ≠ c.lid ∨ e.2.cluster ≠ c.grp.cluster then e else
      (e.1, { e.2 with waves := e.2.waves.map fun w => { w with pend := w.pend.map (Landing.reseed slot z (s.cyc + 8)) } }) }
/-- QSEED (R423, R424): at once; at the commit of the fret when ordered; 8 cycles on when locked. -/
def execQseed (slot : BitVec 2) (a : Reg) (s : State) : Host.Outcome State Fault Refusal :=
  s.issue { ins := .qseed slot a, who := .both, uses := [r1 a] } fun s c =>
    let u := (c.w.reg c.leader a.toNat).toNat
    if !holdsStore s c then .trap trapSync
    else if !bit c.card.slotMask slot.toNat then .trap (trapBounds 0)
    else if behindFence s c then .stall s
    else if c.ordered then .done s { c.next with buffer := c.w.buffer ++ [.qseed slot.toNat u] }
    else
      let z := seedBase c.l slot.toNat u
      if c.locked then
        let r : RelWait := { id := s.seq, group := c.g, wave := c.wi, epoch := c.w.epoch, target := .seeds c.grp.cluster slot.toNat z,
                             covers := [], due := some (s.cyc + 8) }
        .done { (reseed s c slot.toNat z).fresh with rels := s.rels ++ [r] } c.next
      else .done (s.writeSeeds c.grp.cluster slot.toNat z) c.next

/-! ### Loading a store (R415, R416) -/

/-- The header of an image is valid for a slot mask (R415): its dimensions by slot, and its scr bits. -/
def imageHeader (mask x : Nat) : Option (List Nat × Nat) :=
  let dims := (List.range 4).map fun i => bits x (16 * i + 8) (16 * i)
  let reserved := (List.range 4).any (fun i => bits x (16 * i + 15) (16 * i + 9) != 0) || bits x 511 68 != 0
  let ok := (List.range 4).all fun i =>
    if bit mask i then decide (1 ≤ dims.getD i 0) && decide (dims.getD i 0 ≤ 256) else dims.getD i 0 == 0 && !bit x (64 + i)
  if reserved || !ok || decide (256 < dims.foldl (· + ·) 0) then none else some (dims, bits x 67 64)

/-- The image failed: the card is killed, and a trap record says why (R416). -/
def imageFail (s : State) (lid cluster code addr : Nat) : State :=
  match mget lid s.launches with
  | none => s
  | some l => (s.launchTrap l cluster 0 code 0 0 addr 0 0).killLaunch lid

/-- The direction words of an image, dimension by dimension (R415): the first page without a translation stops the load. -/
def imageRows (s : State) (l : Launch) (cluster va n : Nat) : Option (Xl × Nat) × State :=
  (List.range n).foldl (fun (st : Option (Xl × Nat) × State) d =>
    match st.1 with
    | some e => (some e, st.2)
    | none => match st.2.vread l.part l.ctx (va + 64 + 128 * d) 128 (State.engineOf cluster 3) with
      | (.inl bs, s) => (none, s.writeMem (Base.table cluster + 128 * d) bs none)
      | (.inr y, s) => (some (y, va + 64 + 128 * d), s)) (none, s)

/-- TABLE_STORE_LOAD (R414-R416): a store that is free goes to the oldest card that waits for it; then its engine reads the card's image. -/
def tryTableStoreLoad (cluster : Nat) (s : State) : Option State :=
  let no : Option State := none
  let x := (s.cluster cluster).store
  match x.holder with
  | none => (storeWanted s cluster).map fun e => takeStore s e.1 e.2 cluster
  | some lid =>
    match mget lid s.launches with
    | none => no
    | some l =>
      let va := bits l.card.qrt 51 0
      if x.loaded ∨ x.fault.isSome then no
      else if va % 64 ≠ 0 then some (imageFail s lid cluster 4 va)
      else
        let stop (s : State) (y : Xl) (at_ : Nat) : Option State := match y with
          | .fault reason =>
            let (f, s) := s.raiseFault l.part l.ctx cluster 3 at_ reason .read
            some (s.setCluster cluster { s.cluster cluster with store := { x with fault := some f } })
          | .ecc => some (imageFail s lid cluster 9 va)
          | _ => no
        match s.vread l.part l.ctx va 64 (State.engineOf cluster 3) with
        | (.inr y, s) => stop s y va
        | (.inl hd, s) =>
          match imageHeader l.card.slotMask (ofBytes hd) with
          | none => some (imageFail s lid cluster 4 va)
          | some (dims, scr) =>
            let n := dims.foldl (· + ·) 0
            let (stopAt, t) := imageRows s l cluster va n
            match stopAt with
            | some (y, at_) => stop t y at_
            | none =>
              let t := t.setCluster cluster { t.cluster cluster with store := { x with dims := dims, scr := scr, loaded := true } }
              let t := ((List.range 4).filter (bit l.card.slotMask)).foldl (fun (t : State) k => t.writeSeeds cluster k (seedBase l k 0)) t
              some (storeLoaded t lid cluster)
/-- TABLE_STORE_LOAD: it happens where its rule lets it; elsewhere nothing happens. -/
def execTableStoreLoad (cluster : Nat) (s : State) : Host.Outcome State Fault Refusal := happens s (tryTableStoreLoad cluster s)

end Sys2Proof.Machine
end

