-- ==== Sys2Proof/Machine/Context.lean ====
section
/-! DEFINITION. Saved context (03 R111-R119; 12 R355-R358): the image of a group in its context slot, TRAP_GROUP_SAVE, PREEMPTION,
GROUP_RESTORE, and the return from a trap, which the mailbox command RESUME begins (19 R461). -/

namespace Sys2Proof.Machine

/-- CRC-32 of IEEE 802.3 (R357), bit by bit. -/
def crcBits : Nat → Nat → Nat
  | 0, x => x
  | n + 1, x => crcBits n (if x % 2 = 1 then Nat.xor (x / 2) 0xEDB88320 else x / 2)
def crc32 (bs : List Byte) : Nat := Nat.xor (bs.foldl (fun x b => crcBits 8 (Nat.xor x b.toNat)) 0xFFFFFFFF) 0xFFFFFFFF

/-- Offsets in a slot (Table 12-5): wave record w, registers, group memory, spill stacks. -/
def waveOff (w : Nat) : Nat := 0x1000 + 0x4000 * w
def regsOff : Nat := 0x81000
def gmemOff : Nat := 0x101000
def spillOff : Nat := 0x1E1000

namespace State

/-- Address of a slot of a partition's context pool (R355). -/
def slotVa (s : State) (p k : Nat) : Nat := s.barBits (pcfgOff p) 179 128 + 2 ^ 22 * k
/-- A free slot of the pool. -/
def freeSlot (s : State) (p : Nat) : Option Nat :=
  (List.range (s.barBits (pcfgOff p) 207 192)).find? fun k => !(s.partOf p).slots.contains k

end State

/-- The device-private bytes of a slot from an offset on. -/
def privBytes (token off n : Nat) : List Byte := (List.range n).map fun i => Config.privateByte token (off + i)

/-- The header without its CRC (Table 12-5). -/
def headerBytes (l : Launch) (x : Group) (token : Nat) : List Byte :=
  record 22 [(0, l.cardVa), (64, x.index), (96, x.chunkBase), (128, x.chunkCount), (160, x.cluster), (168, x.waves.length)] ++
    privBytes token 22 (0xFFC - 22)
/-- The fixed bytes of a wave record that system software may not change: its masks, and the private bytes. -/
def waveFixed (w : Wave) (token i : Nat) : List Byte :=
  toBytes w.active.toNat 4 ++ toBytes w.live.toNat 4 ++ privBytes token (waveOff i + 0x100) (0x4000 - 0x100)
/-- What the CRC covers (R357). -/
def crcOf (header : List Byte) (waves : List (List Byte)) : Nat := crc32 (header ++ waves.flatten)

/-- The registers of a saved wave whose word is poison, as a mask of the bytes of its image (R205). -/
def regPoison (s : State) (cluster slice g n threads : Nat) : Nat :=
  if s.regFileClean cluster then 0
  else (List.range (threads * n)).foldl (fun m i =>
    let a := State.regFileWord cluster slice g (i % n * 32 + i / n)
    if classify (syndromeOf (s.badAt a)) = .bad then m + 0xF * 2 ^ (4 * i) else m) 0
/-- The pieces of a group's image, in the order of the save (R356): offset, bytes, and the mask of its poison (R205). -/
def imageOf (s : State) (l : Launch) (g : Nat) (x : Group) (token : Nat) : List (Nat × List Byte × Nat) × State :=
  let who := some (l.part, l.ctx)
  let base := Base.local_ x.cluster
  let (gmem, gbad, s) := readParts s [(base + x.gmemBase, if x.kind = .lane then l.card.gmemKib * 1024 else 0)] who
  let (spill, sbad, s) := readParts s [(base + x.spillBase, if x.kind = .lane then x.waves.length * l.card.spillBytes else 0)] who
  let n := if x.kind = .lane then l.card.regs else 128
  let threads := if x.kind = .lane then 32 else 1
  -- the registers pass their corrector (R187)
  let s := (List.range x.waves.length).foldl (fun (s : State) i =>
    if x.kind = .lane then s.regFileAll x.cluster ((x.s0 + i) % 32) g n false who else s) s
  let regs := x.waves.flatMap fun w => (List.range threads).flatMap fun t => (List.range n).flatMap fun r => toBytes (w.reg t r).toNat 4
  let rbad := (List.range x.waves.length).foldl (fun m i =>
    if x.kind = .lane then m + regPoison s x.cluster ((x.s0 + i) % 32) g n threads * 2 ^ (4 * threads * n * i) else m) 0
  let recs := x.waves.zipIdx.flatMap fun e =>
    let (w, o) := (e.1, waveOff e.2)
    let core := if x.kind = .lane then [] else
      [(o + 0x18, toBytes w.stampBase.toNat 8), (o + 0x20, toBytes ((w.stamp.getD 0).toNat) 8), (o + 0x28, toBytes (if w.stamp.isSome then 1 else 0) 4)]
    [(o, toBytes w.pc.toNat 8), (o + 8, toBytes w.active.toNat 4 ++ toBytes w.live.toNat 4),
     (o + 0x10, toBytes w.rmode.toNat 4 ++ toBytes w.ftz.toNat 4)] ++ core ++
    [(o + 0x40, (List.range 32).flatMap fun t => toBytes (w.flags t).toNat 4),
     (o + 0x100, privBytes token (o + 0x100) (0x4000 - 0x100))]
  let h := headerBytes l x token
  let crc := crcOf h (x.waves.zipIdx.map fun e => waveFixed e.1 token e.2)
  ([(gmemOff, gmem, gbad), (spillOff, spill, sbad), (regsOff, regs, rbad)] ++ recs.map (fun e => (e.1, e.2, 0)) ++ [(0, h ++ toBytes crc 4, 0)], s)

/-- A group ends without a save: it counts as exited, and its slot is free (R355, R461). -/
def dropGroup (s : State) (g : Nat) : State :=
  match mget g s.groups with
  | none => s
  | some x =>
    let p := ((mget x.launch s.launches).map (·.part)).getD 0
    let pt := s.partOf p
    let s := s.setPart p { pt with slots := pt.slots.filter fun k => some k != x.slot }
    let s := { s with preempts := mdel g s.preempts, reqs := s.reqs.filter fun r => r.group != g
                      rels := s.rels.filter fun r => r.group != g
                      rays := s.rays.filter fun r => r.2.group != g }
    -- the issuers end: a failed batch that no WAITB has reported is judged (R324)
    let judge := (List.range x.waves.length).filterMap fun i => (s.ctxOf g i).filter fun c => !c.w.ended && c.w.batchFail != []
    let s := s.updGroup g fun x =>
      { x with slot := none, waves := x.waves.map fun w => { w with ended := true, buffer := [], deferred := [], pend := [] } }
    let s := s.endGroup g
    match judge with
    | c :: _ => s.judgeBatches c
    | [] => s
/-- A translation fault or a bad CRC of a save or restore (R355, R357): the group is killed, and a context-error record is posted. -/
def contextError (s : State) (g : Nat) : State :=
  match mget g s.groups with
  | none => s
  | some x => match mget x.launch s.launches with
    | none => s
    | some l => dropGroup (s.launchRecord l 0x43 0 x.index) g

/-- What a save finds of a wave: what is in flight has arrived, what is due by now has landed (R106), and a wave that waits issues its
instruction again, with its monitor disarmed (R117, R179, R184). -/
def restWave (w : Wave) : Wave :=
  let w := { w with
    pend := w.pend.map fun (e : Landing) => { e with arrived := e.arrived || e.waiting == 0 }
    deferred := w.deferred.map fun (d : Deferred) => { d with arrived := d.arrived || d.value.isSome }
    wait := match w.wait with | .condition | .regang | .slot => .none | .monitor a x _ => .look a x | x => x }
  w.land

/-- Everything that a group has in flight is done or can be done now: accesses are performed, deferred results are made, rays are at rest, and
pieces of copies that touch its group memory are done or await a verdict (R117, R326). -/
def inFlightDone (s : State) (g : Nat) (x : Group) : Bool :=
  s.reqs.all (fun r => r.group != g) && s.rels.all (fun r => r.group != g) &&
  x.waves.all (fun w => w.deferred.all fun d => d.value.isSome || d.failed.isSome || d.ecc.isSome) &&
  s.rays.all (fun r => r.2.group != g || r.2.status != 15) &&
  s.copies.all fun e => e.2.group != g || e.2.held || (List.range e.2.pieceCount).all fun n =>
    decide (n < e.2.next) || e.2.ahead.contains n || (s.replays.any fun r => r.copy == e.1 && r.piece == n) ||
    -- a copy whose indexes are not read may still touch it
    !(e.2.idx.isNone && (decide (e.2.idxAddr < 0x40000000) || e.2.sspace == 1 || e.2.dspace == 1)) &&
    match e.2.pieceAt n, s.ctxOf g e.2.wave with
    | some (r, j, _), some c => !touchesGroup c e.2 n r j
    | _, _ => true

/-- SAVING A GROUP into a free slot (R356): none while a page is being scrubbed. -/
def saveGroup (s : State) (g : Nat) : Option State :=
  match mget g s.groups with
  | none => none
  | some x =>
    match mget x.launch s.launches, s.freeSlot (((mget x.launch s.launches).map (·.part)).getD 0) with
    | some l, some k =>
      let s := (List.range x.waves.length).foldl (fun (s : State) i => match s.ctxOf g i with
        | some c => (s.regWrite c c.w (restWave c.w)).setWave g i (restWave c.w)
        | none => s) s
      let x := (mget g s.groups).getD x
      let token := s.free
      let s := { s with free := s.free + 1 }
      let (parts, s) := imageOf s l g x token
      let va := s.slotVa l.part k
      let (bad, s) := parts.foldl (fun (st : Option Xl × State) e =>
        match st.1 with
        | some b => (some b, st.2)
        | none => st.2.vwrite l.part l.ctx (va + e.1) e.2.1 e.2.2) (none, s)
      match bad with
      | some .wait => none
      | some _ => some (contextError s g)
      | none =>
        let s := if x.kind = .lane ∧ x.status ≠ .waiting then s.charge g else s
        let pt := s.partOf l.part
        let s := s.setPart l.part { pt with slots := pt.slots ++ [k] }
        let st : GroupStatus := if l.card.regime = 2 ∨ x.kind = .stream then x.status else .saved
        some ({ s with preempts := mdel g s.preempts }.updGroup g fun x => { x with slot := some k, status := st, priv := token, stopFrom := none })
    | _, _ => none

/-- TRAP_GROUP_SAVE (R111): a group that a trap has halted, its own or that of its card's control stream, is saved once a slot is free. A
shading group is never saved (R388): it stays halted in its place (log entry 121). -/
def tryTrapGroupSave (g : Nat) (s : State) : Option State :=
  let no : Option State := none
  match mget g s.groups with
  | none => no
  | some x =>
    let locked := ((mget x.launch s.launches).map fun (l : Launch) => l.card.regime == 2).getD true
    if x.status ≠ .halted ∨ x.kind ≠ .lane ∨ locked ∨ x.shade.isSome ∨ !inFlightDone s g x then no
    else match saveGroup s g with | some t => some t | none => no
/-- TRAP_GROUP_SAVE: it happens where its rule lets it; elsewhere nothing happens. -/
def execTrapGroupSave (g : Nat) (s : State) : Host.Outcome State Fault Refusal := happens s (tryTrapGroupSave g s)

/-- A group of this kind and standing may be pre-empted (R21, R378). -/
def mayPreempt (l : Launch) (x : Group) : Bool :=
  l.card.regime != 2 && x.kind == .lane && x.shade.isNone && (x.status == .resident || x.status == .suspended || x.status == .stopping)
/-- An ordered group stands at a fret boundary: no wave has issued in the fret or holds a buffered store (R118). -/
def atBoundary (x : Group) : Bool := x.waves.all fun w => w.ended || (w.retired == 0 && !w.fretEnded && w.buffer == [])
/-- A request for the group's pre-emption takes effect: in the ordered regime after the commit of the fret in which it arrived (R118). -/
def requestDue (s : State) (g : Nat) (l : Launch) (x : Group) : Bool :=
  match mget g s.preempts with
  | some f => l.card.regime != 1 || (decide (f < l.fret) && atBoundary x)
  | none => false
/-- An active group of an ordered launch finds no room on a cluster: one that is saved there and has its fret to run, or one still to be placed. -/
def lacksRoom (s : State) (lid : Nat) (l : Launch) (cl : Nat) : Bool :=
  (s.groups.any fun e => e.2.launch == lid && e.2.cluster == cl && (e.2.status == .waiting || (e.2.status == .saved && !e.2.trapped &&
    !(e.2.waves.all fun w => w.ended || w.fretEnded) && (fitAt (s.rooms cl) (s.servesRaster cl) l.card [e.2.s0]).isNone))) ||
  (decide (l.made < l.activated) && match nextPlace s lid l with | some (k, none) => k == cl | _ => false)
/-- An ordered group gives its place to an active group of its launch that finds no room there (R233). It has ended its fret, whose commit waits
for that group: its buffered writes stay with it (log entry 92). -/
def turnWanted (s : State) (lid : Nat) (l : Launch) (x : Group) : Bool :=
  l.card.regime == 1 && x.waves.all (fun w => w.ended || w.fretEnded) && lacksRoom s lid l x.cluster

/-- The strip groups of a head that are still to be placed on a cluster: sgroups less those that stand there (R378). -/
def stripLack (s : State) (cl h : Nat) : Nat :=
  s.barBits (stplOff h) 231 224 - (s.groups.filter fun e => e.2.cluster == cl && State.occupies e.2 &&
    ((mget e.2.launch s.launches).map fun (l : Launch) => l.card.head) == some h).length
/-- A head has a strip card in service on a cluster (R351). -/
def headServed (s : State) (cl h : Nat) : Bool :=
  s.launches.any fun e => e.2.card.head == h && State.alive e.2 && decide (s.cycOfPtp e.2.card.startTime ≤ s.cyc) &&
    (s.stplTiles e.2.part h).contains cl
/-- The strip groups of the heads in service on a cluster find room there without some of its groups (R351). -/
def stripsFit (s : State) (cl : Nat) (without : List Nat) : Bool :=
  let rs := { s with groups := s.groups.filter fun e => !without.contains e.1 }.rooms cl
  ((s.reservedBy cl).filter (headServed s cl)).all fun h => decide (stripLack s cl h ≤ capacityFrom true (s.stripShape h) (stripLack s cl h) rs)
/-- The sublists of a list that have n members, in the order of their places. -/
def sublistsOf : Nat → List Nat → List (List Nat)
  | 0, _ => [[]]
  | _ + 1, [] => []
  | n + 1, x :: xs => (sublistsOf n xs).map (x :: ·) ++ sublistsOf (n + 1) xs
/-- The groups that a strip chain pre-empts on a cluster (R351): as few as suffice, of them those of lower priority, of them those placed
last (log entry 93). -/
def stripVictims (s : State) (cl : Nat) : List Nat :=
  let mine := (s.groups.filterMap fun e =>
    match mget e.2.launch s.launches with
    | some l => if e.2.cluster = cl ∧ mayPreempt l e.2 ∧ !l.card.isStrip then some (e.1, l.card.priority, e.2.placedAt) else none
    | none => none).mergeSort fun a b => decide (a.2.1 < b.2.1) || (a.2.1 == b.2.1 && decide (b.2.2 ≤ a.2.2))
  let ids := mine.map (·.1)
  ((List.range (ids.length + 1)).findSome? fun n => (sublistsOf n ids).find? (stripsFit s cl)).getD []
/-- A strip chain wants the group's room (R351): a strip card is in service on its cluster. -/
def stripWants (s : State) (g : Nat) (x : Group) : Bool := s.inService x.cluster && (stripVictims s x.cluster).contains g

/-- PREEMPTION (R117, R118, R355, R358): a requested pre-emption stops the group's waves, and saves it once what it has in flight is done. A
strip chain's wish for an ordered group is a request that waits for the fret's end. A group that has stopped goes on when nothing asks for
its pre-emption any more, or no slot is left for it. -/
def tryPreemption (g : Nat) (s : State) : Option State :=
  let no : Option State := none
  match mget g s.groups with
  | none => no
  | some x =>
    match mget x.launch s.launches with
    | none => no
    | some l =>
      let strip := stripWants s g x
      let asked := requestDue s g l x || turnWanted s x.launch l x || (strip && l.card.regime != 1)
      if !mayPreempt l x then no
      else if l.card.regime = 1 ∧ strip ∧ (mget g s.preempts).isNone then some { s with preempts := mset g l.fret s.preempts }
      else if !asked ∨ (s.freeSlot l.part).isNone then
        if x.status = .stopping then some (s.updGroup g s.goesOn) else no
      else if !inFlightDone s g x then
        -- no wave issues any more; the save follows
        if x.status = .resident then some (s.updGroup g fun x => { x with status := .stopping }) else no
      else match saveGroup s g with | some t => some t | none => no
/-- PREEMPTION: it happens where its rule lets it; elsewhere nothing happens. -/
def execPreemption (g : Nat) (s : State) : Host.Outcome State Fault Refusal := happens s (tryPreemption g s)

/-- A saved group is to be restored: it has something to run, or a copy of it has (R233, R326). -/
def wantsRestore (s : State) (g : Nat) (x : Group) : Bool :=
  x.status == .saved && !x.trapped &&
    ((x.waves.any fun w => !w.ended && !w.fretEnded) || s.copies.any fun e => e.2.group == g && !e.2.held)

/-- A wave with what system software may have changed of its record (Table 12-5). -/
def readWave (w : Wave) (rec_ : List Byte) (regs : List Byte) (n : Nat) : Wave :=
  let word (o : Nat) : Nat := ofBytes ((rec_.drop o).take 4)
  { w with
    pc := BitVec.ofNat 52 (ofBytes (rec_.take 8)), rmode := BitVec.ofNat 2 (word 0x10), ftz := BitVec.ofNat 4 (word 0x14)
    fflags := (List.range 32).foldl (fun m t => dset 0#5 t (BitVec.ofNat 5 (word (0x40 + 4 * t))) m) []
    regs := (List.range 32).foldl (fun m t => (List.range n).foldl (fun m r =>
      dset 0#32 (r * 32 + t) (BitVec.ofNat 32 (ofBytes ((regs.drop (4 * (n * t + r))).take 4))) m) m) [] }

/-- A buffered write of a group whose group memory has moved within its cluster (R165, R171): addresses in the n bytes from `old` move. -/
def BufWrite.moved (old n new : Nat) (b : BufWrite) : BufWrite :=
  let at_ (a : Nat) : Nat := if old ≤ a ∧ a < old + n then new + (a - old) else a
  match b with
  | .store a w x => .store (at_ a) w x
  | .atomic op a w x d => .atomic op (at_ a) w x d
  | .cas a w e x d => .cas (at_ a) w e x d
  | b => b
/-- A restored wave: its addresses in group memory follow the block (R165), a misaligned resume pc stands as it is (log entry 94), and what
is due lands (R119). The latches of RDS 6 and 8 are empty after a restore (R28). -/
def wakeWave (old n new : Nat) (w : Wave) : Wave :=
  let w := { w with
    cycHigh := none, scyHigh := none
    buffer := w.buffer.map (BufWrite.moved old n new)
    wait := match w.wait with
      | .look a x => .look (if old ≤ a ∧ a < old + n then new + (a - old) else a) x
      | x => x }
  w.land

/-- RESTORING A GROUP from its slot on its cluster and slices (R21, R119, R356, R357): none while a page is being scrubbed. -/
def restoreGroup (s : State) (g : Nat) (r : Room) : Option State :=
  match mget g s.groups with
  | none => none
  | some x =>
    match mget x.launch s.launches, x.slot with
    | some l, some k =>
      let va := s.slotVa l.part k
      let rd (s : State) (o n : Nat) := s.vread l.part l.ctx (va + o) n
      -- what the image carries as poison is poison again (R205)
      let rdP (s : State) (o n : Nat) := s.vreadP l.part l.ctx (va + o) n
      let n := l.card.regs
      match rd s 0 0x1000 with
      | (.inr .wait, _) => none
      | (.inr _, s) => some (contextError s g)
      | (.inl head, s) =>
      let (recs, s) := (List.range x.waves.length).foldl (fun (st : (List (List Byte) ⊕ Xl) × State) i =>
        match st.1 with
        | .inr e => (.inr e, st.2)
        | .inl bs => match rd st.2 (waveOff i) 0x4000 with
          | (.inl b, s) => (.inl (bs ++ [b]), s)
          | (.inr e, s) => (.inr e, s)) (.inl [], s)
      match recs, rdP s regsOff (128 * n * x.waves.length), rdP s spillOff (x.waves.length * l.card.spillBytes), rdP s gmemOff (l.card.gmemKib * 1024) with
      | .inr .wait, _, _, _ | _, (.inr .wait, _), _, _ | _, _, (.inr .wait, _), _ | _, _, _, (.inr .wait, _) => none
      | .inl recs, (.inl (regs, rbad), s), (.inl (spill, sbad), _), (.inl (gmem, gbad), _) =>
        let fixed := recs.map fun b => (b.drop 8).take 8 ++ b.drop 0x100
        if crcOf (head.take 0xFFC) fixed ≠ ofBytes (head.drop 0xFFC) then some (contextError s g) else
        let base := Base.local_ x.cluster
        let s := writeParts s [(base + r.s0, spill.length)] spill sbad none
        let s := writeParts s [(base + r.g0, gmem.length)] gmem gbad none
        let pt := s.partOf l.part
        let s := s.setPart l.part { pt with slots := pt.slots.filter (· != k) }
        let ws := (x.waves.zip recs).zipIdx.map fun e => readWave e.1.1 e.1.2 ((regs.drop (128 * n * e.2)).take (128 * n)) n
        let s := (List.range ws.length).foldl (fun (s : State) i => s.regFileAll x.cluster ((r.first + i) % 32) g n true none) s
        let bad := if rbad = 0 then [] else (List.range (32 * n * x.waves.length)).filter fun i => rbad / 2 ^ (4 * i) % 16 ≠ 0
        let s := bad.foldl (fun (s : State) i =>
          let k := i % (32 * n)
          let a := State.regFileWord x.cluster ((r.first + i / (32 * n)) % 32) g (k % n * 32 + k / n)
          { s with eccBad := dset 0#8 (a / 8) 0x7F#8 s.eccBad }) s
        let n := l.card.gmemKib * 1024
        let ws := ws.map (wakeWave (base + x.gmemBase) n (base + r.g0))
        some (s.updGroup g fun x =>
          { x with waves := ws, status := .resident, trapped := false, slot := none, gmemBase := r.g0, spillBase := r.s0, chargedFrom := s.cyc })
      | _, _, _, _ => some (contextError s g)
    | _, _ => none

/-- GROUP_RESTORE (R21, R119): a saved group returns to its cluster and its slices. -/
def tryGroupRestore (g : Nat) (s : State) : Option State :=
  let no : Option State := none
  match mget g s.groups with
  | none => no
  | some x =>
    match mget x.launch s.launches with
    | none => no
    | some l =>
      if !wantsRestore s g x || l.status != .running || (!l.card.isStrip && s.inService x.cluster) then no
      else match fitAt (s.rooms x.cluster) (s.servesRaster x.cluster) l.card [x.s0] with
      | none => no
      | some r => match restoreGroup s g r with | some t => some t | none => no
/-- GROUP_RESTORE: it happens where its rule lets it; elsewhere nothing happens. -/
def execGroupRestore (g : Nat) (s : State) : Host.Outcome State Fault Refusal := happens s (tryGroupRestore g s)

/-- THE RETURN FROM A TRAP (R113, R119, R461): a group halted by a trap goes on at its resume pcs; from its slot once it is restored, or
where it stands if it was not saved. The waves that system software did not touch keep their skip flags. -/
def resumeGroup (s : State) (g : Nat) : State :=
  s.updGroup g fun x => { if x.status = .halted then s.goesOn x else x with trapped := false }

end Sys2Proof.Machine
end

