-- ==== Sys2Proof/Machine/Ring.lean ====
section
/-! DEFINITION. Strip rings and their consumers (17 R426-R441): RSLOT, RPUB and RREL, the strip sequence, the display serialisers and the
AV1 slice encoders. -/

namespace Sys2Proof.Machine

/-! ### Rings (R426-R429) -/

/-- Fields of RINGCFG (Table 17-1). -/
def ringEn (s : State) (h : Nat) : Bool := s.barFlag (ringOff h) 114
def ringSlots (s : State) (h : Nat) : Nat := s.barBits (ringOff h) 36 32
def ringLines (s : State) (h : Nat) : Nat := s.barBits (ringOff h) 46 40
def ringPitch (s : State) (h : Nat) : Nat := s.barBits (ringOff h) 79 64
def ringWidth (s : State) (h : Nat) : Nat := s.barBits (ringOff h) 92 80
def ringAct (s : State) (h : Nat) : Nat := s.barBits (ringOff h) 108 96
def ringFmt (s : State) (h : Nat) : Nat := s.barBits (ringOff h) 113 112
def ringFill (s : State) (h : Nat) : Nat := s.barBits (ringOff h) 159 128
/-- Strip index of the open entry. -/
def ringNext (s : State) (h : Nat) : Nat := s.barBits (ringOff h) 364 352

/-- The partition in whose window a head's slots lie: that of its admitted template, or the first enabled one (log entry 12). -/
def ringPart (s : State) (h : Nat) : Option Nat :=
  let size := ringSlots s h * ringLines s h * ringPitch s h
  let ok (p : Nat) : Bool := s.partEn p && s.inWindow p (s.barBits (ringOff h) 31 0) size
  if s.barFlag (stplOff h) 289 then (if ok (s.headPart h) then some (s.headPart h) else none)
  else (List.range 64).find? ok
/-- The conditions of R426 for en = 1. -/
def ringOk (s : State) (h : Nat) : Bool :=
  decide (2 ≤ ringSlots s h) && decide (ringSlots s h ≤ 16) && decide (s.halo h ≤ 4) &&
  decide (8 ≤ ringLines s h) && decide (ringLines s h ≤ 64) && ringLines s h % 8 == 0 &&
  ringPitch s h % 64 == 0 && decide (4 * ringWidth s h ≤ ringPitch s h) &&
  decide (ringAct s h ≤ s.barBits (ringOff h) 303 288) && (decide (h < 4) || decide (ringAct s h ≤ 4352)) &&
  decide (ringFmt s h ≤ 1) && (ringPart s h).isSome

/-- The first strip of a head whose deadline is at or after a cycle: frame and strip (R428). -/
def firstEntry (s : State) (h c : Nat) : Nat × Nat :=
  let b := ringOff h
  let unit := s.barBits b 287 256 * 2 ^ 24
  let epoch := ptpNs (s.barBits b 239 160) * 2 ^ 40
  let t := s.tOfCyc (c + s.barBits b 351 320 - 1)
  -- lines from the epoch on whose scan comes after the last cycle before c + guard
  let n := if t < epoch then 0 else (t - epoch) / unit + 1
  let lpf := s.barBits b 303 288
  let strip := ceilDiv (n % lpf) (ringLines s h)
  if strip < s.spf h then (n / lpf, strip) else (n / lpf + 1, 0)

/-- The entry after an entry. -/
def entryAfter (s : State) (h f strip : Nat) : Nat × Nat := if strip + 1 < s.spf h then (f, strip + 1) else (f + 1, 0)
/-- The following entry opens (R428). -/
def openNext (s : State) (h : Nat) (prev : Option Nat) : State :=
  match mget h s.rings with
  | none => s
  | some r =>
    let (f, k) := entryAfter s h r.frame (ringNext s h)
    (s.updRing h fun r => { r with frame := f, prev := some prev, openUnder := false }).setBar (ringOff h) 364 352 k
/-- Every slot is EMPTY and every mark cleared (Table 17-2). -/
def clearSlots (s : State) (h : Nat) : State := s.setBar (ringOff h) 447 384 0

/-- A slice encoder at the start of a frame, with the lines before its first strip as fill words. -/
def encStart (s : State) (h f strip : Nat) : Enc :=
  { lines := List.replicate (strip * ringLines s h) (List.replicate (ringWidth s h) (ringFill s h)), frame := f, coded := 0, sinceKey := 0
    stalled := false, key := true }

/-- A write of en = 1 to a ring that is off (R426, R428): none where the configuration is not valid. -/
def enableRing (head : Nat) (s : State) : Option State :=
    match ringPart s head with
    | none => none
    | some p =>
      if 132 ≤ head ∨ ringEn s head ∨ !ringOk s head then none else some <|
      let (f, k) := firstEntry s head (s.cyc + 4096)
      let s := clearSlots ((s.setBar (ringOff head) 114 114 1).setBar (ringOff head) 364 352 k) head
      let r : Ring := { frame := f, last := none, prev := none, openUnder := false, entries := [], late := [], holders := []
                        nextFrame := f, nextLine := k * ringLines s head }
      { s with rings := mset head r s.rings, headParts := mset head p s.headParts
               encs := if head < 4 then s.encs else mset head (encStart s head f k) s.encs }
/-- RINGCFG_ENABLE (R426, R428): en = 1 is written; it is ignored where the configuration is not valid. -/
def execRingcfgEnable (head : Nat) (s : State) : Host.Outcome State Fault Refusal := .next (configured s (enableRing head s))

/-- A write of en = 0 to a ring (R429): every slot becomes EMPTY. -/
def disableRing (head : Nat) (s : State) : State :=
  let t := clearSlots (s.setBar (ringOff head) 114 114 0) head
  if 132 ≤ head then s else { t with rings := mdel head t.rings, encs := mdel head t.encs }
/-- RINGCFG_DISABLE (R429). -/
def execRingcfgDisable (head : Nat) (s : State) : Host.Outcome State Fault Refusal := .next (configured s (some (disableRing head s)))

/-- What a torn-down partition leaves of a ring (R441): EMPTY slots, entries that are skipped, and an encoder that starts again with a key
frame. -/
def abandonRing (s : State) (h : Nat) : State :=
  let s := clearSlots s h
  let s := s.updRing h fun r =>
    let es := r.entries.map fun (e : RingEntry) => { e with slot := none }
    { r with entries := es, late := [], holders := [], prev := r.prev.map fun _ => none }
  -- the frame that is being coded is discarded
  { s with encs := mupd h (fun x => { x with
      lines := [], coded := 0, frame := if x.lines = [] ∧ x.coded = 0 then x.frame else x.frame + 1, sinceKey := 0, key := true
      stalled := false }) s.encs }

/-! ### Records (R441) -/

/-- A head record, held for the fault queue of the head's partition (Table 17-6; log entry 23 for its context). -/
def headRecord (s : State) (h kind f strip cyc : Nat) (holder : Option Nat) : State :=
  let ctx := ((holder.bind fun l => mget l s.launches).map fun (l : Launch) => l.ctx).getD 0
  s.holdFault (s.headPart h) 0
    (record 64 [(0, kind), (20, ctx), (24, s.headPart h), (32, h), (48, strip), (64, f % 2 ^ 32), (128, cyc)])

/-! ### RSLOT, RPUB and RREL (R431-R436) -/

/-- The RING cause common to the three (Table 17-4). -/
def ringTrap (s : State) (c : Ctx) : Option TrapInfo :=
  let k := c.card
  if k.head = 0xFFFF ∨ !ringEn s k.head ∨ s.spf k.head ≤ k.strip then some trapRing else none
/-- The slot after the one last claimed (R428). -/
def nextSlot (s : State) (h : Nat) (r : Ring) : Nat := match r.last with | some k => (k + 1) % ringSlots s h | none => 0
/-- The previous entry's slot, if the halo lines of the claim come from it (R432). -/
def haloFrom (s : State) (h strip : Nat) (r : Ring) : Option Nat := if strip = 0 ∨ s.halo h = 0 then none else r.prev.getD none
/-- The condition of RSLOT (R432). -/
def mayClaim (s : State) (h strip : Nat) (r : Ring) : Bool :=
  ringNext s h == strip && s.slotState h (nextSlot s h r) == 0 &&
    match haloFrom s h strip r with
    | none => true
    | some p => s.slotState h p == 2 || s.slotState h p == 3 || s.slotState h p == 4
/-- The consumer has passed an entry's last line (R437). -/
def consumerPassed (s : State) (h : Nat) (r : Ring) (f strip : Nat) : Bool :=
  decide (h < 4) && (decide (f < r.nextFrame) || (f == r.nextFrame && decide (min (ringAct s h) ((strip + 1) * ringLines s h) ≤ r.nextLine)))
/-- A card claims the next slot (R428, R432). -/
def claimSlot (s : State) (lid h strip : Nat) (r : Ring) : State :=
  let w := nextSlot s h r
  let from_ := haloFrom s h strip r
  let high := match from_ with
    | none => 0
    | some p => s.slotBase h p + (ringLines s h - s.halo h) * ringPitch s h
  let k : RingClaim := { slot := w, low := s.slotBase h w, high := high, prev := r.prev.getD none, published := false, released := false }
  let passed := consumerPassed s h r r.frame strip
  let s := (s.setSlot h w 1).setRelMark h w false
  let s := s.updRing h fun r =>
    let e : RingEntry := { frame := r.frame, strip := strip, slot := some w, underrun := r.openUnder }
    { r with last := some w, entries := if passed then r.entries else r.entries ++ [e]
             late := if passed then w :: r.late else r.late.filter (· != w), holders := mset w lid r.holders }
  (openNext s h (some w)).updLaunch lid fun l => { l with ring := some k }

/-- RSLOT (R432): waits for the card's strip and a slot, in the ordered regime for those of the end of the last commit (R232), then lands the
slot's base and the halo's. -/
def rslotBody (d : Reg) (s : State) (c : Ctx) : Res :=
  let land (s : State) (k : RingClaim) : Res :=
    let v := k.low % 2 ^ 32 + k.high % 2 ^ 32 * 2 ^ 32
    landAt (if k.high % 2 ^ 32 = 0 then s else s.acquired c) c (landing s c 12 64 (maskOf c.all) (.regs (c.all.flatMap fun t =>
      [(d.toNat * 32 + t, BitVec.ofNat 32 v), ((d.toNat + 1) * 32 + t, BitVec.ofNat 32 (v / 2 ^ 32))])) [])
  match ringTrap s c with
  | some ti => .trap ti
  | none =>
    match c.l.ring, mget c.card.head s.rings with
    | some k, _ => land s k
    | none, none => .trap trapRing
    | none, some r =>
      let judged := match (if c.ordered then c.l.snap else none) with | some x => x.slot | none => true
      if judged && mayClaim s c.card.head c.card.strip r then
        let s := claimSlot s c.lid c.card.head c.card.strip r
        match (mget c.lid s.launches).bind (·.ring) with
        | some k => land s k
        | none => .trap trapRing
      else .wait s { c.w with wait := .slot } 0x10
/-- A waiting RSLOT outside the ordered regime claims its slot in the cycle in which it is free (R430); its instruction finds the claim at its next
turn. -/
def claimWaiting (s : State) : Option State :=
  s.launches.findSome? fun e =>
    let l := e.2
    let waits := s.groups.any fun x => x.2.launch == e.1 && (x.2.status == .resident || x.2.status == .suspended) &&
      x.2.waves.any fun w => w.wait == .slot && !w.ended && !w.trapped
    match mget l.card.head s.rings with
    | some r => if l.status == .running && l.ring.isNone && l.card.regime == 0 && waits && mayClaim s l.card.head l.card.strip r then
        some (claimSlot s e.1 l.card.head l.card.strip r) else none
    | none => none
/-- RSLOT (R432). -/
def execRslot (d : Reg) (s : State) : Host.Outcome State Fault Refusal :=
  s.issue { ins := .rslot d, who := .both, uses := [w2 d], waits := true } (rslotBody d)

/-- RPUB (R433): the slot is published once the accesses before it are performed. -/
def rpubBody (s : State) (c : Ctx) : Res :=
  match ringTrap s c, c.l.ring with
  | some ti, _ => .trap ti
  | none, none => .trap trapRing
  | none, some k =>
    if k.published then .trap trapRing
    -- an ordered launch publishes after the writes of its fret, in their place at the commit
    else if c.ordered then
      .done (s.updLaunch c.lid fun l => { l with ring := some { k with published := true } }) { c.next with buffer := c.w.buffer ++ [.publish c.lid] }
    else
    let r : RelWait := { id := s.seq, group := c.g, wave := c.wi, epoch := c.w.epoch, target := .publish c.lid,
                         covers := outstanding s c, due := none }
    let s := s.updLaunch c.lid fun l => { l with ring := some { k with published := true } }
    .done { s.fresh with rels := s.rels ++ [r] } c.next
/-- RPUB (R433). -/
def execRpub (s : State) : Host.Outcome State Fault Refusal := s.issue { ins := .rpub, who := .both } rpubBody

/-- RREL (R434): the previous entry's slot is released, once. -/
def rrelBody (s : State) (c : Ctx) : Res :=
  match ringTrap s c, c.l.ring with
  | some ti, _ => .trap ti
  | none, none => .trap trapRing
  | none, some k =>
    if k.released then .done s c.next else
    let s := s.updLaunch c.lid fun l => { l with ring := some { k with released := true } }
    .done (match k.prev with | some p => s.releaseSlot c.card.head p | none => s) c.next
/-- RREL (R434). -/
def execRrel (s : State) : Host.Outcome State Fault Refusal := s.issue { ins := .rrel, who := .both } rrelBody

/-- ENTRY_SKIP (R428): the open entry's deadline passes with no claim. -/
def tryEntrySkip (head : Nat) (s : State) : Option State :=
  match mget head s.rings with
  | none => none
  | some r =>
    let k := ringNext s head
    let d := s.stripDue head r.frame k
    let passed := consumerPassed s head r r.frame k
    let t := headRecord s head 0x61 r.frame k d none
    let t := t.updRing head fun r =>
      let e : RingEntry := { frame := r.frame, strip := k, slot := none, underrun := true }
      { r with entries := if passed then r.entries else r.entries ++ [e] }
    event (ringEn s head && decide (d ≤ s.cyc)) (openNext t head none)
/-- ENTRY_SKIP: it happens where its rule lets it; elsewhere nothing happens. -/
def execEntrySkip (head : Nat) (s : State) : Host.Outcome State Fault Refusal := happens s (tryEntrySkip head s)

/-! ### Display serialisers (R437) -/

/-- The pixel words of line L of a slot's strip, as a line buffer of the head takes them (R437, R438; array 0x23). -/
def slotLine (s : State) (h k line : Nat) : List Nat × State :=
  let p := s.headPart h
  let a := s.slotBase h k + line * ringPitch s h
  -- a line may pass from one slice to the next
  (List.range (ringWidth s h)).foldl (fun (st : List Nat × State) x =>
    let (b, _, s) := st.2.readMem (st.2.windowAddr p (a + 4 * x)) 4 none
    (st.1 ++ [ofBytes b], s)) ([], (touchBanks s (windowParts s p a (4 * ringWidth s h))).passThrough (Base.dieWide 0x23 + 2 ^ 15 * h) (4 * ringWidth s h))
/-- The RGB components that a serialiser sends of a pixel word (R426, R437): 8 bits each for format 0, 10 for format 1; other bits are ignored. -/
def rgbOf (fmt word : Nat) : List Nat :=
  let n := if fmt = 0 then 8 else 10
  (List.range 3).map fun i => bits word (n * i + n - 1) (n * i)
/-- The fill words of a line. -/
def fillLine (s : State) (h : Nat) : List Nat := List.replicate (ringWidth s h) (ringFill s h)

/-- The display has fetched a strip's last line: its entry is passed (Table 17-2). -/
def displayPasses (s : State) (h : Nat) (r : Ring) (e : RingEntry) : State :=
  let s := s.updRing h fun r => { r with entries := r.entries.filter fun x => x.frame != e.frame || x.strip != e.strip }
  match e.slot with
  | none => s
  | some k =>
    if s.slotState h k = 2 then s.consumeSlot h k
    else if s.slotState h k = 1 then s.updRing h fun _ => { (mget h s.rings).getD r with late := k :: ((mget h s.rings).getD r).late }
    else s

/-- DISPLAY_LINE_FETCH (R437): line L of the frame, 4,096 cycles before its scan. -/
def tryDisplayLineFetch (display : Nat) (s : State) : Option State :=
  match mget display s.rings with
  | none => none
  | some r =>
    let h := display
    let (f, line) := (r.nextFrame, r.nextLine)
    let strip := line / ringLines s h
    let top := ringAct s h
    let after := if line + 1 < top then (f, line + 1) else (f + 1, 0)
    let lastLine := decide (line + 1 = top) || (line + 1) % ringLines s h == 0
    let step (s : State) : State := s.updRing h fun r => { r with nextFrame := after.1, nextLine := after.2 }
    let show_ (s : State) (words : List Nat) : State := s.send "display" (h :: f :: line :: words.flatMap (rgbOf (ringFmt s h)))
    let underrun (s : State) (holder : Option Nat) : State := headRecord s h 0x60 f strip s.cyc holder
    let t := match r.entries.find? fun e => e.frame == f && e.strip == strip with
      | none =>
        -- the entry is still open: it is not published
        let s := if r.openUnder then s else underrun s none
        step (show_ (s.updRing h fun r => { r with openUnder := true }) (fillLine s h))
      | some e =>
        match e.slot with
        | none =>
          let s := step (show_ s (fillLine s h))
          if lastLine then displayPasses s h r e else s
        | some k =>
          if s.slotState h k = 2 then
            let (ws, s) := slotLine s h k (line % ringLines s h)
            let s := step (show_ s ws)
            if lastLine then displayPasses s h r e else s
          else
            let s := if e.underrun then s else underrun s (mget k r.holders)
            let s := s.updRing h fun r =>
              let es := r.entries.map fun (x : RingEntry) => if x.frame = f ∧ x.strip = strip then { x with underrun := true } else x
              { r with entries := es }
            let s := step (show_ s (fillLine s h))
            if lastLine then displayPasses s h r e else s
    event (decide (display < 4) && ringEn s h && decide (line < top) && decide (s.scanCyc h f line ≤ s.cyc + 4096)) t
/-- DISPLAY_LINE_FETCH: it happens where its rule lets it; elsewhere nothing happens. -/
def execDisplayLineFetch (display : Nat) (s : State) : Host.Outcome State Fault Refusal := happens s (tryDisplayLineFetch display s)

/-! ### Slice encoders (R438-R440) -/

/-- Free space of a head's bitstream buffer (Table 17-5). -/
def encFree (s : State) (h : Nat) : Nat :=
  let b := encOff h
  let n := s.barBits b 95 64
  n - (s.barBits b 127 96 + n - s.barBits b 159 128 % n) % n - 1
/-- The space that a tile row needs. -/
def encNeeds (s : State) (h : Nat) : Nat := 2 * ringWidth s h * 64 + 4096
/-- A tile row can be coded (R438). -/
def rowReady (s : State) (h : Nat) (x : Enc) : Bool :=
  decide (64 ≤ x.lines.length) || (decide (ringAct s h ≤ x.coded + x.lines.length) && decide (0 < x.lines.length))

/-- ENCODER_STRIP_COPY (R438): the oldest entry's strip goes to the line buffer, or the head stalls. -/
def tryEncoderStripCopy (encoder : Nat) (s : State) : Option State :=
  let no : Option State := none
  let h := encoder
  match mget h s.rings, mget h s.encs with
  | some r, some x =>
    match r.entries with
    | [] => no
    | e :: rest =>
      let published := match e.slot with | none => true | some k => s.slotState h k == 2
      -- an entry of a frame that was discarded
      if e.frame < x.frame then
        let t := match e.slot with | none => s | some k => s.consumeSlot h k
        event (ringEn s h && published) (t.updRing h fun r => { r with entries := rest })
      else if !ringEn s h || rowReady s h x || !published then no else
      if encFree s h < encNeeds s h then
        if x.stalled then no else
        let holder := e.slot.bind fun k => mget k r.holders
        some { headRecord s h 0x62 e.frame e.strip s.cyc holder with encs := mset h { x with stalled := true } s.encs }
      else
        let n := min (ringLines s h) (ringAct s h - e.strip * ringLines s h)
        let (ls, t) := match e.slot with
          | none => (List.replicate n (fillLine s h), s)
          | some k => (List.range n).foldl (fun (st : List (List Nat) × State) i =>
              let (ws, s) := slotLine st.2 h k i
              (st.1 ++ [ws], s)) ([], s)
        let t := match e.slot with | none => t | some k => t.consumeSlot h k
        let t := t.updRing h fun r => { r with entries := rest }
        some { t with encs := mset h { x with lines := x.lines ++ ls, stalled := false } t.encs }
  | _, _ => no
/-- ENCODER_STRIP_COPY: it happens where its rule lets it; elsewhere nothing happens. -/
def execEncoderStripCopy (encoder : Nat) (s : State) : Host.Outcome State Fault Refusal := happens s (tryEncoderStripCopy encoder s)

/-- Colour conversion of a pixel (R440): Y, Cb and Cr at the output depth. -/
def toYcc (fmt ten word : Nat) : Nat × Int × Int :=
  let n := if fmt = 0 then 8 else 10
  let r : Int := (bits word (n - 1) 0 : Nat)
  let g : Int := (bits word (2 * n - 1) n : Nat)
  let b : Int := (bits word (3 * n - 1) (2 * n) : Nat)
  let sh := 8 + n - (if ten = 0 then 8 else 10)
  let k : Int := if ten = 0 then 1 else 4
  let m : Int := (2 ^ sh : Nat)
  let rh : Int := (2 ^ (sh - 1) : Nat)
  ((16 * k + (47 * r + 157 * g + 16 * b + rh) / m).toNat, 128 * k + (-26 * r - 86 * g + 112 * b + rh) / m,
    128 * k + (112 * r - 102 * g - 10 * b + rh) / m)
/-- The 2 × 2 chroma samples of two lines (R440): the last column is repeated at an odd edge. -/
def chroma (upper lower : List Int) : List Nat :=
  (List.range ((upper.length + 1) / 2)).map fun i =>
    let at2 (l : List Int) : Int := l.getD (2 * i) 0 + l.getD (min (2 * i + 1) (l.length - 1)) 0
    (((at2 upper + at2 lower + 2) / 4).toNat)
/-- The samples of the lines of a tile row: Y by line, then Cb, then Cr by pairs of lines (R440). -/
def rowSamples (fmt ten : Nat) (ls : List (List Nat)) : List Nat :=
  let px := ls.map fun l => l.map (toYcc fmt ten)
  let pairs := (List.range ((px.length + 1) / 2)).map fun i => (px.getD (2 * i) [], px.getD (min (2 * i + 1) (px.length - 1)) [])
  (px.flatMap fun l => l.map (·.1)) ++
    (pairs.flatMap fun p => chroma (p.1.map (·.2.1)) (p.2.map (·.2.1))) ++
    (pairs.flatMap fun p => chroma (p.1.map (·.2.2)) (p.2.map (·.2.2)))

/-- An open bitstream unit: type, and payload behind a size of 7 bits a byte (log entry 24: AV1's own unit header). -/
def leb128 : Nat → Nat → List Byte
  | 0, _ => []
  | n + 1, x => if x < 128 then [BitVec.ofNat 8 x] else BitVec.ofNat 8 (x % 128 + 128) :: leb128 n (x / 128)
def obu (type : Nat) (payload : List Byte) : List Byte := BitVec.ofNat 8 (type * 8 + 2) :: leb128 5 payload.length ++ payload
/-- The size field at the head of a list: value and bytes. -/
def readLeb : Nat → List Byte → Nat × Nat
  | 0, _ => (0, 0)
  | _, [] => (0, 0)
  | n + 1, b :: bs => if b.toNat < 128 then (b.toNat, 1) else
    let (v, k) := readLeb n bs
    (b.toNat % 128 + 128 * v, k + 1)
/-- The types of the units of a bitstream; none where it does not divide into units, or a sequence header has another profile than 0 (the top
three bits of its first byte, R439; log entry 24). -/
def obuTypes : Nat → List Byte → Option (List Nat)
  | _, [] => some []
  | 0, _ => none
  | n + 1, b :: bs =>
    let (size, k) := readLeb 5 bs
    let profile := if b.toNat / 8 = 1 then ((bs.drop k).headD 0#8).toNat / 32 else 0
    if b.toNat % 8 ≠ 2 ∨ bs.length < k + size ∨ profile ≠ 0 then none
    else (obuTypes n (bs.drop (k + size))).map fun ts => b.toNat / 8 :: ts
/-- The units that a tile row adds (R439): with the first row of a frame a temporal delimiter (2), on key frames a sequence header (1), and a
frame header (3); then one tile group (4). -/
def rowTypes (first key : Bool) : List Nat := (if first then 2 :: (if key then [1, 3] else [3]) else []) ++ [4]
/-- Whether the current frame is a key frame (R439). -/
def keyFrame (x : Enc) : Bool := x.key
/-- What a head's tile row is coded with (R438, R439): profile 0, 4:2:0, the depth, the frame's width and height, its tile columns, superblocks of
64, base_q_idx, whether it is a key frame, and the row's first line. -/
def codeParams (s : State) (h : Nat) (x : Enc) : List Nat :=
  let b := encOff h
  [0, 420, if s.barBits b 160 160 = 0 then 8 else 10, ringWidth s h, ringAct s h, if ringWidth s h ≤ 4096 then 1 else 2, 64, s.barBits b 168 161,
    (keyFrame x).toNat, x.coded]
/-- A tile row as coded from its samples: the units of the row with open payloads, which the space that a row needs holds (R438). -/
def codeRow (params : List Nat) (first key : Bool) (samples : List Nat) : List Byte :=
  let raw := samples.flatMap fun x => toBytes x 2
  (rowTypes first key).flatMap fun t =>
    let bs := Config.codedBytes t params raw
    obu t (match t with
      | 1 => 0#8 :: bs.take 1023
      | 3 => bs.take 1024
      | 4 => bs.take (128 * params.getD 3 0)
      | _ => [])

/-- TILE_ROW_CODE (R438-R440): the next tile row is coded as the bytes given, which go to the bitstream buffer before wroff advances. A buffer
that is not mapped makes the encoder wait (log entry 25). -/
def tryTileRowCode (encoder : Nat) (coded : List Byte) (s : State) : Option State :=
  let no : Option State := none
  let h := encoder
  match mget h s.encs with
  | none => no
  | some x =>
    let b := encOff h
    let rows := x.lines.take 64
    let samples := rowSamples (ringFmt s h) (s.barBits b 160 160) rows
    let olen := s.barBits b 95 64
    let wr := s.barBits b 127 96
    let types := obuTypes (coded.length + 1) coded
    if !ringEn s h || !rowReady s h x || types != some (rowTypes (x.coded == 0) (keyFrame x)) || decide (encFree s h < coded.length) then no
    else
      let obuf := s.barBits b 51 0
      let n := min coded.length (olen - wr)
      match s.vwrite (s.headPart h) 0 ((obuf + wr) % 2 ^ 52) (coded.take n) with
      | (some _, _) => no
      | (none, t) =>
        match t.vwrite (s.headPart h) 0 obuf (coded.drop n) with
        | (some _, _) => no
        | (none, t) =>
          let t := t.setBar b 127 96 ((wr + coded.length) % olen)
          let done := x.coded + rows.length
          let ended := decide (ringAct s h ≤ done)
          let since := x.sinceKey + 1
          let y := if ended then
              { x with lines := x.lines.drop 64, frame := x.frame + 1, coded := 0, key := decide (s.barBits b 184 169 ≤ since)
                       sinceKey := if s.barBits b 184 169 ≤ since then 0 else since }
            else { x with lines := x.lines.drop 64, coded := done }
          some ({ t with encs := mset h y t.encs }.send "coded" (h :: x.frame :: codeParams s h x ++ samples))
/-- TILE_ROW_CODE: it happens where its rule lets it; elsewhere nothing happens. -/
def execTileRowCode (encoder : Nat) (coded : List Byte) (s : State) : Host.Outcome State Fault Refusal := happens s (tryTileRowCode encoder coded s)

/-- RDOFF_WRITE (R438): bitstream bytes have been read; a stalled encoder may go on. -/
def execRdoffWrite (encoder value : Nat) (s : State) : Host.Outcome State Fault Refusal :=
  .next (if encoder < 4 ∨ 132 ≤ encoder then s else s.setBar (encOff encoder) 159 128 value)

end Sys2Proof.Machine
end

