-- ==== Sys2Proof/Machine/Commit.lean ====
section
/-! DEFINITION. FRET_COMMIT (07 R227-R233): the writes that an ordered launch keeps back are performed in (group index, wave, issue)
order, then its copies, then the arrivals at its barriers, and the next fret begins. -/

namespace Sys2Proof.Machine

/-- The waves of a launch's groups in ascending (group index, wave): group, wave. -/
def fretWaves (s : State) (lid : Nat) : List (Nat × Nat) :=
  let gs := (s.groups.filter fun e => e.2.launch == lid && e.2.kind == .lane).mergeSort fun a b => decide (a.2.index ≤ b.2.index)
  gs.flatMap fun e => (List.range e.2.waves.length).map fun w => (e.1, w)

/-- Every active wave of the launch has ended the fret, and there is a fret to come (R229, R233). Its accesses that no fret keeps back are
performed. -/
def fretOver (s : State) (lid : Nat) (l : Launch) : Bool :=
  let mine := s.groups.filter fun e => e.2.launch == lid && e.2.kind == .lane
  l.card.regime == 1 && l.status == .running && !l.committing && decide (l.activated ≤ l.made) &&
  (mine.all fun e => e.2.waves.all fun w => w.ended || w.fretEnded) && s.reqs.all (fun r => !(mine.any fun e => e.1 == r.group)) &&
  ((mine.any fun e => e.2.status != .ended) || decide (l.finished < groupTotal s { l with dealt := 0, made := 0 }) ||
    s.copies.any fun e => e.2.launch == lid && e.2.held)

/-- The value of a buffered atomic joins its landing (R231). -/
def landBuffered (s : State) (g wi : Nat) (dest : Option (Nat × Nat × Nat)) (words x : Nat) (hit : Option EccHit) : State :=
  match dest with
  | none => s
  | some (id, reg, t) => s.updWave g wi fun w => { w with pend := w.pend.map fun e =>
      if e.id = id then { e with waiting := e.waiting - 1
                                 ecc := e.ecc.orElse fun _ => hit
                                 what := match e.what with | .regs v => .regs (v ++ resultWords reg words t x) | o => o } else e }

/-- Where a wave's buffered access lies while its group is saved: the VA in its context slot (R356). -/
def savedVa (s : State) (c : Ctx) (a : Nat) : Option Nat :=
  if decide (Base.local_ 0 ≤ a) && decide (a < Base.operand 0) && c.grp.status == .saved then
    some (s.slotVa c.part (c.grp.slot.getD 0) + gmemOff + (a - Base.local_ c.grp.cluster - c.grp.gmemBase))
  else none
/-- One buffered access of a wave: read, and write what `f` makes of it, unless it makes nothing. The value read. -/
def bufferedRmw (s : State) (c : Ctx) (a n : Nat) (consumer : Bool) (f : Nat → Option Nat) : Nat × Option EccHit × State :=
  match savedVa s c a with
  | some va =>
    match s.vread c.part c.l.ctx va n with
    | (.inl bs, s) =>
      match f (ofBytes bs) with
      | some y => (ofBytes bs, none, (s.vwrite c.part c.l.ctx va (toBytes y n)).2)
      | none => (ofBytes bs, none, s)
    | (.inr .ecc, s) => (0, some (mainEcc va), s)
    | (.inr _, s) => (0, none, s)
  | none => (s.occupy (banksOf (decide (Base.local_ 0 ≤ a)) a n) 3).rmw a n consumer c.who f
/-- One buffered store (R229): plain, without a read. -/
def bufferedStore (s : State) (c : Ctx) (a n x : Nat) : State :=
  if (savedVa s c a).isSome then
    (bufferedRmw s c a n false fun _ => some x).2.2
  else
    (s.occupy (banksOf (decide (Base.local_ 0 ≤ a)) a n) 1).writeMem a (toBytes x n) c.who

/-- One buffered effect of a wave is applied (R229 step 1, R231, R265, R342, R343, R424). -/
def applyBuffered (s : State) (g wi : Nat) (b : BufWrite) : State :=
  match s.ctxOf g wi with
  | none => s
  | some c =>
    let status (s : State) (dest : Nat × Nat) (full : Bool) : State :=
      c.all.foldl (fun (s : State) t => landBuffered s g wi (some (dest.1, dest.2, t)) 1 full.toNat none) s
    match b with
    | .store a n x => bufferedStore s c a n x
    | .atomic op a n x dest =>
      let (old, hit, s) := bufferedRmw s c a n dest.isSome fun old => some (atomicNew op old x)
      landBuffered s g wi dest (n / 4) old hit
    | .cas a n e x dest =>
      let (old, hit, s) := bufferedRmw s c a n true fun old => if old = e then some x else none
      landBuffered s g wi (some dest) (n / 4) old hit
    | .peg a => (bufferedRmw s c a 8 false fun old => some (old + 1)).2.2
    | .hsig k =>
      let x := s.cluster c.grp.cluster
      s.setCluster c.grp.cluster { x with h := dset 0#32 k (dget 0#32 k x.h + 1) x.h }
    | .bara k => match arrive s c k with
      | some s => s
      | none => s.takeTrap c trapSync
    | .enq addr onDie dest =>
      let full := intakeFull s c.part
      status (if full then s else joinIntake s c.part addr onDie c.l.ctx []) dest full
    | .spawn addr onDie target dest =>
      let full := decide (256 ≤ unreadChildren s c.l.root)
      let here := (treeRing s c.l.root).findIdx (· == c.grp.cluster)
      status (if full then s else spawnChild s c.l.root here target addr onDie []) dest full
    | .qseed slot stream => s.writeSeeds c.grp.cluster slot (seedBase c.l slot stream)
    | .queue n reset x => s.queueUpdate n reset x
    | .publish lid =>
      let r : RelWait := { id := s.seq, group := g, wave := wi, epoch := c.w.epoch, target := .publish lid, covers := outstanding s c, due := none }
      { s.fresh with rels := s.rels ++ [r] }

/-- The bytes that a buffered access touches. -/
def BufWrite.range : BufWrite → Option (Nat × Nat)
  | .store a n _ | .atomic _ a n _ _ | .cas a n _ _ _ => some (a, n)
  | .peg a => some (a, 8)
  | _ => none
/-- Step 1 for one buffered effect: an access comes to its banks as any other does, and a saved group's waits for a scrub (R186, R190,
R445). -/
def applyNext (s : State) (c : Ctx) (b : BufWrite) (rest : List BufWrite) : Option State :=
  let go (s : State) : Option State := some (applyBuffered (s.updWave c.g c.wi fun w => { w with buffer := rest }) c.g c.wi b)
  match b.range with
  | none => go s
  | some (a, n) => match savedVa s c a with
    | some va => match s.xlate c.part c.l.ctx va .write with
      | (.wait, _) => none
      | _ => go s
    | none => atBanks s (banksOf (decide (Base.local_ 0 ≤ a)) a n) go
/-- The wave whose turn it is in step 1: the first that holds a buffered effect, or that has left and ends now (log entry 115). -/
def commitTurn (s : State) (lid : Nat) : Option Ctx :=
  (fretWaves s lid).findSome? fun e => (s.ctxOf e.1 e.2).filter fun c => c.w.buffer != [] || (c.w.leaving && !c.w.trapped)

/-- Step 2: the copies of the fret go to the engines, in the order of issuer and issue (R231, R327). -/
def releaseCopies (s : State) (lid : Nat) : State :=
  (fretWaves s lid).foldl (fun (s : State) e =>
    (s.copies.filter fun k => k.2.group == e.1 && k.2.wave == e.2 && k.2.held).foldl (fun (s : State) k =>
      { s.fresh with copies := mupd k.1 (fun k => { k with held := false, order := s.seq }) s.copies }) s) s

/-- Step 3: a wave's arrival at a barrier is recorded. -/
def recordArrival (s : State) (g wi : Nat) : State :=
  match s.ctxOf g wi with
  | none => s
  | some c =>
    match c.w.wait with
    | .barPending k => match arrive s c k with
      | some s => s.updWave g wi fun w => { w with wait := .bar k }
      | none => s.takeTrap c trapSync
    | .gbarPending =>
      let phase := c.l.gbarPhase
      (s.updWave g wi fun w => { w with wait := .gbar phase }).gbarArrive g
    | _ => s

/-- The results of R231 are due at the first slot of a wave's next fret. -/
def dueAtFret (w : Wave) : Wave :=
  if w.ended then w else
  { w with
    retired := 0, fretEnded := false, fretChecked := false
    pend := w.pend.map fun e => if e.nextFret then { e with slot := w.slot, arrived := true, waiting := 0, nextFret := false, again := false } else e }
/-- A wave's next fret begins: what is due at its first slot lands in the order of issue; the results of a saved group wait for its
restore (R104, R119, R231). -/
def State.beginFret (s : State) (g wi : Nat) : State :=
  match s.ctxOf g wi with
  | none => s
  | some c =>
    let w := dueAtFret c.w
    if w.ended || c.grp.status == .saved then s.setWave g wi w else (s.regWrite c w w.land).setWave g wi w.land
/-- The groups of a launch whose pre-emption was asked for in an earlier fret stop at its commit, where a slot is free (R118). -/
def State.stopRequested (s : State) (lid : Nat) : State :=
  match mget lid s.launches with
  | none => s
  | some l => if (s.freeSlot l.part).isNone then s else
    { s with groups := s.groups.map fun e =>
        if e.2.launch == lid && e.2.status == .resident && requestDue s e.1 l e.2 then (e.1, { e.2 with status := .stopping }) else e }

/-- The bindings of a fret are in force from the next (R219). -/
def joinBindings (old new : List PegBinding) : List PegBinding :=
  new.foldl (fun t b => if b.len = 0 then t.filter fun e => e.peg != b.peg else t ++ [b]) old

/-- Step 3 for every wave, and the next fret (R227, R233). -/
def nextFret (s : State) (lid : Nat) : State :=
  let ws := fretWaves s lid
  let s := ws.foldl (fun (s : State) e => recordArrival s e.1 e.2) s
  let s := ws.foldl (fun (s : State) e => s.beginFret e.1 e.2) s
  match mget lid s.launches with
  | none => s
  | some l =>
    let total := groupTotal s { l with dealt := 0, made := 0 }
    let slot := match mget l.card.head s.rings with | some r => mayClaim s l.card.head l.card.strip r | none => false
    (s.updLaunch lid fun l =>
      { l with fret := l.fret + 1, committing := false, bindings := joinBindings l.bindings l.newBindings, newBindings := []
               activated := min total (orderedPlaces s l + l.finished), snap := some (takeSnap s l slot) }).stopRequested lid

/-- The copies of an ordered launch's waves that a commit performs. -/
def commitCopies (s : State) (lid : Nat) : Bool :=
  s.copies.any fun e => e.2.launch == lid && ((mget e.2.group s.groups).map fun (g : Group) => g.kind == .lane).getD false

/-- One step of a commit under way (R229): the next buffered effect, the copies together, or the arrivals and the next fret. -/
def commitStep (s : State) (lid : Nat) : Option State :=
  match commitTurn s lid with
  | some c => match c.w.buffer with
    | b :: rest => applyNext s c b rest
    | [] => some (s.endWave c.g c.wi)
  | none =>
    if s.copies.any fun e => e.2.launch == lid && e.2.held then some (releaseCopies s lid)
    else if commitCopies s lid then none
    else some (nextFret s lid)
/-- FRET_COMMIT (R229): it begins when every active wave has ended the fret, and goes on by single effects, which parties outside see one
after another. -/
def tryFretCommit (launch : Nat) (s : State) : Option State :=
  match mget launch s.launches with
  | none => none
  | some l =>
    if l.committing then (if l.status == .running then commitStep s launch else none)
    else event (fretOver s launch l) (s.updLaunch launch fun l => { l with committing := true })
/-- FRET_COMMIT: it happens where its rule lets it; elsewhere nothing happens. -/
def execFretCommit (launch : Nat) (s : State) : Host.Outcome State Fault Refusal := happens s (tryFretCommit launch s)

end Sys2Proof.Machine
end

