-- ==== Sys2Proof/Machine/Fabric.lean ====
section
/-! DEFINITION. The fabric engine (08 R239-R260; 09 R283-R285): SEND and RECV, scheduled and best-effort flits, drops, collisions and link
errors, the domain-wide halt, domain control messages, PTP, holds, TUNE, and the failure of a port. -/

namespace Sys2Proof.Machine

/-! ### Traps of a launch as a whole (R257, R283, R285) -/

/-- The top-left cluster of a launch's rectangle, and the pc of its control core (its HALT's if it has halted). -/
def topLeft (s : State) (l : Launch) : Nat := (s.cardTiles l.part l.card).headD 0
def topLeftPc (s : State) (lid : Nat) (l : Launch) : Nat := ((coreOf s lid (topLeft s l)).map fun c => c.w.pc.toNat).getD 0
/-- A record about the launch, from its top-left control core (R257, R285). -/
def launchCoreTrap (s : State) (lid : Nat) (l : Launch) (detail : Nat) : State :=
  s.launchTrap l (topLeft s l) 1 8 (topLeftPc s lid l) (topLeftPc s lid l) 0 detail 1
/-- A TIMING trap that the package raises for the launch, recorded with its top-left core as the party (log entry 136). -/
def launchTiming (s : State) (lid cause arg cf : Nat) : State :=
  match mget lid s.launches with
  | none => s
  | some l =>
    -- nothing is recorded from the halt on (R285)
    if l.haltAt.any fun h => decide (h + (if s.lfab = 0 then 1 else 0) ≤ cf) then s else
    haltFrom ((launchCoreTrap s lid l (cause + 256 * arg)).updLaunch lid fun l => { l with recorded := true }) lid cf 8

/-- The running or dispatched launch with a tag (R251): a dispatched one counts here, but not for a best-effort write (log entry 134). -/
def taggedLaunch (s : State) (tag : Nat) : Option (Nat × Launch) :=
  s.launches.find? fun e => e.2.card.pgt != 0 && e.2.tag == tag && (e.2.status == .running || e.2.status == .dispatched)

/-! ### SEND (R248, R249) -/

/-- A scheduled transfer still uses a port in the m cycles from a CYC. -/
def portTaken (s : State) (port cyc m : Nat) : Bool :=
  s.sends.any fun e => e.2.port == port && match mget e.2.launch s.launches with
    | some l =>
      let a := s.cycOf l (e.2.t + e.2.next)
      decide (a < cyc + m) && decide (cyc < a + (e.2.count - e.2.next))
    | none => false

/-- SEND (R249). -/
def sendBody (d a b : Reg) (s : State) (c : Ctx) : Res :=
  let x := (c.w.reg c.leader b.toNat).toNat
  let src := (c.w.reg c.leader a.toNat).toNat
  let dst := (c.w.reg c.leader d.toNat).toNat
  let (port, dest, m) := (bits x 5 0, bits x 15 8, bits x 28 16)
  if !c.locked then .trap (trapRegime (wordOf (.send d a b)))
  else if decide (c.card.pgt = 0) || bits x 7 6 != 0 || bits x 31 29 != 0 || m == 0 || decide (4096 < m) || decide (s.domSize ≤ dest) ||
      !bit (s.barBits (pcfgOff c.part) 127 64) port then .trap trapSync
  else if src % 64 ≠ 0 then .trap (trapAlign src)
  else if dst % 64 ≠ 0 then .trap (trapAlign dst)
  else if !s.inWindow c.part src (64 * m) || (src - 0x40000000) / 2 ^ 21 != (src + 64 * m - 1 - 0x40000000) / 2 ^ 21 then .trap (trapBounds src)
  else match c.w.stamp with
  | none => .trap (trapTiming 0x0C)
  | some t =>
    if t.toNat < s.scy c.l + 128 then .trap (trapTiming 5)
    else if portTaken s port (s.cycOf c.l t.toNat) m then .trap (trapTiming 6 port)
    else
      let k : Send := { launch := c.lid, cluster := c.grp.cluster, pc := c.w.pc, src := src, dst := dst, port := port, dest := dest, count := m
                        t := t.toNat, read := [], next := 0 }
      .done { s.fresh with sends := mset s.seq k s.sends } c.next
/-- SEND (R248, R249). -/
def execSend (d a b : Reg) (s : State) : Host.Outcome State Fault Refusal :=
  s.issue { ins := .send d a b, who := .core, uses := [r1 d, r1 a, r1 b] } (sendBody d a b)

/-- A launch sends and starts commands until its halt (R284). -/
def sending (s : State) (l : Launch) : Bool :=
  l.status == .running && match l.haltAt with | some h => decide (s.cyc < h) | none => true

/-- FLIT_SOURCE_READ (R249): at SCY t + k − 96 the source is read, a locked request at its banks. One that finds them busy or asleep raises
TIMING; the flit carries what they hold (log entry 21). -/
def tryFlitSourceRead (send k : Nat) (s : State) : Option State :=
  let no : Option State := none
  match mget send s.sends with
  | none => no
  | some x =>
    match mget x.launch s.launches with
    | none => no
    | some l =>
      let ok := sending s l && decide (k < x.count) && decide (x.next ≤ k) && (mget k x.read).isNone && s.scyPast l (x.t + k - 96)
      let parts := [(s.windowAddr l.part (x.src + 64 * k), 64)]
      let t := match bankFault s parts with
        | some cause => engineTrap s (coreOf s x.launch x.cluster) x.pc cause
        | none => s
      let r := readParts (touchBanks t parts) parts (some (l.part, l.ctx))
      event ok { r.2.2 with sends := mupd send (fun x => { x with read := mset k (r.1, r.2.1) x.read }) r.2.2.sends }
/-- FLIT_SOURCE_READ: it happens where its rule lets it; elsewhere nothing happens. -/
def execFlitSourceRead (send k : Nat) (s : State) : Host.Outcome State Fault Refusal := happens s (tryFlitSourceRead send k s)

/-- FLIT_SEND (R249): at SCY t + k flit k leaves on the port. -/
def tryFlitSend (send k : Nat) (s : State) : Option State :=
  let no : Option State := none
  match mget send s.sends with
  | none => no
  | some x =>
    match mget x.launch s.launches, mget k x.read with
    | some l, some (bs, p) =>
      let last := k % 8 == 7 || k + 1 == x.count
      let t := s.send "flit" ([x.port, x.dest, ownPos s, l.tag, x.dst + 64 * k, k, p, last.toNat] ++ bs.map BitVec.toNat)
      event (sending s l && k == x.next && s.scyPast l (x.t + k))
        { t with
          portUsed := mset x.port (s.cyc + 1, (dget (0, 0) x.port s.portUsed).2) t.portUsed
          sends := if k + 1 = x.count then mdel send t.sends
                          else mupd send (fun x => { x with next := k + 1, read := mdel k x.read }) t.sends }
    | _, _ => no
/-- FLIT_SEND: it happens where its rule lets it; elsewhere nothing happens. -/
def execFlitSend (send k : Nat) (s : State) : Host.Outcome State Fault Refusal := happens s (tryFlitSend send k s)

/-! ### RECV (R250) -/

/-- Windows of a partition on a port counted at an SCY of a launch (R250): armed, and not closed by then. -/
def countedWindows (s : State) (lid : Nat) (l : Launch) (port y : Nat) : List Window :=
  s.windows.filter fun w => w.port == port && match mget w.launch s.launches with
    | some k => k.part == l.part && (match w.close with
        | some z => if w.launch = lid then decide (y < z) else decide (s.cycOf l y < s.cycOf k z)
        | none => true)
    | none => false

/-- RECV (R250). -/
def recvBody (d a b : Reg) (s : State) (c : Ctx) : Res :=
  let base := (c.w.reg c.leader a.toNat).toNat
  let len := (c.w.reg c.leader b.toNat).toNat
  let x := (c.w.reg c.leader d.toNat).toNat
  let port := bits x 5 0
  let counted (t : Nat) := countedWindows s c.lid c.l port t
  if !c.locked then .trap (trapRegime (wordOf (.recv d a b)))
  else if decide (c.card.pgt = 0) || bits x 7 6 != 0 || bits x 31 17 != 0 then .trap trapSync
  else if base % 64 ≠ 0 then .trap (trapAlign base)
  else if len % 64 ≠ 0 then .trap (trapAlign len)
  else if !s.inWindow c.part base len then .trap (trapBounds base)
  else match c.w.stamp with
  | none => .trap (trapTiming 0x0C)
  | some t =>
    let t := t.toNat
    if len ≠ 0 ∧ ((counted t).any (fun w => decide (base < w.base + w.len) && decide (w.base < base + len)) ||
        decide (16 ≤ ((counted t).filter fun w => w.launch == c.lid).length)) then .trap trapSync
    else if t < s.scy c.l + 128 then .trap (trapTiming 5)
    else if len = 0 then
      .done { s with windows := s.windows.map fun (w : Window) =>
        if w.launch = c.lid ∧ w.port = port ∧ w.base = base then { w with close := some (min t (w.close.getD t)) } else w } c.next
    else
      let w : Window := { launch := c.lid, port := port, base := base, len := len, src := bits x 15 8, any_ := bit x 16, from_ := t, close := none }
      .done { s with windows := s.windows ++ [w] } c.next
/-- RECV (R250). -/
def execRecv (d a b : Reg) (s : State) : Host.Outcome State Fault Refusal :=
  s.issue { ins := .recv d a b, who := .core, uses := [r1 d, r1 a, r1 b] } (recvBody d a b)

/-! ### Drops (R252) -/

/-- A record of the fabric drop log; the first of a port in each 2^20 cycles also posts an event. -/
def dropPut (s : State) (a : DropAcc) : State :=
  let b := dropLogOff
  let next := s.barBits (b + 0x400) 10 6
  let count := s.barBits (b + 0x400) 5 0
  let head := a.port + 64 * a.cls + 256 * a.reason
  let r := record 32 [(0, head), (16, a.src), (32, a.tag), (64, a.dst), (96, a.flits), (128, a.cyc)]
  let s := { s with bar := s.bar.setBytes (b + 0x20 * next) r }
  let s := s.setBar (b + 0x400) 10 6 ((next + 1) % 32)
  let s := if count < 32 then s.setBar (b + 0x400) 5 0 (count + 1)
    else s.setBar (b + 0x400) 31 16 (min 0xFFFF (s.barBits (b + 0x400) 31 16 + 1))
  let period := s.cyc / 2 ^ 20 + 1
  if dget 0 a.port s.dropSeen = period then s
  else ({ s with dropSeen := mset a.port period s.dropSeen }).hostError 0x74 a.part head a.tag a.dst a.src
/-- A flit is dropped for a reason; its group's record waits for the group's last flit (R252). The class is the flit's, 2 for one of a checkpoint
(log entry 132). -/
def dropFlit (s : State) (f : Flit) (part : Option Nat) (reason : Nat) : State :=
  let mine (a : DropAcc) : Bool := a.port == f.port && a.cls == f.kind % 4 && a.src == f.src && a.tag == f.tag && a.reason == reason
  if s.dropPend.any mine then
    { s with dropPend := s.dropPend.map fun (a : DropAcc) => if mine a then { a with flits := a.flits + 1 } else a }
  else
    { s with dropPend := s.dropPend ++ [{ port := f.port, cls := f.kind % 4, src := f.src, tag := f.tag, part := part, reason := reason
                                          dst := f.addr, cyc := s.cyc, flits := 1 }] }
/-- With the last flit of its group, the group's records are written, in ascending reason order; a group that is cut short keeps them pending until
a later last flit of its port, class, sender and tag (log entry 133). -/
def endFlit (s : State) (f : Flit) : State :=
  if !bit f.kind 3 then s else
  let mine (a : DropAcc) : Bool := a.port == f.port && a.cls == f.kind % 4 && a.src == f.src && a.tag == f.tag
  let recs := (s.dropPend.filter mine).mergeSort fun a b => decide (a.reason ≤ b.reason)
  recs.foldl (fun (s : State) a => dropPut s a) { s with dropPend := s.dropPend.filter fun a => !mine a }
/-- A group lost whole, with the flits it had (R246, R252, R253). -/
def dropGroupWhole (s : State) (f : Flit) (flits reason : Nat) : State :=
  dropPut s { port := f.port, cls := f.kind % 4, src := f.src, tag := f.tag, part := (taggedLaunch s f.tag).map (·.2.part), reason := reason
              dst := f.addr, cyc := s.cyc, flits := flits }

/-- FDLOGACK (R252): as ELOGACK. -/
def execFdlogack (n : Nat) (s : State) : Host.Outcome State Fault Refusal :=
  let k := s.barBits (dropLogOff + 0x400) 5 0
  .next (s.setBar (dropLogOff + 0x400) 5 0 (k - min (n % 64) k))

/-! ### Landings (R251, R254) -/

/-- FLIT_LANDING (R245, R251): a scheduled flit arrives, and is padded to the cycle of its sending plus L_fab; then a window accepts it, or it
is dropped. A bank that is not ready is recorded with the launch's top-left core as the party (log entry 136). -/
def tryFlitLanding (f : Flit) (s : State) : Option State :=
  let ok := f.kind % 4 == 0 && f.data.length == 64 && f.addr % 64 == 0
  if s.cyc < f.arrival then event (ok && !s.padded.contains f) { s with padded := s.padded ++ [f] } else
  let holds := s.windows.filterMap fun w => match armed s w with
    | some l => if w.port == f.port && l.tag == f.tag && decide (w.base ≤ f.addr) && decide (f.addr + 64 ≤ w.base + w.len) then some (w, l) else none
    | none => none
  let t := match holds.find? fun e => e.1.any_ || e.1.src == f.src with
    | some (w, l) =>
      let parts := [(s.windowAddr l.part f.addr, 64)]
      let t := match bankFault s parts with
        | some cause => launchTiming s w.launch cause 0 s.cyc
        | none => s
      writeParts (touchBanks t parts) parts f.data f.poison (some (l.part, l.ctx))
    | none =>
      let reason := if holds ≠ [] then 1 else if (taggedLaunch s f.tag).isNone then 2 else 0
      dropFlit s f ((taggedLaunch s f.tag).map (·.2.part)) reason
  let t := endFlit t f
  event (ok && s.cyc == f.arrival) { t with padded := t.padded.filter (· != f) }
/-- FLIT_LANDING: it happens where its rule lets it; elsewhere nothing happens. -/
def execFlitLanding (f : Flit) (s : State) : Host.Outcome State Fault Refusal := happens s (tryFlitLanding f s)

/-- Where a best-effort write lands, and for whom: a write footprint of the peer card admits it (R254). -/
def bestEffortPlace (s : State) (f : Flit) : Option (Launch × List (Nat × Nat)) :=
  (taggedLaunch s f.tag).bind fun e =>
    let l := e.2
    if l.status == .running && s.inWindow l.part f.addr f.data.length && l.card.footprints.any fun p =>
        p.space == 1 && p.writes && decide (p.base ≤ f.addr) && decide (f.addr + f.data.length ≤ p.base + p.len)
    then some (l, windowParts s l.part f.addr f.data.length) else none
/-- The fate of a best-effort write (R254, R329): performed at its banks, or dropped and refused. The answer tells of poison (R325). -/
def landBestEffort (s : State) (f : Flit) : State :=
  let answer (s : State) (bad : Bool) : State := s.send "best-effort-answer" [f.src, f.tag, f.seq, f.addr, bad.toNat, f.poison]
  let t := match bestEffortPlace s f, taggedLaunch s f.tag with
    | some (l, parts), _ => answer (writeParts (touchBanks s parts) parts f.data f.poison (some (l.part, l.ctx))) false
    | none, none => answer (dropFlit s f none 2) true
    | none, some (_, l) => answer (dropFlit s f (some l.part) (if l.status = .running then 3 else 2)) true
  endFlit t f
/-- What has come waits behind what came on its port before it, and for its banks; a bank in retention wakes (R186, R190, R254). -/
def inboxPort : Instr → Option Nat
  | .bestEffortFlit f => some f.port
  | .packetDelivery _ => some 64
  | _ => none
/-- An input from outside that writes banks: it takes place, or joins those that wait. -/
def arriveAt (s : State) (i : Instr) (bs : List Nat) (go : State → State) : State :=
  let wait (s : State) : State := { s with inbox := s.inbox ++ [i] }
  if s.inbox.any fun k => inboxPort k == inboxPort i then wait s
  else if bankWaits s bs then wait s
  else if bs.any (asleep s) then wait (s.occupy bs 24)
  else go s
/-- BEST_EFFORT_FLIT (R254, R329): a remote write arrives; or the answer to a piece of ours does. -/
def tryBestEffortFlit (f : Flit) (s : State) : Option State :=
  if bit f.kind 4 then
    match mget f.seq s.copies with
    | some k =>
      let t := if bit f.kind 5 then batchBit s k 1 else if f.poison ≠ 0 then batchBit s k 4 else s
      event (k.remote.contains f.addr) (pieceDone t f.seq f.addr)
    | none => some s
  else
    event (f.kind % 4 == 1) (arriveAt s (.bestEffortFlit f) (partBanks (((bestEffortPlace s f).map (·.2)).getD [])) (landBestEffort · f))
/-- BEST_EFFORT_FLIT: it happens where its rule lets it; elsewhere nothing happens. -/
def execBestEffortFlit (f : Flit) (s : State) : Host.Outcome State Fault Refusal := happens s (tryBestEffortFlit f s)

/-- COLLISION (R253): a group is lost at a switch. The receiving package logs it; the sending package's launch takes a TIMING trap at the
collision's cycle. -/
def tryCollision (f : Flit) (flits : Nat) (s : State) : Option State :=
  let s1 := if f.dst = ownPos s then dropGroupWhole s f flits 4 else s
  let t := if f.src = ownPos s then
      match taggedLaunch s1 f.tag with
      | some (lid, _) => launchTiming s1 lid 7 f.port f.arrival
      | none => s1
    else s1
  event (f.kind % 4 == 0 && decide (f.arrival ≤ s.cyc) && decide (1 ≤ flits) && decide (flits ≤ 8)) t
/-- COLLISION: it happens where its rule lets it; elsewhere nothing happens. -/
def execCollision (f : Flit) (flits : Nat) (s : State) : Host.Outcome State Fault Refusal := happens s (tryCollision f flits s)

/-- LINK_ERROR (R246): a scheduled group is lost at the receiving port, and its launch takes a TIMING trap; a best-effort group is sent again. -/
def tryLinkError (f : Flit) (flits : Nat) (s : State) : Option State :=
  let t := if f.kind % 4 ≠ 0 then s else
    let s1 := dropGroupWhole s f flits 5
    match taggedLaunch s1 f.tag with
    | some (lid, _) => launchTiming s1 lid 8 f.port s.cyc
    -- no card with the tag runs here: the sending launch halts all the same (log entry 116)
    | none => if 1 < s.domSize then s1.send "halt-notice" [f.tag, s.cyc + s.lfab, 8] else s1
  event (decide (1 ≤ flits) && decide (flits ≤ 8)) t
/-- LINK_ERROR: it happens where its rule lets it; elsewhere nothing happens. -/
def execLinkError (f : Flit) (flits : Nat) (s : State) : Host.Outcome State Fault Refusal := happens s (tryLinkError f flits s)

/-! ### The domain-wide halt (R243, R283-R285) -/

/-- HALT_NOTICE (R243, R283): a package of the launch has trapped; it halts here at the same CYC. -/
def execHaltNotice (m : Notice) (s : State) : Host.Outcome State Fault Refusal :=
  .next <| match taggedLaunch s m.tag with
    | some (lid, _) => s.updLaunch lid fun l => { l with haltAt := some (min m.haltAt (l.haltAt.getD m.haltAt)) }
    | none => s

/-- Commands of a launch stamped for the SCY of the halt or later are discarded (R284): matrix commands, copies, table loads, SENDs, windows and
their closes. -/
def dropUnstarted (s : State) (lid : Nat) : State :=
  let y := ((mget lid s.launches).map s.scy).getD 0
  { s with
    clusters := s.clusters.map fun e => if e.2.claim = some lid then
      (e.1, { e.2 with cmds := e.2.cmds.filter fun m => match m.stamp with | some t => decide (t < y) | none => true }) else e
    copies := s.copies.filter fun e => e.2.launch != lid || match e.2.start with | some t => decide (t < y) | none => true
    sends := s.sends.filter fun e => e.2.launch != lid
    windows := (s.windows.filter fun w => w.launch != lid || decide (w.from_ < y)).map fun (w : Window) =>
      if w.launch = lid then { w with close := w.close.filter (decide <| · < y) } else w }

/-- LOCKED_HALT (R284, R285): at H the launch stops here. Its state stays as it is until it is killed. -/
def tryLockedHalt (launch : Nat) (s : State) : Option State :=
  let no : Option State := none
  match mget launch s.launches with
  | none => no
  | some l =>
    match l.haltAt with
    | none => no
    | some h =>
      let t := dropUnstarted s launch
      let t := if l.recorded then t else launchCoreTrap t launch l 0x0F
      let t := (t.haltLaunch launch).updLaunch launch fun l => { l with recorded := true, closeAt := some (h + s.lfab) }
      event ((l.status == .running || l.status == .dispatched) && decide (h ≤ s.cyc)) { t with turn := none }
/-- LOCKED_HALT: it happens where its rule lets it; elsewhere nothing happens. -/
def execLockedHalt (launch : Nat) (s : State) : Host.Outcome State Fault Refusal := happens s (tryLockedHalt launch s)

/-- RECEIVE_WINDOW_CLOSE (R284): the windows of a halted launch close at H + L_fab. -/
def tryReceiveWindowClose (launch : Nat) (s : State) : Option State :=
  match (mget launch s.launches).bind fun l => l.closeAt with
  | none => none
  | some t => event (decide (t ≤ s.cyc))
      ({ s with windows := s.windows.filter fun w => w.launch != launch }.updLaunch launch fun l => { l with closeAt := none })
/-- RECEIVE_WINDOW_CLOSE: it happens where its rule lets it; elsewhere nothing happens. -/
def execReceiveWindowClose (launch : Nat) (s : State) : Host.Outcome State Fault Refusal := happens s (tryReceiveWindowClose launch s)

/-! ### Domain control messages, mapping and PTP (R240-R243) -/

/-- A checkpoint is under way, or starts within 4,096 cycles (R255). -/
def ckptNear (s : State) : Bool := match s.ckpt with | some (f, _, _) => decide (f ≤ s.cyc + 4096) | none => false

/-- A stop announced for a CYC takes its place before those that start later (R255; log entry 117). -/
def insertStop (holds : List (Nat × Nat)) (start n : Nat) : List (Nat × Nat) :=
  (holds.filter fun e => decide (e.1 ≤ start)) ++ [(start, n)] ++ holds.filter fun e => decide (start < e.1)
/-- The hold requests go, with a checkpoint that comes near (R255). -/
def dropRequests (s : State) : State := { s with holdReqs := [], holdSince := none }
/-- A hold request reaches the master (R255). -/
def requestHold (s : State) (h : Nat) : State :=
  if ckptNear s then s else { s with holdReqs := s.holdReqs ++ [h], holdSince := some (s.holdSince.getD s.cyc) }
/-- A checkpoint of 16,384·m cycles is announced for a CYC: it stops what a hold stops (R468), and requests that come near it are not
announced (R255). -/
def announceCheckpoint (s : State) (start m : Nat) : State :=
  let s := if start ≤ s.cyc + 4096 then dropRequests s else s
  { s with ckpt := some (start, 16384 * m, false), ckptDone := false, ckptNew := [], ckptOut := none, holds := insertStop s.holds start (16384 * m) }
/-- A fault voids the checkpoint that is under way (R470). -/
def voidCheckpoint (s : State) : State := { s with ckpt := s.ckpt.map fun k => (k.1, k.2.1, true) }

/-- An entry of the master's list names a launch: by its tag, or one without a process-group table by its package and start cycle. -/
def isAbroad (a : Abroad) (tag pos start : Nat) : Bool := a.tag == tag && (tag != 0 || (a.pos == pos && a.start == start))
/-- The launch that a correction of the master is for (R258). -/
def correctedLaunch (s : State) (tag pos start : Nat) : Option (Nat × Launch) :=
  if tag ≠ 0 then taggedLaunch s tag
  else s.launches.find? fun e => e.2.card.pgt == 0 && e.2.card.regime == 2 && State.alive e.2 && pos == ownPos s && e.2.start == some start
/-- Cycles that TUNE has inserted since a CYC: a correction sent before is lowered by them (R258). -/
def insertedSince (l : Launch) (t : Nat) : Nat := ((l.inserted.filter fun e => decide (t ≤ e.1)).map (·.2)).foldl (· + ·) 0
/-- Launches that end with the domain (R470). -/
def domainLaunch (l : Launch) : Bool := l.card.pgt != 0 && l.card.regime == 2
/-- A package of the domain is lost (R470): the checkpoint under way is void, and the domain's launches halt. -/
def packageLost (s : State) (pkg : Nat) : State :=
  let ls := s.launches.filter fun e => domainLaunch e.2 && (e.2.status == .running || e.2.status == .dispatched)
  let t := ls.foldl (fun (t : State) e => haltFrom t e.1 s.cyc 8) (voidCheckpoint s)
  { t with lost := some pkg }

/-- A checkpoint-class flit to a package: a line at a physical address there (R469). -/
def sendLine (s : State) (dest addr : Nat) (bs : List Byte) (poison : Nat) : State :=
  s.send "checkpoint" ([dest, ownPos s, addr, poison] ++ bs.map BitVec.toNat)
/-- A slot of the CKIN pair is read back and sent, by the same class, to the package that the partition manager names (R469). -/
def sendSlot (s : State) (dest slot : Nat) : State :=
  let base := s.barBits ckinOff 51 12 * 2 ^ 12 + 2 ^ 34 * slot
  let mine := s.mem.filter fun c => decide (Base.lpddr + base ≤ c.1) && decide (c.1 < Base.lpddr + base + 2 ^ 34)
  if !s.barFlag ckinOff 63 then s else
  ((mine.map fun (c : Host.Cell) => (c.1 - Base.lpddr) / 64).eraseDups).foldl (fun (s : State) k =>
    sendLine s dest (64 * k) (s.mem.bytes (Base.lpddr + 64 * k) 64) (s.mainPoison (64 * k) 64)) s
/-- DOMAIN_CONTROL_MESSAGE (R243): a message of another package arrives (kinds at `DomainMsg`). -/
def execDomainControlMessage (m : DomainMsg) (s : State) : Host.Outcome State Fault Refusal :=
  let arg (i : Nat) : Nat := m.args.getD i 0
  .next <| match m.kind with
    | 0 =>
      -- the master sends a change at least 4,096 cycles before it takes effect (R242)
      let t := if isMaster s then max (arg 0) (s.cyc + 4096) else arg 0
      let u := if isMaster s && decide (1 < s.domSize) then s.send "domain" [0, t, arg 1, arg 2, arg 3] else s
      { u with ptpNext := u.ptpNext ++ [(t, { cyc := arg 1, base := arg 2, delta := arg 3 })] }
    | 1 => if isMaster s then requestHold s (arg 0) else s
    | 2 => { s with holds := insertStop s.holds (arg 1 + 4096) (arg 0) }
    | 3 => match correctedLaunch s (arg 0) (arg 4) (arg 5) with
      | some (lid, _) => s.updLaunch lid fun l => { l with corrNext := l.corrNext ++ [(arg 2, arg 1 - insertedSince l (arg 3))] }
      | none => s
    | 4 => match taggedLaunch s (arg 0) with
      | some (lid, _) => s.updLaunch lid fun l => { l with reports := l.reports ++ [(arg 1, arg 2, arg 3, s.cyc)] }
      | none =>
        let report (a : Abroad) : Abroad :=
          if a.tag = arg 0 ∧ a.tag ≠ 0 then { a with reports := a.reports ++ [(arg 1, arg 2, arg 3, s.cyc)] } else a
        { s with abroad := s.abroad.map report }
    | 5 => announceCheckpoint s (arg 1) (arg 0)
    | 6 => { s with missed := mdel (arg 0) s.missed }
    | 7 => voidCheckpoint s
    | 8 => packageLost s (arg 0)
    | 9 =>
      let tuned (a : Abroad) : Abroad :=
        if isAbroad a (arg 2) (arg 3) (arg 4) then { a with tuned := a.tuned + arg 1, corr := a.corr - arg 1 } else a
      { s with insertions := (s.insertions.filter fun e => decide (s.cyc < e.1 + e.2)) ++ [(arg 0, arg 1)], abroad := s.abroad.map tuned }
    | 10 =>
      let a : Abroad :=
        { tag := arg 0, pos := arg 1, start := arg 2, startTime := arg 3, tuned := 0, corr := 0, positions := m.args.drop 4, reports := [] }
      if !isMaster s || (taggedLaunch s (arg 0)).isSome || s.abroad.any (fun a => isAbroad a (arg 0) (arg 1) (arg 2)) then s
      else { s with abroad := s.abroad ++ [a] }
    | 11 => { s with abroad := s.abroad.filter fun a => !isAbroad a (arg 0) (arg 1) (arg 2) }
    | 12 => sendSlot s (arg 0) (arg 1 % 2)
    | _ => s

/-- MAPPING_UPDATE (R242): the mapping announced for this CYC is applied. -/
def tryMappingUpdate (s : State) : Option State :=
  -- of those that are due, the one whose CYC is the earliest
  match (s.ptpNext.filter fun e => decide (e.1 ≤ s.cyc)).foldl (fun (b : Option (Nat × PtpMap)) e =>
      match b with | some x => if e.1 < x.1 then some e else b | none => some e) none with
  | none => none
  | some e => some { s with ptp := e.2, ptpNext := s.ptpNext.erase e }
/-- MAPPING_UPDATE: it happens where its rule lets it; elsewhere nothing happens. -/
def execMappingUpdate (s : State) : Host.Outcome State Fault Refusal := happens s (tryMappingUpdate s)

/-- PTP_MESSAGE (R241): an event message is timestamped at the port; requests are answered with the time of receipt, the rest goes to the servo
with the port's role (whose new mapping comes as a message of kind 0, and is served to the domain as the mapping). A one-step Sync carries its
time, a two-step one has it in the Follow_Up of its number; after a Sync the port sends its own Delay_Req (log entry 104). Only the master's
port takes part. -/
def execPtpMessage (m : PtpMsg) (s : State) : Host.Outcome State Fault Refusal :=
  let now := s.tOfCyc s.cyc / 2 ^ 40
  .next <| if !isMaster s || !s.barFlag tbcfgOff 1 then s
    else if m.kind = 2 ∨ m.kind = 4 then s.send "ptp" [m.kind + 1, m.seq, now]
    else
      let t := s.send "ptp-servo" [m.kind, m.seq, now, m.sent, wrapInt 64 m.correction, s.barBits tbcfgOff 2 2]
      if m.kind = 0 then (t.send "ptp" [2, m.seq, now]).send "ptp" [4, m.seq, now] else t

/-- TIMEBASE_EVENT (R240): the servo finds f_ref outside its band (1), or has lost lock (2). CYC goes on. -/
def tryTimebaseEvent (code : Nat) (delta : Int) (s : State) : Option State :=
  event (code == 1 || code == 2) (s.hostError 0x73 none code 0 0 (wrapInt 64 delta))
/-- TIMEBASE_EVENT: it happens where its rule lets it; elsewhere nothing happens. -/
def execTimebaseEvent (code : Nat) (delta : Int) (s : State) : Host.Outcome State Fault Refusal := happens s (tryTimebaseEvent code delta s)

/-- PORT_FAILURE (R239, R470, R474): the port is no longer good, the package leaves its domain, and the launches of the domain halt. -/
def tryPortFailure (port : Nat) (s : State) : Option State :=
  let t := s.setBar capsOff (32 + port) (32 + port) 0
  let many := decide (1 < s.domSize)
  let t := if !many then t else
    let t := (t.launches.filter fun e => e.2.card.pgt != 0 && e.2.card.regime == 2 && (e.2.status == .running || e.2.status == .dispatched)).foldl
      (fun (t : State) e => haltFrom t e.1 s.cyc 8) t
    { ((voidCheckpoint t).send "domain" [8, ownPos s, port]) with lost := some (ownPos s), domSize := 1, lfab := 0 }
  event (decide (port < 64) && s.barFlag capsOff (32 + port)) t
/-- PORT_FAILURE: it happens where its rule lets it; elsewhere nothing happens. -/
def execPortFailure (port : Nat) (s : State) : Host.Outcome State Fault Refusal := happens s (tryPortFailure port s)

/-! ### Holds (R255, R256, R259) -/

/-- HOLD_REQUEST (R255): this package asks the master for a hold. -/
def tryHoldRequest (cycles : Nat) (s : State) : Option State :=
  let t := if isMaster s then requestHold s cycles else s.send "domain" [1, cycles]
  event ([256, 1024, 4096, 16384].contains cycles) t
/-- HOLD_REQUEST: it happens where its rule lets it; elsewhere nothing happens. -/
def execHoldRequest (cycles : Nat) (s : State) : Host.Outcome State Fault Refusal := happens s (tryHoldRequest cycles s)
/-- HOLD_ANNOUNCE (R255): the master merges the requests that it holds. -/
def tryHoldAnnounce (s : State) : Option State :=
  let h := (s.holdReqs.max?).getD 0
  let t := { dropRequests s with holds := insertStop s.holds (s.cyc + 4096) h }
  event (isMaster s && s.holdReqs != []) (if 1 < s.domSize then t.send "domain" [2, h, s.cyc] else t)
/-- HOLD_ANNOUNCE: it happens where its rule lets it; elsewhere nothing happens. -/
def execHoldAnnounce (s : State) : Host.Outcome State Fault Refusal := happens s (tryHoldAnnounce s)
/-- An insertion of a launch of the domain is under way (R255). -/
def inserting (s : State) : Bool := (s.launches.any fun e => e.2.tune.isSome && State.alive e.2) || s.insertions.any fun e => s.underWay (some e)
/-- The accesses of running matrix commands that are not under way when a stop of n cycles starts at a CYC reach their banks n cycles later
(R255, R286). -/
def pauseAccesses (s : State) (start n : Nat) (p : Nat → Bool) : State :=
  let later (r : Req) : Option Nat := (s.reqCtx r).bind fun c =>
    if 1024 ≤ r.wave && p c.lid && decide (start + 10 + s.dist c.part c.grp.cluster ((r.addr - Base.slice 0) / 2 ^ 21) ≤ r.due.getD 0)
    then some (r.due.getD 0 + n) else none
  { s with reqs := s.reqs.map fun r => match later r with | some d => { r with arrive := d, due := some d } | none => r }
/-- HOLD_START (R255, R259): the first hold announced starts at its CYC, at the end of the hold before it and of an insertion under way. -/
def tryHoldStart (s : State) : Option State :=
  match s.holds with
  | [] => none
  | (t, h) :: rest =>
    let t1 := s.launches.foldl (fun (t : State) e => keepEarly t e.1 s.cyc (s.scy e.2)) (pauseAccesses s s.cyc h fun _ => true)
    event (s.hold.isNone && !inserting s && decide (t ≤ s.cyc)) { t1 with hold := some (s.cyc, h), holds := rest, powerHold := false }
/-- HOLD_START: it happens where its rule lets it; elsewhere nothing happens. -/
def execHoldStart (s : State) : Host.Outcome State Fault Refusal := happens s (tryHoldStart s)
/-- A stop ends: the SCY of every launch that it stopped has lost its cycles (R27). -/
def endStop (s : State) (f n : Nat) (p : Nat → Bool) : State :=
  { s with launches := s.launches.map fun e =>
      match e.2.start with
      | some c => if p e.1 ∧ c < f + n ∧ (e.2.status = .running ∨ e.2.status = .dispatched ∨ e.2.status = .halted) then
          (e.1, { e.2 with stopped := e.2.stopped + (f + n - max f c), stops := e.2.stops ++ [(s.scy e.2, f + n - max f c)] }) else e
      | none => e }
/-- HOLD_END (R255). -/
def tryHoldEnd (s : State) : Option State :=
  match s.hold with
  | none => none
  | some (f, n) => event (decide (f + n ≤ s.cyc)) { (endStop s f n fun _ => true) with hold := none }
/-- HOLD_END: it happens where its rule lets it; elsewhere nothing happens. -/
def execHoldEnd (s : State) : Host.Outcome State Fault Refusal := happens s (tryHoldEnd s)

/-! ### TUNE (R257, R258) -/

/-- The pending correction in effect (R258). -/
def corrNow (s : State) (l : Launch) : Nat :=
  (((l.corrNext.filter fun e => decide (e.1 ≤ s.cyc)).getLast?).map (·.2)).getD l.corr
/-- The correction that a launch will have at a CYC (R258), in whole cycles: its scheduled time, T_start + (s + H(s))·4/9 ns, less the PTP time
of the CYC. The SCY of a restored launch counts from its checkpoint's (log entry 105). -/
def correction (s : State) (startTime start tuned cyc : Nat) : Nat :=
  (ptpNs startTime * 2 ^ 40 + (cyc - start - tuned) * 2 ^ 42 / 9 - s.tOfCyc cyc) / s.ptp.delta
def corrAt (s : State) (l : Launch) (cyc : Nat) : Nat := correction s l.card.startTime (l.start.getD cyc) l.tuned cyc
/-- The master announces the changes of the corrections that come in 4,096 cycles (R258). -/
def announceCorrections (s : State) : State :=
  if !isMaster s ∨ s.ptp.delta = 0 then s else
  let t := s.cyc + 4096
  -- launches of other packages only
  let s := s.abroad.foldl (fun (s : State) a =>
    let x := correction s a.startTime a.start a.tuned t
    if x = a.corr then s else
    { s.send "domain" [3, a.tag, x, t, s.cyc, a.pos, a.start] with abroad := s.abroad.map fun (b : Abroad) => if b = a then { b with corr := x } else b }) s
  s.launches.foldl (fun (s : State) e =>
    let l := e.2
    if l.card.regime ≠ 2 ∨ l.status ≠ .running then s else
    let x := corrAt s l t
    if x = ((l.corrNext.getLast?).map (·.2)).getD l.corr then s else
    let s := s.updLaunch e.1 fun l => { l with corrNext := l.corrNext ++ [(t, x)] }
    if 1 < s.domSize ∧ l.card.pgt ≠ 0 then s.send "domain" [3, l.tag, x, t, s.cyc, ownPos s, l.start.getD 0] else s) s

/-- TUNE n (R257): the insertion is the one that the top-left core's n gives. -/
def tuneBody (n : Nat) (s : State) (c : Ctx) : Res :=
  if !c.locked then .done s c.next else
  let e := corrNow s c.l
  let k := min n (min e 16384)
  let y := s.scy c.l
  let note (l : Launch) : Launch :=
    if l.tunes.any fun t => t.1 == y && t.2.1 == n then
      { l with tunes := l.tunes.map fun t => if t.1 == y && t.2.1 == n then (t.1, t.2.1, c.grp.cluster :: t.2.2) else t }
    else { l with tunes := l.tunes ++ [(y, n, [c.grp.cluster])] }
  let s := s.updLaunch c.lid note
  if c.grp.cluster = topLeft s c.l ∧ 0 < k then
    let coming := (c.l.corrNext.filter fun x => decide (s.cyc < x.1)).map fun x => (x.1, x.2 - k)
    let s := keepEarly (pauseAccesses s (s.cyc + 1) k (· == c.lid)) c.lid (s.cyc + 1) (y + 1)
    let s := s.updLaunch c.lid fun l => { l with tune := some (s.cyc + 1, k), corr := e - k, corrNext := coming, tuned := l.tuned + k
                                                 inserted := l.inserted ++ [(s.cyc + 1, k)] }
    -- packages that do not run the launch learn of the insertion (log entry 103)
    .done (if 1 < s.domSize then s.send "domain" [9, s.cyc + 1, k, c.l.tag, ownPos s, c.l.start.getD 0] else s) c.next
  else .done s c.next
/-- TUNE (R257). -/
def execTune (imm : BitVec 16) (s : State) : Host.Outcome State Fault Refusal :=
  s.issue { ins := .tune imm, who := .core } (tuneBody imm.toNat)

/-- TUNE_INSERTION_END (R257). -/
def tryTuneInsertionEnd (launch : Nat) (s : State) : Option State :=
  match (mget launch s.launches).bind fun l => l.tune with
  | none => none
  | some (f, n) => event (decide (f + n ≤ s.cyc))
      ((endStop s f n (· == launch)).updLaunch launch fun l => { l with tune := none })
/-- TUNE_INSERTION_END: it happens where its rule lets it; elsewhere nothing happens. -/
def execTuneInsertionEnd (launch : Nat) (s : State) : Host.Outcome State Fault Refusal := happens s (tryTuneInsertionEnd launch s)

/-- The cores of a launch that take part in a TUNE: its control streams. -/
def tuneCores (s : State) (lid : Nat) : List Nat :=
  (s.groups.filter fun e => e.2.launch == lid && e.2.kind == .stream).map fun e => e.2.cluster
/-- The positions of a launch's packages in this domain (R260). -/
def positionsOf (s : State) (l : Launch) : List Nat := (l.pgt.filter fun e => e.dom == s.barBits tbcfgOff 47 32).map (·.pos)
/-- What the master finds of the packages' TUNEs at an SCY (R257): a disagreement (some true), their agreement (some false), or that it still
waits for one. A package that has not been heard of L_fab + 256 cycles after the master's own TUNE, or the master's own that has not issued
one, has issued none. -/
def packagesAgree (s : State) (l : Launch) (y n : Nat) : Option Bool :=
  let same := l.reports.filter fun r => r.1 == y
  let own := same.find? fun r => r.2.2.1 == ownPos s
  if same.any fun r => r.2.1 != n then some true
  else if (positionsOf s l).all fun p => same.any fun r => r.2.2.1 == p then some false
  else match own with
    | some r => if r.2.2.2 + s.lfab + 256 ≤ s.cyc then some true else none
    | none => if s.scyPast l (y + 1) then some true else none
/-- TUNE_MISMATCH (R257): once every core has issued at the SCY of a TUNE, the package compares them: a disagreement is a TIMING trap; agreement
goes to the master. The master compares what packages send. -/
def tryTuneMismatch (tag : Nat) (s : State) : Option State :=
  let no : Option State := none
  match taggedLaunch' s tag with
  | none =>
    -- the packages of a launch that does not run here; its record is not this package's to post (log entry 103)
    match s.abroad.find? fun a => a.tag == tag && tag != 0 && a.reports != [] with
    | none => no
    | some a => match a.reports with
      | [] => no
      | (y, n, _, at_) :: _ =>
        let same := a.reports.filter fun r => r.1 == y
        let bad := same.any fun r => r.2.1 != n
        let all := a.positions.all fun p => same.any fun r => r.2.2.1 == p
        let t := { s with abroad := s.abroad.map fun (b : Abroad) => if b = a then { b with reports := b.reports.filter fun r => r.1 != y } else b }
        if bad ∨ (!all ∧ at_ + s.lfab + 256 ≤ s.cyc) then some (t.send "halt-notice" [tag, s.cyc + s.lfab, 8])
        else if all then some t else no
  | some (lid, l) =>
    match l.tunes, l.reports with
    | (y, n, who) :: _, _ =>
      let waits := s.groups.any fun e => e.2.launch == lid && e.2.kind == .stream && e.2.status == .resident &&
        e.2.waves.any fun w => !w.ended && decide (w.nextIssue ≤ y)
      let bad := decide (1 < (l.tunes.filter fun t => t.1 == y).length) || (tuneCores s lid).any fun cl => !who.contains cl
      let t := s.updLaunch lid fun l => { l with tunes := l.tunes.filter fun t => t.1 != y }
      let told := if s.domSize ≤ 1 ∨ l.card.pgt = 0 then t
        else if isMaster s then t.updLaunch lid fun l => { l with reports := l.reports ++ [(y, n, ownPos s, s.cyc)] }
        else t.send "domain" [4, l.tag, y, n, ownPos s]
      event (!waits) (if bad then launchTiming t lid 9 0 s.cyc else told)
    | [], (y, n, _) :: _ =>
      let t := s.updLaunch lid fun l => { l with reports := l.reports.filter fun r => r.1 != y }
      match packagesAgree s l y n with
      | some bad => some (if bad then launchTiming t lid 9 0 s.cyc else t)
      | none => no
    | [], [] => no
where
  /-- The locked launch with a tag; without a process-group table the tag is 0. -/
  taggedLaunch' (s : State) (tag : Nat) : Option (Nat × Launch) :=
    s.launches.find? fun e => e.2.card.regime == 2 && e.2.tag == tag && e.2.status == .running && (e.2.tunes != [] || e.2.reports != [])
/-- TUNE_MISMATCH: it happens where its rule lets it; elsewhere nothing happens. -/
def execTuneMismatch (tag : Nat) (s : State) : Host.Outcome State Fault Refusal := happens s (tryTuneMismatch tag s)

end Sys2Proof.Machine
end

