-- ==== Sys2Proof/Machine/LaneArith.lean ====
section
/-! DEFINITION. A-class and I-class instructions (04 R133-R147, 02 R70-R73): integer, logic, compare, selection, unary, exchange,
reduction, state reads and writes, immediates. -/

namespace Sys2Proof.Machine

def IntOp.wide : IntOp → Bool
  | .add64 | .sub64 | .mul64 => true
  | _ => false

/-- Shifts by n = count & 0x3F (Table 04-5). -/
def shlW (a : Word) (n : Nat) : Word := a <<< n
def shrW (a : Word) (n : Nat) : Word := a >>> n
def sarW (a : Word) (n : Nat) : Word := a.sshiftRight n

/-- The bit field of R134: offset, effective width. -/
def fieldOf (b : Word) : Nat × Nat :=
  let o := b.toNat % 32
  let w := b.toNat / 256 % 32
  (o, min (if w = 0 then 32 else w) (32 - o))

/-- Table 04-5: the 32-bit operations on a, b and the old destination. -/
def intOp32 (o : IntOp) (a b c : Word) : Word :=
  match o with
  | .add32 => a + b
  | .sub32 => a - b
  | .mul32 => a * b
  | .mulh32 => BitVec.ofInt 32 (a.toInt * b.toInt / (2 ^ 32 : Nat))
  | .mulhu32 => BitVec.ofNat 32 (a.toNat * b.toNat / 2 ^ 32)
  | .mad32 => a * b + c
  | .min32 => if a.slt b then a else b
  | .max32 => if a.slt b then b else a
  | .minu32 => if a.ult b then a else b
  | .maxu32 => if a.ult b then b else a
  | .and => a &&& b
  | .or => a ||| b
  | .xor => a ^^^ b
  | .andn => a &&& ~~~b
  | .shl => shlW a (b.toNat % 64)
  | .shr => shrW a (b.toNat % 64)
  | .sar => sarW a (b.toNat % 64)
  | .rotl => a.rotateLeft (b.toNat % 32)
  | .bfx => let (o, e) := fieldOf b; BitVec.ofNat 32 (a.toNat / 2 ^ o % 2 ^ e)
  | .bfxs => let (o, e) := fieldOf b; BitVec.ofInt 32 (sext (a.toNat / 2 ^ o) e)
  | .bfi =>
    let (o, e) := fieldOf b
    let m : Word := BitVec.ofNat 32 ((2 ^ e - 1) * 2 ^ o)
    (c &&& ~~~m) ||| (shlW a o &&& m)
  | _ => 0#32

/-- Table 04-5: the 64-bit operations. -/
def intOp64 (o : IntOp) (a b : DWord) : DWord :=
  match o with
  | .add64 => a + b
  | .sub64 => a - b
  | _ => a * b

/-- The result of an A-class operation in thread t (R133). -/
def intResult (o : IntOp) (d a b : Reg) (c : Ctx) (t : Nat) : Nat × FFlags :=
  if IntOp.wide o then ((intOp64 o (c.w.dreg t a.toNat) (c.w.dreg t b.toNat)).toNat, 0)
  else ((intOp32 o (c.w.reg t a.toNat) (c.w.reg t b.toNat) (c.w.reg t d.toNat)).toNat, 0)
def intWords (o : IntOp) : Nat := if IntOp.wide o then 2 else 1
/-- Landing distance (Table 04-3). -/
def intDist (o : IntOp) : Nat := if o == .mul64 then 2 else 1
def IntOp.readsOld : IntOp → Bool
  | .mad32 | .bfi => true
  | _ => false
def intUses (o : IntOp) (d a b : Reg) : List Use :=
  if IntOp.wide o then [w2 d, r2 a, r2 b] else [{ reg := d, src := IntOp.readsOld o }, r1 a, r1 b]

/-- INT_ARITH_LOGIC (R133, R134). -/
def execIntArithLogic (o : IntOp) (d a b : Reg) (s : State) : Host.Outcome State Fault Refusal :=
  laneForm s (.intArithLogic o d a b) (intUses o d a b) d (intWords o) (intDist o) 8 (intResult o d a b)
/-- UINT_ARITH_LOGIC (R50, R133). -/
def execUintArithLogic (o : IntOp) (d a b : Reg) (s : State) : Host.Outcome State Fault Refusal :=
  uniformForm s (.uintArithLogic o d a b) (intUses o d a b) d (intWords o) (intDist o) (intResult o d a b)

/-- DIV and REM with the fixed results of R135. -/
def divOp (o : DivOp) (a b : Word) : Word :=
  match o with
  | .div => if b = 0 then 0xFFFFFFFF#32 else BitVec.ofInt 32 (a.toInt.tdiv b.toInt)
  | .divu => if b = 0 then 0xFFFFFFFF#32 else BitVec.ofNat 32 (a.toNat / b.toNat)
  | .rem => if b = 0 then a else BitVec.ofInt 32 (a.toInt.tmod b.toInt)
  | .remu => if b = 0 then a else BitVec.ofNat 32 (a.toNat % b.toNat)
def divResult (o : DivOp) (a b : Reg) (c : Ctx) (t : Nat) : Nat × FFlags :=
  ((divOp o (c.w.reg t a.toNat) (c.w.reg t b.toNat)).toNat, 0)
/-- DIV_REM (R135): lands in 6 slots. -/
def execDivRem (o : DivOp) (d a b : Reg) (s : State) : Host.Outcome State Fault Refusal :=
  laneForm s (.divRem o d a b) [w1 d, r1 a, r1 b] d 1 6 8 (divResult o a b)
/-- UDIV_REM (R135). -/
def execUdivRem (o : DivOp) (d a b : Reg) (s : State) : Host.Outcome State Fault Refusal :=
  uniformForm s (.udivRem o d a b) [w1 d, r1 a, r1 b] d 1 6 (divResult o a b)

/-- SEL: the old destination selects (R137). -/
def selResult (d a b : Reg) (c : Ctx) (t : Nat) : Nat × FFlags :=
  ((if c.w.reg t d.toNat ≠ 0 then c.w.reg t a.toNat else c.w.reg t b.toNat).toNat, 0)
/-- SEL (R137). -/
def execSel (d a b : Reg) (s : State) : Host.Outcome State Fault Refusal :=
  laneForm s (.sel d a b) [r1 d, r1 a, r1 b] d 1 1 8 (selResult d a b)
/-- USEL (R137): the leader's three registers. -/
def execUsel (d a b : Reg) (s : State) : Host.Outcome State Fault Refusal :=
  uniformForm s (.usel d a b) [r1 d, r1 a, r1 b] d 1 1 (selResult d a b)

def CmpOp.wide : CmpOp → Bool
  | .seq64 | .slt64 | .sltu64 => true
  | _ => false
/-- The relations of R136. -/
def cmpOp (o : CmpOp) (a b : DWord) : Bool :=
  let x := lo32 a
  let y := lo32 b
  match o with
  | .seq => x == y
  | .sne => x != y
  | .slt => x.slt y
  | .sle => x.sle y
  | .sltu => x.ult y
  | .sleu => x.ule y
  | .seq64 => a == b
  | .slt64 => a.slt b
  | .sltu64 => a.ult b
def cmpResult (o : CmpOp) (a b : Reg) (c : Ctx) (t : Nat) : Nat × FFlags :=
  ((cmpOp o (c.w.dreg t a.toNat) (c.w.dreg t b.toNat)).toNat, 0)
def cmpUses (o : CmpOp) (d a b : Reg) : List Use := if CmpOp.wide o then [w1 d, r2 a, r2 b] else [w1 d, r1 a, r1 b]
/-- SET_COMPARE (R136). -/
def execSetCompare (o : CmpOp) (d a b : Reg) (s : State) : Host.Outcome State Fault Refusal :=
  laneForm s (.setCompare o d a b) (cmpUses o d a b) d 1 1 8 (cmpResult o a b)
/-- USET_COMPARE (R136). -/
def execUsetCompare (o : CmpOp) (d a b : Reg) (s : State) : Host.Outcome State Fault Refusal :=
  uniformForm s (.usetCompare o d a b) (cmpUses o d a b) d 1 1 (cmpResult o a b)

def UnaryFn.wide : UnaryFn → Bool
  | .mov64 | .neg64 => true
  | _ => false
/-- Leading zeros of a word: 32 for 0 (R138). -/
def clz32 (a : Word) : Nat := if a = 0 then 32 else 31 - Nat.log2 a.toNat
/-- Trailing zeros of a word: 32 for 0 (R138). -/
def ctz32 (a : Word) : Nat := ((List.range 32).find? fun i => a.getLsbD i).getD 32
/-- The unary functions (R138). -/
def unaryOp (f : UnaryFn) (a : DWord) : DWord :=
  let x := lo32 a
  let n (y : Word) : DWord := y.setWidth 64
  match f with
  | .mov => n x
  | .not => n (~~~x)
  | .neg => n (-x)
  | .abs => n (if x.msb then -x else x)
  | .clz => n (BitVec.ofNat 32 (clz32 x))
  | .ctz => n (BitVec.ofNat 32 (ctz32 x))
  | .popc => n (BitVec.ofNat 32 ((List.range 32).filter fun i => x.getLsbD i).length)
  | .brev => n x.reverse
  | .sext8 => n ((x.setWidth 8).signExtend 32)
  | .sext16 => n ((x.setWidth 16).signExtend 32)
  | .zext8 => n ((x.setWidth 8).setWidth 32)
  | .zext16 => n ((x.setWidth 16).setWidth 32)
  | .mov64 => a
  | .neg64 => -a
def unaryResult (f : UnaryFn) (a : Reg) (c : Ctx) (t : Nat) : Nat × FFlags := ((unaryOp f (c.w.dreg t a.toNat)).toNat, 0)
def unaryUses (f : UnaryFn) (d a : Reg) : List Use := if UnaryFn.wide f then [w2 d, r2 a] else [w1 d, r1 a]
/-- UNARY (R138). -/
def execUnary (f : UnaryFn) (d a : Reg) (s : State) : Host.Outcome State Fault Refusal :=
  laneForm s (.unary f d a) (unaryUses f d a) d (if UnaryFn.wide f then 2 else 1) 1 8 (unaryResult f a)
/-- UUNARY (R138). -/
def execUunary (f : UnaryFn) (d a : Reg) (s : State) : Host.Outcome State Fault Refusal :=
  uniformForm s (.uunary f d a) (unaryUses f d a) d (if UnaryFn.wide f then 2 else 1) 1 (unaryResult f a)

/-- The source thread of a shuffle (R140). -/
def shflSource (m : ShflMode) (t n : Nat) : Nat :=
  match m with
  | .idx => n
  | .xor => Nat.xor t n
  | .up => if t < n then t else t - n
  | .down => if 31 < t + n then t else t + n
/-- SHFL (R140). -/
def execShfl (m : ShflMode) (d a b : Reg) (s : State) : Host.Outcome State Fault Refusal :=
  laneForm s (.shfl m d a b) [w1 d, r1 a, r1 b] d 1 2 8 fun c t =>
    ((c.w.reg (shflSource m t ((c.w.reg t b.toNat).toNat % 32)) a.toNat).toNat, 0)
/-- BCAST (R141): the leader's vb names the source thread. -/
def execBcast (d a b : Reg) (s : State) : Host.Outcome State Fault Refusal :=
  laneForm s (.bcast d a b) [w1 d, r1 a, r1 b] d 1 2 8 fun c _ =>
    ((c.w.reg ((c.w.reg c.leader b.toNat).toNat % 32) a.toNat).toNat, 0)

/-- The contributors of VOTE, MATCH, WRED and WSCAN: active threads that are not helpers (R142). -/
def contributors (c : Ctx) : List Nat := c.active.filter fun t => !c.isHelper t
/-- The result of VOTE (R142). -/
def voteResult (f : VoteFn) (a : Reg) (c : Ctx) : Nat :=
  let cond (t : Nat) : Bool := c.w.reg t a.toNat != 0
  match f with
  | .all => ((contributors c).all cond).toNat
  | .any => ((contributors c).any cond).toNat
  | .ballot => (maskOf ((contributors c).filter cond)).toNat
/-- VOTE (R142). -/
def execVote (f : VoteFn) (d a : Reg) (s : State) : Host.Outcome State Fault Refusal :=
  laneForm s (.vote f d a) [w1 d, r1 a] d 1 2 8 fun c _ => (voteResult f a c, 0)
/-- MATCH and MATCH.64 (R143). -/
def execMatchv (wide : Bool) (d a : Reg) (s : State) : Host.Outcome State Fault Refusal :=
  let words := if wide then 2 else 1
  laneForm s (.matchv wide d a) [w1 d, if wide then r2 a else r1 a] d 1 2 8 fun c t =>
    ((maskOf ((contributors c).filter fun u => operand c.w u a words == operand c.w t a words)).toNat, 0)

/-- The functions of Table 02-4 as operations (R145), with their flags. -/
def waveOp (f : WaveFn) (w : Wave) (p q : Nat) : Nat × FFlags :=
  let i (o : IntOp) : Nat × FFlags := ((intOp32 o (BitVec.ofNat 32 p) (BitVec.ofNat 32 q) 0).toNat, 0)
  match f with
  | .addI => i .add32
  | .addF => Fp.add Fp.f32 (env32 w) p q
  | .minI => i .min32
  | .maxI => i .max32
  | .minU => i .minu32
  | .maxU => i .maxu32
  | .fmin => Fp.arith Fp.f32 (env32 w) .min p q 0
  | .fmax => Fp.arith Fp.f32 (env32 w) .max p q 0
  | .and => i .and
  | .or => i .or
  | .xor => i .xor
  | .addD => Fp.add Fp.f64 (env64 w) p q
/-- Table 04-7. -/
def waveIdentity : WaveFn → Nat
  | .minI => 0x7FFFFFFF
  | .maxI => 0x80000000
  | .minU => 0xFFFFFFFF
  | .fmin => 0x7F800000
  | .fmax => 0xFF800000
  | .and => 0xFFFFFFFF
  | _ => 0
/-- comb of R145: an absent side applies no operation. -/
def comb (f : WaveFn) (w : Wave) : Option Nat → Option Nat → Option Nat × FFlags
  | none, q => (q, 0)
  | p, none => (p, 0)
  | some p, some q => let (x, fl) := waveOp f w p q; (some x, fl)
/-- The next level of the fixed tree (R145). -/
def treeLevel (f : WaveFn) (w : Wave) : List (Option Nat) → List (Option Nat × FFlags)
  | p :: q :: rest => comb f w p q :: treeLevel f w rest
  | _ => []
/-- The nodes of levels k.. of the tree, level by level, with the flags of every application (R145, R147). -/
def treeLevels (f : WaveFn) (w : Wave) : Nat → List (Option Nat) → List (List (Option Nat)) × FFlags
  | 0, l => ([l], 0)
  | n + 1, l =>
    let up := treeLevel f w l
    let (ls, fl) := treeLevels f w n (up.map (·.1))
    (l :: ls, fl ||| orFlags (up.map (·.2)))
/-- The inputs of a reduction: contributors only (R145). -/
def waveInputs (c : Ctx) (a : Reg) (words : Nat) : List (Option Nat) :=
  (List.range 32).map fun t => if (contributors c).contains t then some (operand c.w t a words) else none
def WaveFn.words : WaveFn → Nat
  | .addD => 2
  | _ => 1
/-- The tree of a reduction, and the flags of its nodes. -/
def waveTree (f : WaveFn) (a : Reg) (c : Ctx) : List (List (Option Nat)) × FFlags :=
  treeLevels f c.w 5 (waveInputs c a (WaveFn.words f))
/-- WRED's result (R145). -/
def wredResult (f : WaveFn) (a : Reg) (c : Ctx) : Nat × FFlags :=
  let (ls, fl) := waveTree f a c
  ((((ls.getD 5 []).getD 0 none).getD (waveIdentity f)), fl)
/-- The blocks of the prefix [0, i]: levels of the set bits of i + 1 from the top, each with its index (R146). -/
def scanBlocks (m : Nat) : List (Nat × Nat) :=
  (([5, 4, 3, 2, 1, 0].filter fun k => bit m k).foldl (fun (st : List (Nat × Nat) × Nat) k =>
    (st.1 ++ [(k, st.2 / 2 ^ k)], st.2 + 2 ^ k)) ([], 0)).1
/-- WSCAN's result for a thread, with the flags of its block combinations (R146, R147). -/
def scanResult (f : WaveFn) (c : Ctx) (ls : List (List (Option Nat))) (i : Nat) : Nat × FFlags :=
  let (x, fl) := (scanBlocks (i + 1)).foldl (fun (st : Option Nat × FFlags) b =>
    let (y, g) := comb f c.w st.1 ((ls.getD b.1 []).getD b.2 none)
    (y, st.2 ||| g)) (none, 0)
  (x.getD (waveIdentity f), fl)
def waveUses (f : WaveFn) (d a : Reg) : List Use := if WaveFn.words f = 2 then [w2 d, r2 a] else [w1 d, r1 a]
/-- WRED (R145, R147). -/
def execWred (f : WaveFn) (d a : Reg) (s : State) : Host.Outcome State Fault Refusal :=
  laneForm s (.wred f d a) (waveUses f d a) d (WaveFn.words f) 3 8 fun c _ => wredResult f a c
/-- WSCAN (R146, R147): every active thread raises the flags of the tree and of every active thread's combinations. -/
def execWscan (f : WaveFn) (d a : Reg) (s : State) : Host.Outcome State Fault Refusal :=
  laneForm s (.wscan f d a) (waveUses f d a) d (WaveFn.words f) 3 8 fun c t =>
    let (ls, fl) := waveTree f a c
    ((scanResult f c ls t).1, fl ||| orFlags (c.active.map fun u => (scanResult f c ls u).2))

/-- The two threads of a quad difference: minuend and subtrahend (R144). -/
def quadPair (f : QswzFn) (t : Nat) : Nat × Nat :=
  let b := t / 4 * 4
  match f with
  | .ddxf => if t % 4 < 2 then (b + 1, b) else (b + 3, b + 2)
  | .ddyf => if t % 2 = 0 then (b + 2, b) else (b + 3, b + 1)
  | .ddxc => (b + 1, b)
  | .ddyc => (b + 2, b)
/-- QSWZ (R144): differences as FSUB.f32. -/
def execQswz (f : QswzFn) (d a : Reg) (s : State) : Host.Outcome State Fault Refusal :=
  laneForm s (.qswz f d a) [w1 d, r1 a] d 1 3 8 fun c t =>
    let (x, y) := quadPair f t
    Fp.sub Fp.f32 (env32 c.w) (c.w.reg x a.toNat).toNat (c.w.reg y a.toNat).toNat

/-! ### State indexes (R70-R73) -/

/-- Address of the first record of the issuer's chunk (R338, R346). -/
def argRecord (c : Ctx) : Nat :=
  (c.card.argBase + (if c.isCore then 0 else c.grp.chunkBase * c.card.argBytes)) % 2 ^ 52
/-- Table 02-15: the value of a state index for thread t. -/
def rdsValue (s : State) (c : Ctx) (t i : Nat) : Nat :=
  let k := c.isCore
  let wavePick (core w : Nat) : Nat := if k then core else w
  let cl := c.grp.cluster
  match i with
  | 0 => wavePick 0 (c.wi * 32 + t)
  | 1 => wavePick 0 t
  | 2 => wavePick 0 c.wi
  | 3 => wavePick 0xFFFFFFFF c.grp.index
  | 4 => if c.card.groups ≠ 0 then c.card.groups else if c.card.regime = 1 then c.l.activated else c.l.made
  | 5 => cl
  | 6 => s.cyc % 2 ^ 32
  | 7 => match c.w.cycHigh with | some h => h.toNat | none => s.cyc / 2 ^ 32 % 2 ^ 32
  | 8 => if c.locked then s.scy c.l % 2 ^ 32 else 0
  | 9 => if c.locked then (match c.w.scyHigh with | some h => h.toNat | none => s.scy c.l / 2 ^ 32 % 2 ^ 32) else 0
  | 10 => if c.ordered then c.l.fret % 2 ^ 32 else 0
  | 11 => c.l.rank
  | 12 => c.l.ranks
  | 13 => c.card.head
  | 14 => c.card.strip
  | 15 => cl % 16 - (s.partPx c.part + c.card.rectX)
  | 16 => cl / 16 - (s.partPy c.part + c.card.rectY)
  | 17 => (c.w.flags t).toNat
  | 18 => wavePick 0 (c.isHelper t).toNat
  | 19 => wavePick 1 c.w.active.toNat
  | 20 => wavePick 0 (c.grp.spillBase + c.card.spillBytes * c.wi)
  | 21 => c.part
  | 22 => argRecord c % 2 ^ 32
  | 23 => wavePick 0 c.grp.chunkBase
  | 24 => wavePick c.card.argCount c.grp.chunkCount
  | 25 => wavePick 0 c.card.wavesPerGroup
  | 26 => c.w.rmode.toNat
  | 27 => c.w.ftz.toNat
  | 28 => argRecord c / 2 ^ 32
  | _ => 0
/-- RDS 6 and RDS 8 latch the high half of the value they return (R28). -/
def latch (s : State) (c : Ctx) (w : Wave) (i : Nat) : Wave :=
  if i = 6 then { w with cycHigh := some (BitVec.ofNat 32 (s.cyc / 2 ^ 32)) }
  else if i = 8 ∧ c.locked then { w with scyHigh := some (BitVec.ofNat 32 (s.scy c.l / 2 ^ 32)) }
  else w
def latched (s : State) (c : Ctx) (i : Nat) : Res → Res
  | .done s' w => .done s' (latch s c w i)
  | r => r
/-- RDS (R70). -/
def execRds (d : Reg) (i : BitVec 7) (s : State) : Host.Outcome State Fault Refusal :=
  s.issue { ins := .rds d i, who := .wave, uses := [w1 d] } fun s c =>
    latched s c i.toNat (laneResult s c d 1 1 fun t => (rdsValue s c t i.toNat, 0))
/-- URDS (R70): the leader's values, or the control core's column. -/
def execUrds (d : Reg) (i : BitVec 7) (s : State) : Host.Outcome State Fault Refusal :=
  s.issue { ins := .urds d i, who := .both, uses := [w1 d] } fun s c =>
    latched s c i.toNat (uniformResult s c d 1 1 (rdsValue s c c.leader i.toNat, 0))

/-- What WRS lands (R72). `ts` are the threads whose flags index 17 writes and `v` their sources. -/
def wrsWhat (c : Ctx) (i : Nat) (a : Reg) (flags : List (Nat × BitVec 5)) : LandWhat :=
  let x := c.w.reg c.leader a.toNat
  if i = 17 then .setFlags flags else if i = 26 then .rmode (x.setWidth 2) else .ftz (x.setWidth 4)
/-- WRS (R72). -/
def execWrs (a : Reg) (i : BitVec 7) (s : State) : Host.Outcome State Fault Refusal :=
  s.issue { ins := .wrs a i, who := .wave, uses := [r1 a] } fun s c =>
    landAt s c (landing s c 1 32 c.w.active
      (wrsWhat c i.toNat a (c.active.map fun t => (t, (c.w.reg t a.toNat).setWidth 5))) [])
/-- UWRS (R72): index 17 takes the leader's value for every thread. -/
def execUwrs (a : Reg) (i : BitVec 7) (s : State) : Host.Outcome State Fault Refusal :=
  s.issue { ins := .uwrs a i, who := .both, uses := [r1 a] } fun s c =>
    landAt s c (landing s c 1 32 (maskOf c.all)
      (wrsWhat c i.toNat a (c.all.map fun t => (t, (c.w.reg c.leader a.toNat).setWidth 5))) [])
/-- FLGRD (R73): read as the flags stand before its landing slot. -/
def execFlgrd (d : Reg) (s : State) : Host.Outcome State Fault Refusal :=
  s.issue { ins := .flgrd d, who := .wave, uses := [w1 d] } fun s c =>
    landAt s c (landing s c 1 32 c.w.active (.readFlags d.toNat c.w.active) [])
/-- UFLGRD (R73). -/
def execUflgrd (d : Reg) (s : State) : Host.Outcome State Fault Refusal :=
  s.issue { ins := .uflgrd d, who := .both, uses := [w1 d] } fun s c =>
    landAt s c (landing s c 1 32 (maskOf c.all) (.readFlags d.toNat (maskOf c.all)) [])

/-! ### Immediates (R139) -/

/-- Table 04-6. -/
def immOp (o : ImmOp) (c : Word) (i : BitVec 16) : Word :=
  match o with
  | .lim => i.signExtend 32
  | .limz => i.setWidth 32
  | .limh => (i.setWidth 32 <<< 16) ||| (c &&& 0xFFFF#32)
  | .addi => c + i.signExtend 32
  | .andi => c &&& i.setWidth 32
  | .ori => c ||| i.setWidth 32
  | .xori => c ^^^ i.setWidth 32
  | .shli => shlW c (i.toNat % 64)
  | .shri => shrW c (i.toNat % 64)
  | .sari => sarW c (i.toNat % 64)
  | .slti => if c.slt (i.signExtend 32) then 1#32 else 0#32
  | .limf => i.setWidth 32 <<< 16
  | .muli => c * i.signExtend 32
def ImmOp.readsOld : ImmOp → Bool
  | .lim | .limz | .limf => false
  | _ => true
def immResult (o : ImmOp) (d : Reg) (i : BitVec 16) (c : Ctx) (t : Nat) : Nat × FFlags :=
  ((immOp o (c.w.reg t d.toNat) i).toNat, 0)
/-- IMMEDIATE (R139). -/
def execImmediate (o : ImmOp) (d : Reg) (i : BitVec 16) (s : State) : Host.Outcome State Fault Refusal :=
  laneForm s (.immediate o d i) [{ reg := d, src := ImmOp.readsOld o }] d 1 1 8 (immResult o d i)
/-- UIMMEDIATE (R139): the leader's vd is read, and every thread is written. -/
def execUimmediate (o : ImmOp) (d : Reg) (i : BitVec 16) (s : State) : Host.Outcome State Fault Refusal :=
  uniformForm s (.uimmediate o d i) [{ reg := d, src := ImmOp.readsOld o }] d 1 1 (immResult o d i)

end Sys2Proof.Machine
end

