-- ==== Sys2Proof/Machine/LaneFp.lean ====
section
/-! DEFINITION. F-class instructions (04 R148-R160): FP32 and FP64 arithmetic, compares, function groups, packed halves, dot
products, conversions, packing and scaling. -/

namespace Sys2Proof.Machine

/-- Landing distance of FP32 arithmetic (Table 04-3). -/
def fp32Dist : FpOp → Nat
  | .div => 3
  | _ => 1
/-- Landing distance of FP64 arithmetic. -/
def fp64Dist : FpOp → Nat
  | .div => 6
  | _ => 2
def fp32Result (o : FpOp) (d a b : Reg) (c : Ctx) (t : Nat) : Nat × FFlags :=
  Fp.arith Fp.f32 (env32 c.w) o (operand c.w t a 1) (operand c.w t b 1) (operand c.w t d 1)
def fp64Result (o : FpOp) (d a b : Reg) (c : Ctx) (t : Nat) : Nat × FFlags :=
  Fp.arith Fp.f64 (env64 c.w) o (operand c.w t a 2) (operand c.w t b 2) (operand c.w t d 2)
def isFma (o : FpOp) : Bool := o == .fma
/-- FP32_ARITH (R148, R149). -/
def execFp32Arith (o : FpOp) (d a b : Reg) (s : State) : Host.Outcome State Fault Refusal :=
  laneForm s (.fp32Arith o d a b) [{ reg := d, src := isFma o }, r1 a, r1 b] d 1 (fp32Dist o) 8 (fp32Result o d a b)
/-- UFP32_ARITH (R148). -/
def execUfp32Arith (o : FpOp) (d a b : Reg) (s : State) : Host.Outcome State Fault Refusal :=
  uniformForm s (.ufp32Arith o d a b) [{ reg := d, src := isFma o }, r1 a, r1 b] d 1 (fp32Dist o) (fp32Result o d a b)
/-- FP64_ARITH (R148, R149): the lane form holds its slice for 16 cycles (R81). -/
def execFp64Arith (o : FpOp) (d a b : Reg) (s : State) : Host.Outcome State Fault Refusal :=
  laneForm s (.fp64Arith o d a b) [{ reg := d, n := 2, align := 2, src := isFma o }, r2 a, r2 b] d 2 (fp64Dist o) 16
    (fp64Result o d a b)
/-- UFP64_ARITH (R148). -/
def execUfp64Arith (o : FpOp) (d a b : Reg) (s : State) : Host.Outcome State Fault Refusal :=
  uniformForm s (.ufp64Arith o d a b) [{ reg := d, n := 2, align := 2, src := isFma o }, r2 a, r2 b] d 2 (fp64Dist o)
    (fp64Result o d a b)

/-- Both halves of a packed operation (R154). -/
def halfResult (o : HalfOp) (d a b : Reg) (c : Ctx) (t : Nat) : Nat × FFlags :=
  let h (r : Reg) (j : Nat) : Nat := operand c.w t r 1 / 2 ^ (16 * j) % 2 ^ 16
  let (x, f) := Fp.half o (rmodeOf c.w) (h a 0) (h b 0) (h d 0)
  let (y, g) := Fp.half o (rmodeOf c.w) (h a 1) (h b 1) (h d 1)
  (x + y * 2 ^ 16, f ||| g)
def HalfOp.readsOld : HalfOp → Bool
  | .hfma | .bfma => true
  | _ => false
/-- PACKED_HALF (R154). -/
def execPackedHalf (o : HalfOp) (d a b : Reg) (s : State) : Host.Outcome State Fault Refusal :=
  laneForm s (.packedHalf o d a b) [{ reg := d, src := HalfOp.readsOld o }, r1 a, r1 b] d 1 2 8 (halfResult o d a b)

/-- DOT4 (R155). -/
def dot4Result (f : Dot4Fmt) (d a b : Reg) (c : Ctx) (t : Nat) : Nat × FFlags :=
  let x := operand c.w t a 1
  let y := operand c.w t b 1
  let z := operand c.w t d 1
  match f with
  | .e4m3 => Fp.dot4 Fp.e4m3 (env32 c.w) x y z
  | .e5m2 => Fp.dot4 Fp.e5m2 (env32 c.w) x y z
  | .i8 =>
    let term (i : Nat) : Int := sext (x / 256 ^ i) 8 * sext (y / 256 ^ i) 8
    (wrapInt 32 ((z : Int) + term 0 + term 1 + term 2 + term 3), 0)
/-- DOT4 (R155). -/
def execDot4 (f : Dot4Fmt) (d a b : Reg) (s : State) : Host.Outcome State Fault Refusal :=
  laneForm s (.dot4 f d a b) [r1 d, r1 a, r1 b] d 1 2 8 (dot4Result f d a b)

def fpCmpResult (wide : Bool) (k : FpCmp) (a b : Reg) (c : Ctx) (t : Nat) : Nat × FFlags :=
  let (r, fl) := if wide then Fp.compare Fp.f64 (env64 c.w) k (operand c.w t a 2) (operand c.w t b 2)
    else Fp.compare Fp.f32 (env32 c.w) k (operand c.w t a 1) (operand c.w t b 1)
  (r.toNat, fl)
def fpCmpUses (wide : Bool) (d a b : Reg) : List Use := if wide then [w1 d, r2 a, r2 b] else [w1 d, r1 a, r1 b]
/-- FP_COMPARE (R150). -/
def execFpCompare (wide : Bool) (k : FpCmp) (d a b : Reg) (s : State) : Host.Outcome State Fault Refusal :=
  laneForm s (.fpCompare wide k d a b) (fpCmpUses wide d a b) d 1 (if wide then 2 else 1) (if wide then 16 else 8)
    (fpCmpResult wide k a b)
/-- UFP_COMPARE (R150). -/
def execUfpCompare (wide : Bool) (k : FpCmp) (d a b : Reg) (s : State) : Host.Outcome State Fault Refusal :=
  uniformForm s (.ufpCompare wide k d a b) (fpCmpUses wide d a b) d 1 (if wide then 2 else 1) (fpCmpResult wide k a b)

/-- Landing distances of the function groups (Table 04-3). -/
def fn32Dist : FpFn → Nat
  | .sqrt | .rcp | .rsq | .exp2 | .log2 | .sin | .cos => 3
  | _ => 1
def fn64Dist : FpFn → Nat
  | .sqrt | .rcp | .rsq => 6
  | _ => 2
def fn32Result (f : FpFn) (a : Reg) (c : Ctx) (t : Nat) : Nat × FFlags :=
  Fp.function Fp.f32 (env32 c.w) f (operand c.w t a 1)
def fn64Result (f : FpFn) (a : Reg) (c : Ctx) (t : Nat) : Nat × FFlags :=
  Fp.function Fp.f64 (env64 c.w) f (operand c.w t a 2)
/-- FCLASS.f64 writes a single register (R151). -/
def fn64Words : FpFn → Nat
  | .fclass => 1
  | _ => 2
def fn64Uses (f : FpFn) (d a : Reg) : List Use := [if fn64Words f = 1 then w1 d else w2 d, r2 a]
/-- FP32_FUNCTION (R151-R153). -/
def execFp32Function (f : FpFn) (d a : Reg) (s : State) : Host.Outcome State Fault Refusal :=
  laneForm s (.fp32Function f d a) [w1 d, r1 a] d 1 (fn32Dist f) 8 (fn32Result f a)
/-- UFP32_FUNCTION (R151). -/
def execUfp32Function (f : FpFn) (d a : Reg) (s : State) : Host.Outcome State Fault Refusal :=
  uniformForm s (.ufp32Function f d a) [w1 d, r1 a] d 1 (fn32Dist f) (fn32Result f a)
/-- FP64_FUNCTION (R151-R153): every function of F 41 holds its slice for 16 cycles (R81). -/
def execFp64Function (f : FpFn) (d a : Reg) (s : State) : Host.Outcome State Fault Refusal :=
  laneForm s (.fp64Function f d a) (fn64Uses f d a) d (fn64Words f) (fn64Dist f) 16 (fn64Result f a)
/-- UFP64_FUNCTION (R151). -/
def execUfp64Function (f : FpFn) (d a : Reg) (s : State) : Host.Outcome State Fault Refusal :=
  uniformForm s (.ufp64Function f d a) (fn64Uses f d a) d (fn64Words f) (fn64Dist f) (fn64Result f a)

/-! ### Conversions (R156-R159) -/

def CvtFmt.fp : CvtFmt → Option Fp.Fmt
  | .f64 => some Fp.f64
  | .f32 => some Fp.f32
  | .f16 => some Fp.f16
  | .bf16 => some Fp.bf16
  | .e4m3 => some Fp.e4m3
  | .e5m2 => some Fp.e5m2
  | _ => none
def CvtFmt.width : CvtFmt → Nat
  | .f64 | .i64 | .n64 => 64
  | .f32 | .i32 | .n32 => 32
  | .f16 | .bf16 => 16
  | .e4m3 | .e5m2 => 8
def CvtFmt.signed : CvtFmt → Bool
  | .i32 | .i64 => true
  | _ => false
def CvtFmt.words (f : CvtFmt) : Nat := if CvtFmt.width f = 64 then 2 else 1

/-- A conversion by code (Table 04-9): source bits to result bits. -/
def convertBits (k : CvtCode) (w : Wave) (x : Nat) : Nat × FFlags :=
  let x := x % 2 ^ CvtFmt.width k.src
  match CvtFmt.fp k.src, CvtFmt.fp k.dst with
  | some f, some g =>
    let ovf : Fp.Ovf := if k.modified then .sat else if g.hasInf then .inf else .nan
    Fp.convert f g { rm := rmodeOf w, ftzOut := cvtOut w k.dst } (cvtIn w k.src) ovf x
  | some f, none => Fp.toInt f (cvtIn w k.src) (if k.modified then .zero else rmodeOf w) (CvtFmt.signed k.dst) (CvtFmt.width k.dst) x
  | none, some g =>
    Fp.ofInt g { rm := rmodeOf w } (if CvtFmt.signed k.src then sext x (CvtFmt.width k.src) else (x : Int))
  | none, none => (x, 0)
def cvtResult (k : CvtCode) (a : Reg) (c : Ctx) (t : Nat) : Nat × FFlags :=
  convertBits k c.w (operand c.w t a (CvtFmt.words k.src))
def cvtUses (k : CvtCode) (d a : Reg) : List Use :=
  [if CvtFmt.words k.dst = 2 then w2 d else w1 d, if CvtFmt.words k.src = 2 then r2 a else r1 a]
/-- CVT counts as FP64 arithmetic when its source or result is FP64 (R81). -/
def cvtOcc (k : CvtCode) : Nat := if k.src == .f64 || k.dst == .f64 then 16 else 8
/-- CVT (R156-R158). -/
def execCvt (k : CvtCode) (d a : Reg) (s : State) : Host.Outcome State Fault Refusal :=
  laneForm s (.cvt k d a) (cvtUses k d a) d (CvtFmt.words k.dst) 2 (cvtOcc k) (cvtResult k a)
/-- UCVT (R156). -/
def execUcvt (k : CvtCode) (d a : Reg) (s : State) : Host.Outcome State Fault Refusal :=
  uniformForm s (.ucvt k d a) (cvtUses k d a) d (CvtFmt.words k.dst) 2 (cvtResult k a)

/-- PKH, PKB, PKE4, PKE5 (R159). -/
def packResult (f : PackFmt) (d a b : Reg) (c : Ctx) (t : Nat) : Nat × FFlags :=
  let cv (g : CvtFmt) (sat : Bool) (r : Reg) : Nat × FFlags := convertBits ⟨g, .f32, sat⟩ c.w (operand c.w t r 1)
  let two (g : CvtFmt) (sat : Bool) : Nat × Nat × FFlags :=
    let (x, p) := cv g sat a
    let (y, q) := cv g sat b
    (x, y, p ||| q)
  let old := operand c.w t d 1
  match f with
  | .half => let (x, y, fl) := two .f16 false; (x + y * 2 ^ 16, fl)
  | .bfloat => let (x, y, fl) := two .bf16 false; (x + y * 2 ^ 16, fl)
  | .e4m3 => let (x, y, fl) := two .e4m3 true; (y * 2 ^ 24 + x * 2 ^ 16 + old / 2 ^ 16, fl)
  | .e5m2 => let (x, y, fl) := two .e5m2 true; (y * 2 ^ 24 + x * 2 ^ 16 + old / 2 ^ 16, fl)
def PackFmt.readsOld : PackFmt → Bool
  | .e4m3 | .e5m2 => true
  | _ => false
/-- PACK (R159). -/
def execPack (f : PackFmt) (d a b : Reg) (s : State) : Host.Outcome State Fault Refusal :=
  laneForm s (.pack f d a b) [{ reg := d, src := PackFmt.readsOld f }, r1 a, r1 b] d 1 2 8 (packResult f d a b)

/-- FSCL (R160). -/
def fsclResult (wide : Bool) (a b : Reg) (c : Ctx) (t : Nat) : Nat × FFlags :=
  let n := (c.w.reg t b.toNat).toInt
  if wide then Fp.scale Fp.f64 (env64 c.w) (operand c.w t a 2) n else Fp.scale Fp.f32 (env32 c.w) (operand c.w t a 1) n
def fsclUses (wide : Bool) (d a b : Reg) : List Use := if wide then [w2 d, r2 a, r1 b] else [w1 d, r1 a, r1 b]
/-- FSCL (R160). -/
def execFscl (wide : Bool) (d a b : Reg) (s : State) : Host.Outcome State Fault Refusal :=
  laneForm s (.fscl wide d a b) (fsclUses wide d a b) d (if wide then 2 else 1) (if wide then 2 else 1) (if wide then 16 else 8)
    (fsclResult wide a b)
/-- UFSCL (R160). -/
def execUfscl (wide : Bool) (d a b : Reg) (s : State) : Host.Outcome State Fault Refusal :=
  uniformForm s (.ufscl wide d a b) (fsclUses wide d a b) d (if wide then 2 else 1) (if wide then 2 else 1) (fsclResult wide a b)

end Sys2Proof.Machine
end

