-- ==== Sys2Proof/Machine/Keccak.lean ====
section
/-! DEFINITION. SHAKE256 (FIPS 202) with a 64-byte output, as the secure controller uses it (19 R466, R467). A state is its 25 lanes of 64 bits,
lane (x, y) at x + 5·y. -/

namespace Sys2Proof.Machine.Keccak

def rotl (x n : Nat) : Nat := x * 2 ^ n % 2 ^ 64 + x / 2 ^ (64 - n)
/-- The rotation of each lane (ρ). -/
def offsets : List Nat :=
  [0, 1, 62, 28, 27, 36, 44, 6, 55, 20, 3, 10, 43, 25, 39, 41, 45, 15, 21, 8, 18, 2, 61, 56, 14]
/-- The round constants (ι). -/
def constants : List Nat :=
  [0x0000000000000001, 0x0000000000008082, 0x800000000000808A, 0x8000000080008000, 0x000000000000808B, 0x0000000080000001,
   0x8000000080008081, 0x8000000000008009, 0x000000000000008A, 0x0000000000000088, 0x0000000080008009, 0x000000008000000A] ++
  [0x000000008000808B, 0x800000000000008B, 0x8000000000008089, 0x8000000000008003, 0x8000000000008002, 0x8000000000000080,
   0x000000000000800A, 0x800000008000000A, 0x8000000080008081, 0x8000000000008080, 0x0000000080000001, 0x8000000080008008]

def lane (a : List Nat) (i : Nat) : Nat := a.getD i 0
/-- One round: θ, ρ and π, χ, ι. -/
def round (a : List Nat) (rc : Nat) : List Nat :=
  let c := (List.range 5).map fun x => (List.range 5).foldl (fun v y => Nat.xor v (lane a (x + 5 * y))) 0
  let d := (List.range 5).map fun x => Nat.xor (lane c ((x + 4) % 5)) (rotl (lane c ((x + 1) % 5)) 1)
  let a := (List.range 25).map fun i => Nat.xor (lane a i) (lane d (i % 5))
  -- lane (x, y) goes to (y, 2x + 3y): the lane that comes to (x, y) stood at (x + 3y, x)
  let b := (List.range 25).map fun i =>
    let (x, y) := (i % 5, i / 5)
    let j := (x + 3 * y) % 5 + 5 * x
    rotl (lane a j) (offsets.getD j 0)
  let e := (List.range 25).map fun i =>
    let (x, y) := (i % 5, i / 5)
    Nat.xor (lane b i) (Nat.land (2 ^ 64 - 1 - lane b ((x + 1) % 5 + 5 * y)) (lane b ((x + 2) % 5 + 5 * y)))
  match e with
  | [] => []
  | x :: r => Nat.xor x rc :: r
def permute (a : List Nat) : List Nat := constants.foldl round a

/-- The bytes of a block (136 bytes) go into the state. -/
def absorb (a : List Nat) (block : List Byte) : List Nat :=
  (List.range 25).map fun i => Nat.xor (lane a i) (ofBytes ((block.drop (8 * i)).take 8))
/-- Absorbing a message with its padding, in at most `fuel` blocks. -/
def absorbAll : Nat → List Nat → List Byte → List Nat
  | 0, a, _ => a
  | fuel + 1, a, bs => if bs = [] then a else absorbAll fuel (permute (absorb a (bs.take 136))) (bs.drop 136)
/-- The padding of SHAKE256. -/
def padded (m : List Byte) : List Byte :=
  let n := 136 - m.length % 136
  m ++ (if n = 1 then [0x9F#8] else 0x1F#8 :: List.replicate (n - 2) 0#8 ++ [0x80#8])
/-- SHAKE256 with 64 bytes of output. -/
def shake256 (m : List Byte) : List Byte :=
  let p := padded m
  let a := absorbAll (p.length / 136) (List.replicate 25 0) p
  (List.range 8).flatMap fun i => toBytes (lane a i) 8

end Sys2Proof.Machine.Keccak
end

