-- ==== Sys2Proof/Machine/Network.lean ====
section
/-! DEFINITION. The scale-out port (08 R261-R266; 19 R465): packet queues with NQACK and NQRST, deliveries, RDMA, and the messages that the
secure controller answers. -/

namespace Sys2Proof.Machine

/-! ### Packet queues (R262-R265) -/

/-- The queue descriptors of a partition, in ascending order; its queue q is entry q (R262). -/
def queuesOf (s : State) (p : Nat) : List Nat := (List.range 256).filter fun n => s.barBits (qdescOff n) 53 48 == p
/-- State of a queue (Table 08-7): 0 OFF, 1 RUN, 2 ERR. -/
def queueState (s : State) (n : Nat) : Nat := s.barBits (qdescOff n) 41 40
def queueRd (s : State) (n : Nat) : Nat := s.barBits (qdescOff n) 127 96
def queuePeg (s : State) (n : Nat) : Nat := s.barBits (qdescOff n) 95 64
def queueSlots (s : State) (n : Nat) : Nat := 2 ^ s.barBits (qdescOff n) 35 32
def queueSize (s : State) (n : Nat) : Nat := 2 ^ s.barBits (qdescOff n) 39 36
def queueOwner (s : State) (n : Nat) : Nat := s.barBits (qdescOff n) 53 48
/-- P: the value of the queue's peg, read through the corrector (R187). -/
def queueCount (s : State) (n : Nat) (who : Option (Nat × Nat)) : Nat × State :=
  let (bs, _, s) := s.readMem (s.windowAddr (queueOwner s n) (queuePeg s n)) 8 who
  (ofBytes bs, s)
/-- Packets written and not yet released, modulo 2^32. -/
def queueFill (s : State) (n count : Nat) : Nat := (count + 2 ^ 32 - queueRd s n) % 2 ^ 32

/-- NQACK and NQRST (Table 08-10). -/
def queueBody (reset : Bool) (a b : Reg) (s : State) (c : Ctx) : Res :=
  let q := (c.w.reg c.leader a.toNat).toNat
  let x := (c.w.reg c.leader b.toNat).toNat
  match (queuesOf s c.part)[q]? with
  | none => .trap trapQueue
  | some n =>
    let bad : TrapInfo := { trapQueue with addr := queuePeg s n }
    let (count, s) := queueCount s n c.who
    let fill := queueFill s n count
    let ok := if reset then queueState s n == 2 && decide ((x + 2 ^ 32 - queueRd s n) % 2 ^ 32 ≤ fill)
      else queueState s n == 1 && decide (1 ≤ x) && decide (x ≤ fill)
    if !ok then .trap bad
    else if c.ordered then .done s { c.next with buffer := c.w.buffer ++ [.queue n reset x] }
    else
      let covers := outstanding s c
      if covers = [] then .done (s.queueUpdate n reset x) c.next
      else
        let r : RelWait := { id := s.seq, group := c.g, wave := c.wi, epoch := c.w.epoch, target := .queue n reset x, covers := covers, due := none }
        .done { s.fresh with rels := s.rels ++ [r] } c.next
/-- NQACK (R265). -/
def execNqack (a b : Reg) (s : State) : Host.Outcome State Fault Refusal :=
  s.issue { ins := .nqack a b, who := .both, uses := [r1 a, r1 b] } (queueBody false a b)
/-- NQRST (R265). -/
def execNqrst (a b : Reg) (s : State) : Host.Outcome State Fault Refusal :=
  s.issue { ins := .nqrst a b, who := .both, uses := [r1 a, r1 b] } (queueBody true a b)

/-- A queue may be set to RUN (R263). -/
def queueReady (s : State) (n : Nat) : Bool :=
  let b := qdescOff n
  let p := queueOwner s n
  let base := s.barBits b 31 0
  let (sl, sz) := (s.barBits b 35 32, s.barBits b 39 36)
  let len := 2 ^ (sl + sz)
  queueState s n == 0 && s.partEn p && decide (4 ≤ sl) && decide (sl ≤ 12) && decide (6 ≤ sz) && decide (sz ≤ 12) && base % 64 == 0 &&
    queuePeg s n % 8 == 0 && s.inWindow p base len && s.inWindow p (queuePeg s n) 8 &&
    (decide (queuePeg s n + 8 ≤ base) || decide (base + len ≤ queuePeg s n))
/-- QDESC_STATE_RUN (R263): a write of state 1, ignored where the queue may not run. -/
def tryQdescStateRun (q : Nat) (s : State) : Option State :=
  event (decide (q < 256)) (configured s (if queueReady s q then some (s.setBar (qdescOff q) 41 40 1) else none))
/-- QDESC_STATE_RUN: it happens where its rule lets it; elsewhere nothing happens. -/
def execQdescStateRun (q : Nat) (s : State) : Host.Outcome State Fault Refusal := happens s (tryQdescStateRun q s)
/-- QDESC_STATE_OFF (R263): a write of state 0. -/
def tryQdescStateOff (q : Nat) (s : State) : Option State :=
  event (decide (q < 256)) (configured s (some (s.setBar (qdescOff q) 41 40 0)))
/-- QDESC_STATE_OFF: it happens where its rule lets it; elsewhere nothing happens. -/
def execQdescStateOff (q : Nat) (s : State) : Host.Outcome State Fault Refusal := happens s (tryQdescStateOff q s)

/-! ### Queue pairs (R465) -/

/-- The QPCTX of a local queue pair number. -/
def pairOf (qp : Nat) : Option Nat := if 0x100 ≤ qp ∧ qp < 0x500 then some (qp - 0x100) else none
def pairState (s : State) (n : Nat) : Nat := s.barBits (qpctxOff n) 4 2
def pairRc (s : State) (n : Nat) : Bool := s.barBits (qpctxOff n) 1 0 == 0
/-- A pair receives in RTR and RTS. -/
def receives (s : State) (n : Nat) : Bool := pairState s n == 2 || pairState s n == 3
/-- The next expected sequence number of a reliable pair. -/
def acceptPsn (s : State) (n : Nat) : State :=
  if pairRc s n then s.setBar (qpctxOff n) 111 88 (s.barBits (qpctxOff n) 111 88 + 1) else s
/-- An answer of the port to a requester: acknowledge 0; NAK 1 invalid request, 2 remote access error, 3 remote operational error. -/
def answer (s : State) (pk : Packet) (code : Nat) (data : List Byte) : State :=
  s.send "roce" ([pk.src, pk.qp, pk.psn, code] ++ data.map BitVec.toNat)

/-- A counter of a queue descriptor that saturates. -/
def countDrop (s : State) (n lo : Nat) : State :=
  let x := s.barBits (qdescOff n) (lo + 31) lo
  s.setBar (qdescOff n) (lo + 31) lo (min 0xFFFFFFFF (x + 1))

/-- A message to a RUN queue with room (R264): payload, header, state, then the peg. -/
def deliverPacket (s : State) (n : Nat) (pk : Packet) : State :=
  let p := queueOwner s n
  let (count, s) := queueCount s n none
  let slots := queueSlots s n
  let slot := s.barBits (qdescOff n) 31 0 + count % slots * queueSize s n
  let imm := if bit pk.op 0 then pk.rkey % 2 ^ 32 else 0
  let head := imm % 16 + count / slots % 256 * 2 ^ 8 + pk.data.length * 2 ^ 16 + imm * 2 ^ 32
  let put (s : State) (a : Nat) (bs : List Byte) : State :=
    -- a slot does not cross a slice: its size divides 2 MiB and the ring's base is aligned to it, or it is written in two parts
    let parts := windowParts s p a bs.length
    writeParts (touchBanks s parts) parts bs 0 none
  let s := if pk.data = [] then s else put s (slot + 8) pk.data
  let s := put s slot (toBytes head 8)
  let s := if 14 ≤ imm % 16 then s.setBar (qdescOff n) 41 40 2 else s
  let a := s.windowAddr p (queuePeg s n)
  -- one RMW slot (R193)
  ((s.occupy (banksOf false a 8) 3).rmw a 8 false none fun old => some (old + 1)).2.2
/-- The banks that a message to a queue needs: of its slot and of the peg. -/
def packetBanks (s : State) (n : Nat) (pk : Packet) : List Nat :=
  let p := queueOwner s n
  let slot := s.barBits (qdescOff n) 31 0 + (queueCount s n none).1 % queueSlots s n * queueSize s n
  partBanks (windowParts s p slot (8 + pk.data.length) ++ [(s.windowAddr p (queuePeg s n), 8)])

/-- The queue that names a queue pair. -/
def queueOfPair (s : State) (qp : Nat) : Option Nat := (List.range 256).find? fun q => s.barBits (qdescOff q) 151 128 == qp
/-- A queue has room for a message of n bytes (R264). -/
def queueTakes (s : State) (q n : Nat) : Bool :=
  queueState s q == 1 && decide (queueFill s q (queueCount s q none).1 < queueSlots s q) && decide (n + 8 ≤ queueSize s q)
/-- A SEND message is served: it goes to the queue that names its pair, or is dropped and counted (R264, R465). -/
def landPacket (s : State) (pk : Packet) : State :=
  match pairOf pk.qp with
  | none => s
  | some n =>
    if !receives s n then s else
    match queueOfPair s pk.qp with
    | none => if pairRc s n then answer s pk 3 [] else s
    | some q =>
      let s := acceptPsn s n
      let s := if pairRc s n then answer s pk 0 [] else s
      if queueState s q ≠ 1 then countDrop s q 192 else if queueTakes s q pk.data.length then deliverPacket s q pk else countDrop s q 160
/-- The banks that an input from outside needs. -/
def inboxBanks (s : State) : Instr → List Nat
  | .bestEffortFlit f => partBanks (((bestEffortPlace s f).map (·.2)).getD [])
  | .packetDelivery pk => match (pairOf pk.qp).bind fun _ => queueOfPair s pk.qp with
    | some q => if queueTakes s q pk.data.length then packetBanks s q pk else []
    | none => []
  | _ => []
/-- It takes place. -/
def inboxLand (s : State) : Instr → State
  | .bestEffortFlit f => landBestEffort s f
  | .packetDelivery pk => landPacket s pk
  | _ => s
/-- The first of a port that waits is served, where its banks are free and awake (R186, R190, R254). -/
def serveInbox (s : State) : Option State :=
  (s.inbox.filter fun i => (s.inbox.find? fun k => inboxPort k == inboxPort i) == some i).findSome? fun i =>
    atBanks s (inboxBanks s i) fun s => some (inboxLand { s with inbox := s.inbox.erase i } i)
/-- PACKET_DELIVERY (R264, R465): a SEND message arrives. -/
def execPacketDelivery (pk : Packet) (s : State) : Host.Outcome State Fault Refusal :=
  .next (arriveAt s (.packetDelivery pk) (inboxBanks s (.packetDelivery pk)) (landPacket · pk))

/-! ### RDMA (R261, R465) -/

/-- The checks of an RDMA request: the region, or none for the NAK remote access error. -/
def regionOf (s : State) (n : Nat) (pk : Packet) (len : Nat) (write : Bool) : Option Nat :=
  let m := pk.rkey % 256
  let b := mrtabOff m
  if s.barFlag b 52 && s.barBits b 191 160 == pk.rkey % 2 ^ 32 && s.barBits b 133 128 == s.barBits (qpctxOff n) 10 5 &&
    decide (s.barBits b 51 0 ≤ pk.addr) && decide (pk.addr + len ≤ s.barBits b 51 0 + s.barBits b 127 64) &&
    s.barFlag b (if write then 53 else 54) then some m else none
/-- A record of a RoCE event (Table 19-7). -/
def roceError (s : State) (n info qp addr : Nat) : State := s.hostError 0x76 (some (s.barBits (qpctxOff n) 10 5)) info qp addr 0
/-- Every line of a range translates: the first answer that does not. -/
def rangeFails (s : State) (p c va n : Nat) (acc : Access) : Option Xl × State :=
  (List.range ((va + n + 63) / 64 - va / 64)).foldl (fun (st : Option Xl × State) i =>
    match st.1 with
    | some x => (some x, st.2)
    | none => match st.2.xlate p c (if i = 0 then va else (va / 64 + i) * 64) acc with
      | (.pa _, s) => (none, s)
      | (x, s) => (some x, s)) (none, s)

/-- One RDMA request of a reliable pair: its region, its translation, and its effect. -/
def rdma (pk : Packet) (len : Nat) (write : Bool) (s : State) (go : State → Nat → Nat → State) : Option State :=
  match pairOf pk.qp with
  | none => some s
  | some n =>
    if !receives s n || !pairRc s n then some s else
    let s := acceptPsn s n
    match regionOf s n pk len write with
    | none => some (answer (roceError s n 1 pk.qp pk.addr) pk 2 [])
    | some m =>
      let (p, c) := (s.barBits (mrtabOff m) 133 128, s.barBits (mrtabOff m) 59 56)
      match rangeFails s p c pk.addr len (if write then .write else .read) with
      | (none, s) => some (go s p c)
      | (some .wait, _) => none
      | (some _, s) => some (answer (roceError s n 2 pk.qp pk.addr) pk 2 [])

/-- RDMA_WRITE (R465): performed before it is acknowledged. -/
def tryRdmaWrite (pk : Packet) (s : State) : Option State :=
  rdma pk pk.data.length true s fun s p c => answer (s.vwrite p c pk.addr pk.data).2 pk 0 []
/-- RDMA_WRITE: it happens where its rule lets it; elsewhere nothing happens. -/
def execRdmaWrite (pk : Packet) (s : State) : Host.Outcome State Fault Refusal := happens s (tryRdmaWrite pk s)
/-- RDMA_READ (R465): the bytes go back. -/
def tryRdmaRead (pk : Packet) (s : State) : Option State :=
  rdma pk pk.len false s fun s p c =>
    match s.vreadP p c pk.addr pk.len with
    | (.inl (bs, _), s) => answer s pk 0 bs
    | (.inr _, s) => s
/-- RDMA_READ: it happens where its rule lets it; elsewhere nothing happens. -/
def execRdmaRead (pk : Packet) (s : State) : Host.Outcome State Fault Refusal := happens s (tryRdmaRead pk s)
/-- RDMA_ATOMIC_REQUEST (R261): answered with the NAK invalid request. -/
def execRdmaAtomicRequest (pk : Packet) (s : State) : Host.Outcome State Fault Refusal :=
  .next (match pairOf pk.qp with | some n => if receives s n then answer s pk 1 [] else s | none => s)
/-- NEIGHBOUR_SOLICITATION (R465): the secure controller answers for the port's addresses. -/
def execNeighbourSolicitation (pk : Packet) (s : State) : Host.Outcome State Fault Refusal :=
  let own := if pk.op = 0 then s.barBits portcfgOff 95 64 else s.barBits portcfgOff 255 128
  .next (if own ≠ 0 ∧ pk.addr = own then s.send "neighbour" [pk.src, own, s.barBits portcfgOff 47 0] else s)
/-- CONNECTION_MANAGEMENT_MESSAGE (R465): the secure controller serves queue pair 1; what it answers is its own (log entry 22). -/
def execConnectionManagementMessage (pk : Packet) (s : State) : Host.Outcome State Fault Refusal :=
  .next (if pk.qp = 1 then s.send "connection-management" ([pk.src, pk.psn] ++ pk.data.map BitVec.toNat) else s)
/-- QP_RETRY_EXHAUSTED (R465): a reliable pair that sends moves to ERR. -/
def tryQpRetryExhausted (qp : Nat) (s : State) : Option State :=
  event (decide (qp < 1024) && pairRc s qp && pairState s qp == 3)
    ((s.setBar (qpctxOff qp) 4 2 4).hostError 0x76 (some (s.barBits (qpctxOff qp) 10 5)) 3 (0x100 + qp) 0 0)
/-- QP_RETRY_EXHAUSTED: it happens where its rule lets it; elsewhere nothing happens. -/
def execQpRetryExhausted (qp : Nat) (s : State) : Host.Outcome State Fault Refusal := happens s (tryQpRetryExhausted qp s)

end Sys2Proof.Machine
end

