-- ==== Sys2Proof/Machine/Geometry.lean ====
section
/-! DEFINITION. Exact geometry for the ray, raster and texture engines (13 R368-R370; 14 R393, R394): rational vectors, boxes and triangles, and
their single roundings. -/

namespace Sys2Proof.Machine.Fp

/-- The number that finite bits hold; none for a NaN or an infinity. -/
def fin (f : Fmt) (x : Nat) : Option Rat :=
  match f.val x with
  | .num n q => some (if n then -q else q)
  | _ => none
/-- A rational rounded once into a format. -/
def ofRat (f : Fmt) (rm : RMode) (q : Rat) : Nat :=
  if q = 0 then 0 else (round f rm false .inf (decide (q < 0)) (if q < 0 then -q else q)).1
/-- rne(q, FP32). -/
def rne32 (q : Rat) : Nat := ofRat f32 .nearest q
/-- FP32 values in order, −0 equal to +0. -/
def lt32 (a b : Nat) : Bool := (f32.val a).less false (f32.val b)
def le32 (a b : Nat) : Bool := !(f32.val b).less false (f32.val a)
/-- Finite bits. -/
def isFin (f : Fmt) (x : Nat) : Bool := (fin f x).isSome

end Sys2Proof.Machine.Fp

namespace Sys2Proof.Machine
open Sys2Proof.Machine.Fp

/-- A point or direction, exactly. -/
structure V3 where
  x : Rat
  y : Rat
  z : Rat
  deriving DecidableEq, Repr

namespace V3
def sub (a b : V3) : V3 := ⟨a.x - b.x, a.y - b.y, a.z - b.z⟩
def add (a b : V3) : V3 := ⟨a.x + b.x, a.y + b.y, a.z + b.z⟩
def scale (k : Rat) (a : V3) : V3 := ⟨k * a.x, k * a.y, k * a.z⟩
def dot (a b : V3) : Rat := a.x * b.x + a.y * b.y + a.z * b.z
def cross (a b : V3) : V3 := ⟨a.y * b.z - a.z * b.y, a.z * b.x - a.x * b.z, a.x * b.y - a.y * b.x⟩
def isZero (a : V3) : Bool := decide (a = ⟨0, 0, 0⟩)
/-- Three finite encodings. -/
def ofBits (f : Fmt) (xs : List Nat) : Option V3 := do
  let x ← fin f (xs.getD 0 0)
  let y ← fin f (xs.getD 1 0)
  let z ← fin f (xs.getD 2 0)
  pure ⟨x, y, z⟩
end V3

/-- A parameter beyond every finite one that a box can give. -/
def farAway : Rat := pow2 3000
/-- The interval of the line o + t·d inside lo ≤ x ≤ hi on one axis, narrowed from [a, b]; none where it is empty. Infinite bounds are
legal (R397). -/
def slab (f : Fmt) (lo hi : Nat) (o d : Rat) (i : Option (Rat × Rat)) : Option (Rat × Rat) :=
  match i with
  | none => none
  | some (a, b) =>
    match f.val lo, f.val hi with
    | .inf false, _ => none
    | _, .inf true => none
    | l, h =>
      let lo? : Option Rat := match l with | .num n q => some (if n then -q else q) | _ => none
      let hi? : Option Rat := match h with | .num n q => some (if n then -q else q) | _ => none
      if d = 0 then
        if (match lo? with | some x => decide (x ≤ o) | none => true) && (match hi? with | some x => decide (o ≤ x) | none => true)
        then some (a, b) else none
      else
        let near := if 0 < d then lo? else hi?
        let far := if 0 < d then hi? else lo?
        let a := match near with | some x => max a ((x - o) / d) | none => a
        let b := match far with | some x => min b ((x - o) / d) | none => b
        if a ≤ b then some (a, b) else none

/-- The parameters at which a line is inside a box given as min x, y, z, max x, y, z (R393): the first is its entry parameter. -/
def boxSpan (f : Fmt) (box : List Nat) (o d : V3) : Option (Rat × Rat) :=
  let g (i : Nat) := box.getD i 0
  slab f (g 2) (g 5) o.z d.z (slab f (g 1) (g 4) o.y d.y (slab f (g 0) (g 3) o.x d.x (some (-farAway, farAway))))
/-- A span meets an interval. -/
def spanIn (i : Rat × Rat) (e : Rat × Rat) : Bool := decide (e.1 ≤ i.2) && decide (i.1 ≤ e.2)

/-- Linear constraints a·x + b·y + … + k ≥ 0, as lists of their coefficients: those that are left when the first variable is eliminated. -/
def eliminate (cs : List (List Rat)) : List (List Rat) :=
  let lead (c : List Rat) : Rat := c.headD 0
  (cs.filter fun c => lead c == 0).map List.tail ++
    (cs.filter fun c => decide (0 < lead c)).flatMap fun p => (cs.filter fun c => decide (lead c < 0)).map fun n =>
      List.zipWith (fun a b => a * -lead n + b * lead p) p.tail n.tail
/-- Constraints in three variables have a solution. -/
def feasible (cs : List (List Rat)) : Bool := (eliminate (eliminate (eliminate cs))).all fun c => decide (0 ≤ c.headD 0)
/-- A box meets the frustum from a point through the corners of a face, given as directions in order round it (R373). -/
def boxInFrustum (f : Fmt) (box : List Nat) (o : V3) (corners : List V3) : Bool :=
  let g (i : Nat) : Option Rat := fin f (box.getD i 0)
  let axis (i : Nat) (v : List Rat) : List (List Rat) :=
    ((g i).toList.map fun x => v ++ [-x]) ++ (g (i + 3)).toList.map fun x => v.map (- ·) ++ [x]
  let mid := corners.foldl V3.add ⟨0, 0, 0⟩
  let side (a b : V3) : List Rat :=
    let n := a.cross b
    let n := if n.dot mid < 0 then V3.scale (-1) n else n
    [n.x, n.y, n.z, -n.dot o]
  feasible (axis 0 [1, 0, 0] ++ axis 1 [0, 1, 0] ++ axis 2 [0, 0, 1] ++ List.zipWith side corners (corners.drop 1 ++ corners.take 1))

/-- Where the line o + t·d passes through a closed triangle (R394): t, u, v, and whether it faces the front. -/
def triMeet (o d v0 v1 v2 : V3) : Option (Rat × Rat × Rat × Bool) :=
  let e1 := v1.sub v0
  let e2 := v2.sub v0
  let n := e1.cross e2
  let den := d.dot n
  if den = 0 then none else
  let w := v0.sub o
  let t := w.dot n / den
  let q := (V3.scale t d).sub w
  -- q = u·e1 + v·e2 in the triangle's plane
  let u := (q.cross e2).dot n / n.dot n
  let v := (e1.cross q).dot n / n.dot n
  if 0 ≤ u ∧ 0 ≤ v ∧ u + v ≤ 1 then some (t, u, v, decide (den < 0)) else none

end Sys2Proof.Machine
end

