-- ==== Sys2Proof/Machine/Ray.lean ====
section
/-! DEFINITION. The ray engine (14 R391-R403): structures, traversal and the hit rule, TRACE, RESUME, HITR, and RAY_REST. A ray is taken from one
rest to the next in one event; all tests are exact, and every stated rounding is made once. -/

namespace Sys2Proof.Machine
open Sys2Proof.Machine.Fp

/-! ### Reading structures (R391, R397, R398) -/

/-- What ends a read of a structure: it is bad (R397), or a line has no translation (or waits) at an address. -/
inductive RayStop where
  | bad
  | stop (x : Xl) (va : Nat)
  deriving Repr

/-- Reads in order, over the state whose TLB they fill. -/
abbrev RayM (α : Type) := State → Except RayStop α × State
def RayM.ok {α : Type} (x : α) : RayM α := fun s => (.ok x, s)
def RayM.fail {α : Type} (e : RayStop) : RayM α := fun s => (.error e, s)
def RayM.then {α β : Type} (m : RayM α) (f : α → RayM β) : RayM β := fun s =>
  match m s with
  | (.ok x, s) => f x s
  | (.error e, s) => (.error e, s)
/-- Bad unless a condition holds. -/
def RayM.check (b : Bool) : RayM Unit := if b then .ok () else .fail .bad

/-- Reading n bytes line by line: the first line without a translation stops it. -/
def readLines (p c : Nat) (eng : Option Nat) : Nat → Nat → Nat → RayM (List Byte)
  | 0, _, _ => .ok []
  | fuel + 1, va, n => fun s =>
    if n = 0 then (.ok [], s) else
    let k := min n (64 - va % 64)
    match s.xlate p c (va % 2 ^ 52) .read eng with
    | (.pa a, s) =>
      if s.mainPoison a k ≠ 0 then (.error (.stop .ecc va), s)
      else (readLines p c eng fuel (va + k) (n - k)).then (fun bs => .ok (s.mainRead p a k ++ bs)) s
    | (x, s) => (.error (.stop x va), s)
/-- A structure of n bytes, as a number. -/
def readStruct (p c va n : Nat) (eng : Option Nat := none) : RayM Nat := (readLines p c eng (n / 64 + 2) va n).then fun bs => .ok (ofBytes bs)

/-- A structure's address: a multiple of 64 with bits [63:52] 0 (R397). -/
def vaOk (va : Nat) : Bool := va % 64 == 0 && decide (va < 2 ^ 52)

/-- A header (Table 14-1). -/
structure Header where
  nodes : Nat
  leaves : Nat
  ncount : Nat
  lcount : Nat
  proc : Bool
  deriving Repr
/-- Reading a header; `top` tells the level. -/
def readHeader (p c va : Nat) (top : Bool) (eng : Option Nat := none) : RayM Header :=
  (RayM.check (vaOk va)).then fun _ => (readStruct p c va 64 eng).then fun x =>
    let h : Header := { nodes := bits x 63 0, leaves := bits x 127 64, ncount := bits x 159 128, lcount := bits x 191 160, proc := bit x 192 }
    let ok := bits x 511 193 == 0 && !(top && h.proc) && vaOk h.nodes && (h.proc || vaOk h.leaves) && decide (1 ≤ h.ncount)
    (RayM.check ok).then fun _ => .ok h

/-- A child of a node: box as six encodings, kind and index. -/
abbrev Kid := List Nat × Nat × Nat
/-- The children that a node's bytes name (Table 14-1); none for a bad node (R397). -/
def nodeKids (h : Header) (top : Bool) (x : Nat) : Option (List Kid) :=
    let w := if top then 64 else 32
    let kids := (List.range (if top then 2 else 4)).map fun k =>
      let box := (List.range 6).map fun i => if top then bits x (384 * k + 64 * i + 63) (384 * k + 64 * i) else bits x (192 * k + 32 * i + 31) (192 * k + 32 * i)
      let lo := 768 + w * k
      if top then (box, bits x (lo + 33) (lo + 32), bits x (lo + 31) lo) else (box, bits x (lo + 29) (lo + 28), bits x (lo + 27) lo)
    let reserved := if top then bits x 831 802 + bits x 895 866 + bits x 1023 896
      else ((List.range 4).map fun k => bits x (799 + 32 * k) (798 + 32 * k)).foldl (· + ·) 0 + bits x 1023 896
    let f := if top then f64 else f32
    let ok := reserved == 0 && kids.all fun k => k.1.all (fun b => !(f.val b).isNan) &&
      (k.2.1 == 0 || (k.2.1 != 3 && decide (k.2.2 < if k.2.1 = 1 then h.ncount else h.lcount)))
    if ok then some kids else none
/-- The children of a node. -/
def readNode (p c : Nat) (h : Header) (top : Bool) (index : Nat) (eng : Option Nat := none) : RayM (List Kid) :=
  (RayM.check (decide (index < h.ncount))).then fun _ => (readStruct p c (h.nodes + 128 * index) 128 eng).then fun x =>
    match nodeKids h top x with
    | some kids => .ok kids
    | none => .fail .bad

/-- An instance (Table 14-1). -/
structure Inst where
  org : V3
  m : List Rat
  blas : Nat
  user : Nat
  mask : Nat
  opaque_ : Bool
  cullback : Bool
  deriving Repr
/-- Reading instance `index` of a top level, checked. -/
def readInst (p c : Nat) (h : Header) (index : Nat) (eng : Option Nat := none) : RayM Inst :=
  (RayM.check (decide (index < h.lcount))).then fun _ => (readStruct p c (h.leaves + 128 * index) 128 eng).then fun x =>
    let ms := (List.range 9).map fun i => fin f32 (bits x (192 + 32 * i + 31) (192 + 32 * i))
    match V3.ofBits f64 [bits x 63 0, bits x 127 64, bits x 191 128],
      ms.all (·.isSome) && vaOk (bits x 575 512) && bits x 511 480 == 0 && bits x 1023 618 == 0 with
    | some org, true => .ok { org := org, m := ms.map (·.getD 0), blas := bits x 575 512, user := bits x 607 576, mask := bits x 615 608
                              opaque_ := bit x 616, cullback := bit x 617 }
    | _, _ => .fail .bad
/-- Reading triangle `index` of a bottom level, checked. -/
def readTri (p c : Nat) (h : Header) (index : Nat) (eng : Option Nat := none) : RayM (V3 × V3 × V3) :=
  (RayM.check (decide (index < h.lcount))).then fun _ => (readStruct p c (h.leaves + 48 * index) 48 eng).then fun x =>
    let v (i : Nat) := V3.ofBits f32 ((List.range 3).map fun j => bits x (96 * i + 32 * j + 31) (96 * i + 32 * j))
    match v 0, v 1, v 2 with
    | some a, some b, some c => (RayM.check (bits x 383 288 == 0)).then fun _ => .ok (a, b, c)
    | _, _, _ => .fail .bad

/-! ### The ray (R392, R393) -/

/-- Fields of a ray record. -/
structure RayIn where
  o : V3
  d : V3
  tmin : Nat
  tmax : Nat
  flags : Nat
  deriving Repr
/-- A record that is traversed (R393): none is a miss at once. -/
def rayIn (ws : List Nat) : Option RayIn :=
  let w (i : Nat) := ws.getD i 0
  match V3.ofBits f64 [w 0 + 2 ^ 32 * w 1, w 2 + 2 ^ 32 * w 3, w 4 + 2 ^ 32 * w 5], V3.ofBits f32 [w 6, w 7, w 8] with
  | some o, some d =>
    if d.isZero || (f32.val (w 9)).isNan || (f32.val (w 10)).isNan || lt32 (w 9) 0 || lt32 (w 10) (w 9) then none
    else some { o := o, d := d, tmin := w 9, tmax := w 10, flags := w 11 }
  | _, _ => none
namespace RayIn
def fopaque (r : RayIn) : Bool := bit r.flags 0
def cullback (r : RayIn) : Bool := bit r.flags 1
/-- A primary ray of a draw with cullfront (13 Table 13-2); the bit is 0 in a TRACE's record. -/
def cullfront (r : RayIn) : Bool := bit r.flags 4
def first (r : RayIn) : Bool := bit r.flags 2
def noproc (r : RayIn) : Bool := bit r.flags 3
def rmask (r : RayIn) : Nat := bits r.flags 15 8
end RayIn

/-- A parameter bound as a number: an infinite one is beyond every box. -/
def boundOf (x : Nat) : Rat := (fin f32 x).getD farAway
/-- [tmin, tcur] widened to every parameter whose rounding lies in it, so that the box tests stay conservative (R393). -/
def paramRange (tmin tcur : Nat) : Rat × Rat :=
  let step (x : Rat) : Rat := pow2 (if x = 0 then -149 else max (ilog2 (if x < 0 then -x else x) - 23) (-149))
  let a := boundOf tmin
  let b := boundOf tcur
  (a - step a, b + step b)

/-- The object-space ray of an instance (R393): none where it is skipped. -/
def objectRay (r : RayIn) (k : Inst) : Option (List Nat × List Nat) :=
  let p := r.o.sub k.org
  let pb := [rne32 p.x, rne32 p.y, rne32 p.z]
  match V3.ofBits f32 pb with
  | none => none
  | some p =>
    let row (v : V3) (i : Nat) : Nat := rne32 (k.m.getD (3 * i) 0 * v.x + k.m.getD (3 * i + 1) 0 * v.y + k.m.getD (3 * i + 2) 0 * v.z)
    let o := (List.range 3).map (row p)
    let d := (List.range 3).map (row r.d)
    match V3.ofBits f32 o, V3.ofBits f32 d with
    | some _, some dv => if dv.isZero then none else some (o, d)
    | _, _ => none

/-! ### Traversal (R393-R397) -/

/-- What chooses among the children of a node: format, origin, direction, level, depth of the node, whether its leaves are procedural. -/
abbrev KidChoice := Ray → Fmt → List Kid → V3 → V3 → Nat → Nat → Bool → RayM (List Visit)
/-- Every child, whatever its box, but for procedural leaves. -/
def anyKid : KidChoice := fun _ _ kids _ _ level depth proc => .ok <|
  (kids.filter fun k => k.2.1 != 0 && !(proc && k.2.1 == 2)).map fun k =>
    { entry := 0xFF800000, above := 0xFF800000, level := level, kind := k.2.1, index := k.2.2, depth := depth + 1 }

/-- (instance, triangle) keys in order. -/
def keyLess (a b : Hit) : Bool := decide (a.inst < b.inst) || (a.inst == b.inst && decide (a.prim < b.prim))
/-- A candidate at a parameter beats what is committed (R394). -/
def beats (r : Ray) (t : Nat) (h : Hit) : Bool :=
  lt32 t r.tcur || (le32 t r.tcur && match r.committed with | some k => keyLess h k | none => true)

/-- A traversal that ends (R395): 1 with a committed hit, else 0. -/
def rayEnd (r : Ray) : Ray := { r with status := if r.committed.isSome then 1 else 0, visits := [], candidate := none, inst := none }
/-- A commit; with `first` it ends the traversal. -/
def rayCommit (r : Ray) (h : Hit) (first : Bool) : Ray :=
  let r := { r with committed := some h, tcur := h.t, candidate := none }
  if first then rayEnd r else r

/-- The triangle of a bottom level against the ray (R394, R395): the ray after it. -/
def testTri (r : Ray) (x : RayIn) (k : Inst) (inst prim : Nat) (ob db : List Nat) (tri : V3 × V3 × V3) : Ray :=
  match V3.ofBits f32 ob, V3.ofBits f32 db with
  | some o, some d =>
    match triMeet o d tri.1 tri.2.1 tri.2.2 with
    | none => r
    | some (t, u, v, front) =>
      let t' := rne32 t
      let h : Hit := { t := t', u := rne32 u, v := rne32 v, inst := inst, prim := prim, front := front, proc := false, user := k.user, mask := k.mask
                       dx := db.headD 0, ox := ob.headD 0 }
      if lt32 t' x.tmin || lt32 r.tcur t' || (!front && (x.cullback || k.cullback)) || (front && x.cullfront) || !beats r t' h then r
      else if k.opaque_ || x.fopaque then rayCommit r h x.first
      else { r with status := 2, candidate := some h }
  | _, _ => r

/-- A node passes the ray stack store of its ray's cluster, which keeps copies of nodes (R205, R397; log entry 106). -/
def nodeCopy (p c : Nat) (r : Ray) (va : Nat) : RayM Unit := fun s =>
  (.ok (), match mget r.group s.groups with
    | some g => s.copyRead (Base.rayStack g.cluster + va % 2 ^ 27) (some (p, c))
    | none => s)
/-- A node or leaf is opened (R393): what it adds to the visits, or does to the ray. -/
def rayOpen (p c : Nat) (eng : Option Nat) (x : RayIn) (choose : KidChoice) (r : Ray) (v : Visit) : RayM Ray :=
  (readHeader p c r.scene true eng).then fun top =>
  if v.level = 0 then
    if v.kind = 1 then
      (RayM.check (decide (v.depth ≤ 48))).then fun _ => (readNode p c top true v.index eng).then fun kids =>
        (nodeCopy p c r (top.nodes + 128 * v.index)).then fun _ => (choose r f64 kids x.o x.d 0 v.depth false).then fun vs =>
          .ok { r with visits := vs ++ r.visits }
    else
      (readInst p c top v.index eng).then fun k =>
        if Nat.land k.mask x.rmask = 0 then .ok r else
        match objectRay x k with
        | none => .ok r
        | some (o, d) => (readHeader p c k.blas false eng).then fun h =>
          if h.proc && x.noproc then .ok r
          else .ok { r with inst := some (v.index, o, d), visits := { entry := v.entry, above := v.above, level := 1, kind := 1, index := 0, depth := 1 } :: r.visits }
  else
    match r.inst with
    | none => .ok r
    | some (inst, ob, db) =>
      (readInst p c top inst eng).then fun k => (readHeader p c k.blas false eng).then fun h =>
      match V3.ofBits f32 ob, V3.ofBits f32 db with
      | some o, some d =>
        if v.kind = 1 then
          (RayM.check (decide (v.depth ≤ 32))).then fun _ => (readNode p c h false v.index eng).then fun kids =>
            (nodeCopy p c r (h.nodes + 128 * v.index)).then fun _ => (choose r f32 kids o d 1 v.depth h.proc).then fun vs =>
              .ok { r with visits := vs ++ r.visits }
        else if h.proc then
          -- not where its box has come to lie beyond tcur (R395)
          if lt32 r.tcur v.above then .ok r else
          let t := if lt32 v.entry x.tmin then x.tmin else v.entry
          .ok { r with status := 3, candidate := some { t := t, u := 0, v := 0, inst := inst, prim := v.index, front := false, proc := true
                                                        user := k.user, mask := k.mask, dx := db.headD 0, ox := ob.headD 0 } }
        else (readTri p c h v.index eng).then fun tri => .ok (testTri r x k inst v.index ob db tri)
      | _, _ => .ok r

/-- Some leaf beneath what a ray has to visit meets the hit rule (R394), whatever the boxes say (`fuel` visits): nothing is read for it, and what
cannot be read holds none. -/
def leafMeets (p c : Nat) (x : RayIn) : Nat → Ray → State → Bool
  | 0, _, _ => false
  | fuel + 1, r, s =>
    match r.visits with
    | [] => false
    | v :: vs =>
      match rayOpen p c none x anyKid { r with visits := vs } v s with
      | (.ok q, s) => if q.status = 2 ∨ q.committed ≠ r.committed then true
        else leafMeets p c x fuel (if q.status = 3 then { r with visits := vs } else q) s
      | (.error _, s) => leafMeets p c x fuel { r with visits := vs } s
/-- A box is not rejected where a leaf beneath it meets the hit rule (R393; log entry 123). -/
def keepsBox (p c : Nat) (x : RayIn) (r : Ray) (v : Visit) (s : State) : Bool := leafMeets p c x (2 ^ 64) { r with visits := [v] } s
/-- The children that a ray visits (R393, R395): those whose boxes it meets within [tmin, tcur], in ascending order of entry parameter, ties to
the lower child index. A procedural leaf is met exactly; any other box is kept also where a leaf beneath it is met. -/
def kidVisits (p c : Nat) (x : RayIn) : KidChoice := fun r f kids o d level depth proc s =>
  let one (k : Kid) : Option (Rat × Visit) :=
    if k.2.1 = 0 then none else
    let span := boxSpan f k.1 o d
    let near := (span.map (·.1)).getD (-farAway)
    let v : Visit := { entry := ofRat f32 .down near, above := ofRat f32 .up near, level := level, kind := k.2.1, index := k.2.2, depth := depth + 1 }
    if proc && k.2.1 == 2 then
      if span.any (spanIn (boundOf x.tmin, boundOf r.tcur)) then some (near, v) else none
    else if span.any (spanIn (paramRange x.tmin r.tcur)) || keepsBox p c x r v s then some (near, v) else none
  (.ok (((kids.filterMap one).mergeSort fun a b => decide (a.1 ≤ b.1)).map (·.2)), s)
/-- One visit (R393). -/
def rayVisit (p c : Nat) (eng : Option Nat) (x : RayIn) (r : Ray) (v : Visit) : RayM Ray := fun s =>
  if lt32 r.tcur v.entry && !keepsBox p c x r v s then (.ok r, s) else rayOpen p c eng x (kidVisits p c x) r v s

/-- The traversal up to the next rest, or to a line that has no translation (`fuel` visits). The visit under way stays on the list. -/
def rayRun (p c : Nat) (eng : Option Nat) (x : RayIn) : Nat → Ray → State → (Ray × Option (Xl × Nat)) × State
  | 0, r, s => ((r, none), s)
  | fuel + 1, r, s =>
    match r.visits with
    | [] => ((rayEnd r, none), s)
    | v :: vs =>
      match rayVisit p c eng x { r with visits := vs } v s with
      | (.error .bad, s) => (({ rayEnd r with status := 4, committed := none }, none), s)
      | (.error (.stop y va), s) => ((r, some (y, va)), s)
      | (.ok r, s) => if r.status = 15 then rayRun p c eng x fuel r s else ((r, none), s)

/-! ### Results (R396, R403) -/

/-- The current hit of a ray at rest: the candidate, or the committed hit. -/
def currentHit (r : Ray) : Option Hit := if r.status = 1 then r.committed else if r.status = 2 ∨ r.status = 3 then r.candidate else none
/-- The status word (Table 14-3). -/
def statusWord (r : Ray) : Nat := r.status + 16 * ((currentHit r).map fun h => (h.front && r.status != 3).toNat).getD 0
/-- The two words of HITR (Table 14-5). -/
def hitWords (r : Ray) (fn : Nat) : Nat × Nat :=
  match fn with
  | 0 => (statusWord r, r.token)
  | _ => match currentHit r with
    | none => (0, 0)
    | some h => match fn with
      | 1 => (h.t, if r.committed.isSome then r.tcur else 0x7F800000)
      | 2 => (h.u, h.v)
      | 3 => (h.inst, h.prim)
      | 4 => (h.user, h.mask)
      | _ => (h.dx, h.ox)

/-- The results that wait for a ray that has come to rest (R401, R403); a failed translation and an uncorrectable word are reported by their
WAITT (R397). -/
def rayLand (w : Wave) (t : Nat) (r : Ray) (failed : Option Nat) (ecc : Option EccHit := none) : Wave :=
  { w with deferred := w.deferred.map fun d =>
      match asksRay d t r.token with
      | some fn =>
        let d := addWords d t (hitWords r fn)
        { d with failed := d.failed.orElse (fun _ => failed), ecc := d.ecc.orElse fun _ => ecc }
      | none => d }

/-! ### Instructions (R399-R403) -/

/-- A deferred result joins the counters, made already where no ray of it moves. -/
def addDeferred (s : State) (c : Ctx) (reg words : Nat) (mask : BitVec 32) (job : DefJob) (got : List (Nat × Word)) (w : Wave) : State × Wave :=
  let d : Deferred := { id := s.seq, pc := c.w.pc, reg := reg, words := words, mask := mask, job := job, value := none, arrived := false, raise := []
                        ecc := none, got := got, fault := none, failed := none }
  let full := (raysOf d).all fun r => got.any fun e => e.1 == reg * 32 + r.1
  (s.fresh, { w with deferred := w.deferred ++ [{ d with value := if full then some got else none }] })

/-- TRACE (R401). -/
def execTrace (d a b : Reg) (s : State) : Host.Outcome State Fault Refusal :=
  s.issue { ins := .trace d a b, who := .wave, uses := [w2 d, { reg := a, n := 12, align := 4 }, r2 b], notLocked := true } fun s c =>
    let word (c : Ctx) (t i : Nat) : Nat := (c.w.reg t (a.toNat + i)).toNat
    withCounter s c fun s c =>
      let mine := c.active.filter fun t => !c.isHelper t
      if mine.any fun t => bits (word c t 11) 7 4 != 0 || bits (word c t 11) 31 16 != 0 then .trap (trapIllop (wordOf (.trace d a b))) else
      let (s, w) := mine.foldl (fun (st : State × Wave) t =>
        let (s, w) := abandonRay st.1 st.2 c.g c.wi t
        let old := dget 0 t w.tokens
        let token := if (old + 1) % 2 ^ 32 = 0 then 1 else (old + 1) % 2 ^ 32
        let ws := (List.range 12).map (word c t)
        let start : Ray := { token := token, scene := (c.w.dreg t b.toNat).toNat, words := ws, status := 15, tcur := ws.getD 10 0, committed := none
                             candidate := none, visits := [{ entry := ws.getD 9 0, above := ws.getD 9 0, level := 0, kind := 1, index := 0, depth := 1 }], inst := none
                             fault := none, group := c.g }
        let r := if (rayIn ws).isSome then start else { start with status := 0, visits := [] }
        ({ s with rays := mset (rayKey c.g c.wi t) r s.rays }, { w with tokens := mset t token w.tokens })) (s, c.next)
      let jobs := mine.map fun t => (t, dget 0 t w.tokens)
      let rest := (mine.filterMap fun t => (mget (rayKey c.g c.wi t) s.rays).map fun r => (t, r)).filter fun e => e.2.status != 15
      let got := (rest.flatMap fun e => pairWords d.toNat e.1 (hitWords e.2 0)) ++
        (c.active.filter c.isHelper).flatMap fun t => pairWords d.toNat t (0, 0)
      let (s, w) := addDeferred s c d.toNat 2 c.w.active (.trace jobs) got w
      .done s w

/-- HITR (R403). -/
def execHitr (d a : Reg) (f : BitVec 7) (s : State) : Host.Outcome State Fault Refusal :=
  s.issue { ins := .hitr d a f, who := .wave, uses := [w2 d, r1 a], notLocked := true } fun s c =>
    let mine (c : Ctx) := c.active.filter fun t => !c.isHelper t
    withCounter s c fun s c =>
      if (mine c).any fun t => (c.w.reg t a.toNat).toNat != dget 0 t c.w.tokens then .trap trapSync else
      let jobs := (mine c).map fun t => (t, dget 0 t c.w.tokens)
      let got := (mine c).flatMap (fun t => match mget (rayKey c.g c.wi t) s.rays with
          | some r => if r.status = 15 then [] else pairWords d.toNat t (hitWords r f.toNat)
          | none => pairWords d.toNat t (0, if f = 0 then dget 0 t c.w.tokens else 0)) ++
        (c.active.filter c.isHelper).flatMap fun t => pairWords d.toNat t (0, 0)
      let (s, w) := addDeferred s c d.toNat 2 c.w.active (.hitr f.toNat jobs) got c.next
      .done s w

/-- The verdict of a ray at rest with status 2 or 3 (R402). -/
def giveVerdict (r : Ray) (g x : Nat) : Ray :=
  match rayIn r.words, r.candidate with
  | some i, some h =>
    let bad := r.status == 3 && g != 0 && ((f32.val x).isNan || lt32 x i.tmin || !beats r x { h with t := x })
    let g := if bad then 0 else g
    let h := if r.status = 3 then { h with t := x } else h
    let r := if g = 0 then { r with candidate := none } else { r with committed := some h, tcur := h.t, candidate := none }
    if g = 2 ∨ (g = 1 ∧ i.first) then rayEnd r else { r with status := 15 }
  | _, _ => r
/-- RESUME (R402). -/
def execResume (op a b : Reg) (s : State) : Host.Outcome State Fault Refusal :=
  s.issue { ins := .resume op a b, who := .wave, uses := [r1 op, r1 a, r1 b], notLocked := true } fun s c =>
    let mine := c.active.filter fun t => !c.isHelper t
    let v (r : Reg) (t : Nat) : Nat := (c.w.reg t r.toNat).toNat
    let check (t : Nat) : Option TrapInfo :=
      match mget (rayKey c.g c.wi t) s.rays with
      | none => some trapSync
      | some r =>
        if v a t ≠ r.token then some trapSync
        else if r.status ≠ 2 ∧ r.status ≠ 3 then some trapSync
        else if 3 ≤ v b t then some (trapIllop (wordOf (.resume op a b)))
        else none
    match State.firstTrap mine check with
    | some ti => .trap ti
    | none =>
      .done { s with rays := mine.foldl (fun m t => mupd (rayKey c.g c.wi t) (fun r => giveVerdict r (v b t) (v op t)) m) s.rays } c.next

/-! ### RAY_REST (R393-R398) -/

/-- A ray comes to rest, or meets a line without a translation and waits for its verdict (R397). -/
def tryRayRest (ray : Nat) (s : State) : Option State :=
  let no : Option State := none
  let (g, wi, t) := (ray / 1024, ray / 32 % 32, ray % 32)
  match mget ray s.rays, s.ctxOf g wi with
  | some r, some c =>
    match rayIn r.words with
    | none => no
    | some x =>
      if r.status ≠ 15 ∨ r.fault.isSome then no else
      -- every visit is of a node or a leaf; a level holds at most 2^28 of each on paths of at most 48 and 32 nodes
      match rayRun c.part c.l.ctx (State.engineOf c.grp.cluster 2) x (2 ^ 64) r s with
      | ((_, some (.wait, _)), _) => no
      | ((r, some (.fault reason, va)), s) =>
        let (f, s) := s.raiseFault c.part c.l.ctx c.grp.cluster 2 va reason .read
        some { s with rays := mset ray { r with fault := some (f, va) } s.rays }
      -- an uncorrectable word of a structure: the ray is at rest, and its results report it (R397)
      | ((r, some (.ecc, va)), s) =>
        let q := { rayEnd r with status := 4, committed := none }
        some ({ s with rays := mset ray q s.rays }.updWave g wi fun w => rayLand w t q none (some (mainEcc va)))
      | ((_, some (.pa _, _)), _) => no
      | ((r, none), s) =>
        some ({ s with rays := mset ray r s.rays }.updWave g wi fun w => rayLand w t r none)
  | _, _ => no
/-- RAY_REST: it happens where its rule lets it; elsewhere nothing happens. -/
def execRayRest (ray : Nat) (s : State) : Host.Outcome State Fault Refusal := happens s (tryRayRest ray s)

/-- The verdict on a ray's fault (R397, R452): it reads again, or it is at rest with status 4 and its results report the address. -/
def rayVerdict (s : State) (ray : Nat) (retry : Bool) : State :=
  match mget ray s.rays with
  | none => s
  | some r =>
    if retry then { s with rays := mset ray { r with fault := none } s.rays }
    else
      let q := { rayEnd r with status := 4, committed := none, fault := none }
      { s with rays := mset ray q s.rays }.updWave (ray / 1024) (ray / 32 % 32) fun w => rayLand w (ray % 32) q (r.fault.map fun (x : Nat × Nat) => x.2)

end Sys2Proof.Machine
end

