-- ==== Sys2Proof/Machine/Raster.lean ====
section
/-! DEFINITION. The raster engine (13 R361-R390) and the strip events of the task engine (12 R351-R353): headers and draws, the transform, clipping
and coverage, binning, primary rays, visibility, shading groups, VISQ, PIXW, SRATE, ORDB and ORDE, STRIP_START and STRIP_DEADLINE. -/

namespace Sys2Proof.Machine
open Sys2Proof.Machine.Fp

/-! ### The strip header (R364) -/

namespace RasterJob
def draws (j : RasterJob) : Nat := bits j.header 63 0
def ndraws (j : RasterJob) : Nat := bits j.header 76 64
def width (j : RasterJob) : Nat := bits j.header 108 96
def lines (j : RasterJob) : Nat := bits j.header 118 112
/-- Samples of a pixel. -/
def msaa (j : RasterJob) : Nat := 2 ^ bits j.header 121 120
def camera (j : RasterJob) : Option V3 := V3.ofBits f64 [bits j.header 191 128, bits j.header 255 192, bits j.header 319 256]
/-- Element (r, c) of the matrix. -/
def mat (j : RasterJob) (r c : Nat) : Option Rat := fin f32 (bits j.header (351 + 32 * (4 * r + c)) (320 + 32 * (4 * r + c)))
def binbuf (j : RasterJob) : Nat := bits j.header 883 832
def binlen (j : RasterJob) : Nat := bits j.header 927 896
def bgflat (j : RasterJob) : Nat := bits j.header 959 928
def target (j : RasterJob) : Nat := bits j.header 991 960
def tpitch (j : RasterJob) : Nat := bits j.header 1007 992
def ntiles (j : RasterJob) : Nat := headerTiles j.header
end RasterJob

/-- A header's fields are in their ranges (Table 13-1). -/
def headerOk (x : Nat) (strip : Bool) : Bool :=
  let w := bits x 108 96
  let n := bits x 118 112
  let bl := bits x 927 896
  bits x 63 52 == 0 && decide (1 ≤ bits x 76 64) && decide (bits x 76 64 ≤ 4096) && bits x 95 77 == 0 && decide (1 ≤ w) && decide (w ≤ 8192) &&
  bits x 111 109 == 0 && decide (8 ≤ n) && decide (n ≤ 64) && n % 8 == 0 && bits x 119 119 == 0 && decide (bits x 121 120 ≤ 2) && bits x 127 122 == 0 &&
  bits x 883 832 % 4096 == 0 && bits x 895 884 == 0 && bl % 4096 == 0 && decide (65536 ≤ bl) && bits x 1023 1008 == 0 &&
  (if strip then bits x 991 960 == 0 && bits x 1007 992 == 0
   else bits x 991 960 % 4 == 0 && bits x 1007 992 % 4 == 0 && decide (4 * w ≤ bits x 1007 992))

/-- What reading the header answers. -/
inductive HeaderRead where
  | ok (x : Nat)
  | bad
  | fault (reason : Nat)
  | wait
  deriving Repr
/-- The scratchpad bytes of argument record 0. -/
def headerParts (s : State) (l : Launch) : List (Nat × Nat) :=
  if s.inWindow l.part l.card.argBase 128 then windowParts s l.part l.card.argBase 128 else []
/-- Argument record 0: on-die where it lies in the scratchpad window, else in main memory (R346, R361; log entry 28). -/
def readStripHeader (s : State) (l : Launch) : HeaderRead × State :=
  let a := l.card.argBase
  if s.inWindow l.part a 128 then
    let (bs, bad, s) := readParts s (headerParts s l) (some (l.part, l.ctx))
    (if bad ≠ 0 then .bad else .ok (ofBytes bs), s)
  else match s.vread l.part l.ctx a 128 with
    | (.inl bs, s) => (.ok (ofBytes bs), s)
    | (.inr .wait, s) => (.wait, s)
    | (.inr (.fault r), s) => (.fault r, s)
    | (.inr _, s) => (.bad, s)

/-- Raster work before the header is read. -/
def emptyJob (start : Nat) (importance : List Nat) : RasterJob :=
  { header := 0, units := [], tris := [], rayDraws := [], bins := 0, pool := 0, pages := [], tiles := [], rates := [], req := [], importance := importance
    start := start, flats := [], lowered := [], closed := false, failed := false, made := 0 }
def setJob (s : State) (lid : Nat) (j : RasterJob) : State := s.updLaunch lid fun l => { l with raster := some j }

/-! ### Strip start (R351, R352) -/

/-- The importance map: 256 stands for a byte that cannot be read; a granule under scrub is waited for (R445). -/
def readImportance (s : State) (l : Launch) : Option (List Nat × State) :=
  let va := s.barBits (stplOff l.card.head) 211 160
  (List.range 256).foldl (fun (st : Option (List Nat × State)) i => st.bind fun (bs, s) =>
    match s.xlate l.part l.ctx ((va + i) % 2 ^ 52) .read with
    | (.pa a, s) => some (bs ++ [s.mainLoad l.part a 1], s)
    | (.wait, _) => none
    | (_, s) => some (bs ++ [256], s)) (some ([], s))
/-- The background groups of a strip card's clusters are suspended (R351). -/
def suspendBackground (s : State) (l : Launch) : State :=
  let cls := s.stplTiles l.part l.card.head
  { s with groups := s.groups.map fun (e : Nat × Group) =>
      if cls.contains e.2.cluster && e.2.status == .resident && s.suspends e.2 then (e.1, { e.2 with status := .suspended, stopFrom := some s.cyc }) else e }
/-- STRIP_START (R351): from the strip card's start time its clusters' background groups are suspended, and the importance map is read. -/
def tryStripStart (launch : Nat) (s : State) : Option State :=
  match mget launch s.launches with
  | none => none
  | some l =>
    let t := suspendBackground s l
    if !(l.card.isStrip && State.alive l && l.raster.isNone && decide (s.cycOfPtp l.card.startTime ≤ s.cyc)) then none
    else match readImportance t l with
      | some (imp, t) => some (setJob t launch (emptyJob s.cyc imp))
      -- the groups are suspended all the same
      | none => event (t.groups != s.groups) t
/-- STRIP_START: it happens where its rule lets it; elsewhere nothing happens. -/
def execStripStart (launch : Nat) (s : State) : Host.Outcome State Fault Refusal := happens s (tryStripStart launch s)

/-! ### Tiles (R363, R364) -/

/-- The primitive-id store of a cluster is in use. -/
def storeBusy (s : State) (cl : Nat) : Bool :=
  s.launches.any fun e => match e.2.raster with
    | some j => e.2.status == .running && j.tiles.any fun t => t.2.cluster == cl && !t.2.done
    | none => false
/-- A read of the task engine at an address waits for a verdict. -/
def taskFault (s : State) (l : Launch) (va : Nat) : Bool :=
  s.faultRecs.any fun f => f.part == l.part && f.ctx == l.ctx && f.cluster == 0xFF && f.engine == 4 && f.page == va / 4096 * 4096
/-- A strip card could start a tile on a cluster now: its owner's next tile there (R363). -/
def wantsTile (s : State) (l : Launch) (cl : Nat) : Bool :=
  match l.raster with
  | none => false
  | some j =>
    let cls := s.cardClusters l.part l.card
    let tiles := (List.range (if j.header = 0 then cls.length else j.ntiles)).filter fun t => cls.getD (t % cls.length) 0 == cl
    l.card.isStrip && l.status == .running && !j.closed && !taskFault s l l.card.argBase && (tiles.find? fun t => !j.tileDone t).isSome
/-- A card whose header is bad ends without drawing (R43, R364). -/
def badHeader (s : State) (lid : Nat) : State :=
  ((rejectQueued (s.launches.length + 1) s lid 0x1E).updLaunch lid fun l => { l with raster := none }).releaseUnits lid |>.resumeSuspended

/-- TILE_START (R363, R364): an owner starts a tile's visibility; the card's first tile reads the header. -/
def tryTileStart (launch tile : Nat) (s : State) : Option State :=
  let no : Option State := none
  match mget launch s.launches with
  | none => no
  | some l =>
    let cls := s.cardClusters l.part l.card
    let n := cls.length
    let cl := cls.getD (tile % n) 0
    let ok := l.status == .running && s.rasterCard l.part l.card && cls != [] && (!l.card.isStrip || l.raster.isSome) &&
      (l.card.isStrip || !s.inService cl) && !storeBusy s cl &&
      -- between strip cards contending for a cluster (R350)
      s.launches.all fun e => !(wantsTile s e.2 cl && stripBefore e.2 l && l.card.isStrip)
    if !ok then no else
    let j := l.raster.getD (emptyJob s.cyc [])
    let newTile : TileJob := { cluster := cl, samples := [], hits := [], traced := false, fault := none, bad := [], final := false, rate := 0, pending := []
                               open_ := 0, done := false }
    if j.closed then no
    else if j.header ≠ 0 then
      event (decide (tile < j.ntiles) && (mget tile j.tiles).isNone && (decide (tile < n) || j.tileDone (tile - n)))
        (setJob s launch { j with tiles := mset tile newTile j.tiles })
    else if n ≤ tile then no
    else if j.failed then some (badHeader s launch)
    else if taskFault s l l.card.argBase then no
    else engineAt s (headerParts s l) fun s => match readStripHeader s l with
    | (.wait, _) => no
    | (.bad, s) => some (badHeader s launch)
    | (.fault r, s) => some ((s.raiseFault l.part l.ctx 0xFF 4 l.card.argBase r .read).2)
    | (.ok x, s) =>
      if !headerOk x l.card.isStrip then some (badHeader s launch)
      else if headerTiles x ≤ tile then no
      else
        let imp := j.importance.take (headerTiles x)
        let j := { j with header := x, units := (List.range 4).map fun u => (u, (u, 0)), importance := if imp.contains 256 then [] else imp
                          tiles := [(tile, newTile)] }
        -- the prediction at the strip's start
        some (setJob s launch (s.predictAt l j j.start))
/-- TILE_START: it happens where its rule lets it; elsewhere nothing happens. -/
def execTileStart (launch tile : Nat) (s : State) : Host.Outcome State Fault Refusal := happens s (tryTileStart launch tile s)

/-! ### Transform and clipping (R368, R369) -/

/-- A vertex in clip space: four FP32 encodings; none for one that discards its triangles. -/
def clipVertex (j : RasterJob) (v : List Nat) : Option (List Nat) := do
  let x ← V3.ofBits f64 v
  let c ← j.camera
  let d := x.sub c
  let p ← V3.ofBits f32 [rne32 d.x, rne32 d.y, rne32 d.z]
  (List.range 4).mapM fun r => do
    let a ← j.mat r 0
    let b ← j.mat r 1
    let e ← j.mat r 2
    let t ← j.mat r 3
    let y := rne32 (a * p.x + b * p.y + e * p.z + t)
    let _ ← fin f32 y
    pure y

/-- Component i of a finite clip vertex. -/
def clipAt (v : List Nat) (i : Nat) : Rat := (fin f32 (v.getD i 0)).getD 0
/-- The clip planes, each not negative inside, in the order of R369. -/
def clipPlane (k : Nat) (v : List Nat) : Rat :=
  let (x, y, z, w) := (clipAt v 0, clipAt v 1, clipAt v 2, clipAt v 3)
  match k with
  | 0 => z
  | 1 => w - z
  | 2 => 65536 * w - x
  | 3 => 65536 * w + x
  | 4 => 65536 * w - y
  | _ => 65536 * w + y
/-- A polygon cut by a plane: a new vertex is the exact interpolation, rounded once. -/
def clipBy (k : Nat) (poly : List (List Nat)) : List (List Nat) :=
  (List.range poly.length).flatMap fun i =>
    let a := poly.getD i []
    let b := poly.getD ((i + 1) % poly.length) []
    let (da, db) := (clipPlane k a, clipPlane k b)
    let cut : List (List Nat) := if decide (0 ≤ da) != decide (0 ≤ db) then
        [(List.range 4).map fun c => rne32 (clipAt a c + (clipAt b c - clipAt a c) * (da / (da - db)))] else []
    (if 0 ≤ da then [a] else []) ++ cut
/-- Rounding to an integer, ties to even. -/
def roundEven (q : Rat) : Int :=
  let f := q.floor
  let r := q - f
  if r < 1 / 2 then f else if 1 / 2 < r then f + 1 else if f % 2 = 0 then f else f + 1
/-- A vertex on the screen: x and y in 1/256 pixel, and its depth (R368, R369). -/
def screenVertex (v : List Nat) : Option (Int × Int × Nat) := do
  let w := clipAt v 3
  if w = 0 then none else
  let x ← fin f32 (rne32 (clipAt v 0 / w))
  let y ← fin f32 (rne32 (clipAt v 1 / w))
  let z := rne32 (clipAt v 2 / w)
  let _ ← fin f32 z
  pure (roundEven (x * 256), roundEven (y * 256), z)
/-- A primitive's triangles on the screen: clipped, split as a fan from the first vertex, snapped. -/
def screenTris (id : Nat) (vs : List (List Nat)) : List Tri :=
  let poly := (List.range 6).foldl (fun p k => clipBy k p) vs
  (List.range (poly.length - 2)).filterMap fun i => do
    let a ← screenVertex (poly.getD 0 [])
    let b ← screenVertex (poly.getD (i + 1) [])
    let c ← screenVertex (poly.getD (i + 2) [])
    pure { id := id, corners := [a, b, c], clip := vs }

/-! ### Coverage (R370) -/

namespace Tri
def corner (t : Tri) (i : Nat) : Int × Int × Nat := t.corners.getD i (0, 0, 0)
/-- Twice the signed area; negative for a front-facing triangle. -/
def area (t : Tri) : Int :=
  let (a, b, c) := (t.corner 0, t.corner 1, t.corner 2)
  (b.1 - a.1) * (c.2.1 - a.2.1) - (c.1 - a.1) * (b.2.1 - a.2.1)
/-- The edge from a to b against the third vertex c: the sample is on the inner side, or on a top or left edge. -/
def insideEdge (a b c : Int × Int × Nat) (x y : Int) : Bool :=
  let side (px py : Int) : Int := (b.1 - a.1) * (py - a.2.1) - (px - a.1) * (b.2.1 - a.2.1)
  let inner := side c.1 c.2.1
  let e := side x y
  let top := a.2.1 == b.2.1 && decide (a.2.1 < c.2.1)
  -- the third vertex lies to the right of the edge's line
  let (u, v) := if a.2.1 < b.2.1 then (a, b) else (b, a)
  let left := a.2.1 != b.2.1 && decide (0 < (c.1 - u.1) * (v.2.1 - u.2.1) - (c.2.1 - u.2.1) * (v.1 - u.1))
  if e = 0 then top || left else decide (0 < e) == decide (0 < inner)
/-- A sample (in 1/256 pixel of the frame) is covered. -/
def covers (t : Tri) (x y : Int) : Bool :=
  let (a, b, c) := (t.corner 0, t.corner 1, t.corner 2)
  t.area != 0 && insideEdge a b c x y && insideEdge b c a x y && insideEdge c a b x y
/-- The exact plane through the three vertices at a sample, rounded once. -/
def depthAt (t : Tri) (x y : Int) : Nat :=
  let (a, b, c) := (t.corner 0, t.corner 1, t.corner 2)
  let z (v : Int × Int × Nat) : Rat := (fin f32 v.2.2).getD 0
  let n : Rat := t.area
  let wb : Rat := (x - a.1) * (c.2.1 - a.2.1) - (c.1 - a.1) * (y - a.2.1)
  let wc : Rat := (b.1 - a.1) * (y - a.2.1) - (x - a.1) * (b.2.1 - a.2.1)
  rne32 (z a + (z b - z a) * (wb / n) + (z c - z a) * (wc / n))
end Tri

/-- The samples of a pixel, in 1/256 pixel (R370). -/
def samplePlaces (n : Nat) : List (Int × Int) :=
  match n with
  | 1 => [(128, 128)]
  | 2 => [(64, 64), (192, 192)]
  | _ => [(96, 32), (224, 96), (32, 160), (160, 224)]
/-- Key of a sample of a tile. -/
def sampleKey (line col k : Nat) : Nat := (line * 32 + col) * 4 + k
/-- The first line of a card's strip in the frame. -/
def stripTop (l : Launch) (j : RasterJob) : Nat := l.card.strip * j.lines
/-- Columns of a tile that exist. -/
def tileCols (j : RasterJob) (tile : Nat) : Nat := min 32 (j.width - 32 * tile)
/-- A sample's place in the frame, in 1/256 pixel. -/
def samplePlace (l : Launch) (j : RasterJob) (tile line col k : Nat) : Int × Int :=
  let p := (samplePlaces j.msaa).getD k (0, 0)
  ((((32 * tile + col) * 256 : Nat) : Int) + p.1, (((stripTop l j + line) * 256 : Nat) : Int) + p.2)
/-- Every sample of a tile: line, column, number. -/
def tileSamples (j : RasterJob) (tile : Nat) : List (Nat × Nat × Nat) :=
  (List.range j.lines).flatMap fun line => (List.range (tileCols j tile)).flatMap fun col => (List.range j.msaa).map fun k => (line, col, k)

/-- What a sample holds: depth and id (R374). -/
def sampleOf (m : Map (Nat × Nat)) (key : Nat) : Nat × Nat := dget (0x7F800000, 0xFFFFFFFF) key m
/-- Where the primitive-id store of a cluster holds a sample: in the area P of its local store (R162, R203; log entry 106). -/
def sampleWord (cl key : Nat) : Nat := Base.local_ cl + 0xF0000 + 8 * key
/-- The final samples of a tile are written to the store. -/
def storeSamples (s : State) (j : RasterJob) (cl tile : Nat) : State :=
  (tileSamples j tile).foldl (fun (s : State) e => s.tagWrite (sampleWord cl (sampleKey e.1 e.2.1 e.2.2)) 8 none) s
/-- Samples are read from the store: whether one of them is uncorrectable. -/
def checkSamples (s : State) (cl : Nat) (keys : List Nat) : Bool × State :=
  keys.foldl (fun (st : Bool × State) k =>
    let (bad, s) := st.2.tagRead (sampleWord cl k) false none
    (st.1 || bad, s)) (false, s)
/-- A fragment or hit replaces the pair of a sample when its key is smaller (R374). -/
def keepNearer (m : Map (Nat × Nat)) (key depth id : Nat) : Map (Nat × Nat) :=
  let old := sampleOf m key
  if lt32 depth old.1 || (le32 depth old.1 && decide (id < old.2)) then mset key (depth, id) m else m
/-- The bins of a tile are resolved over what the primary rays have left (R374). -/
def resolveTile (l : Launch) (j : RasterJob) (tile : Nat) (m : Map (Nat × Nat)) : Map (Nat × Nat) :=
  j.tris.foldl (fun m (t : Tri) => (tileSamples j tile).foldl (fun m e =>
    let (x, y) := samplePlace l j tile e.1 e.2.1 e.2.2
    if t.covers x y then keepNearer m (sampleKey e.1 e.2.1 e.2.2) (t.depthAt x y) t.id else m) m) m

/-! ### Binning (R365-R367, R371, R372, R390) -/

/-- A raster record, held for the fault queue (Table 13-4). -/
def rasterRecord (s : State) (l : Launch) (kind draw prim va : Nat) : State :=
  s.holdFault l.part 0 (record 64 [(0, kind), (20, l.ctx), (24, l.part), (32, l.card.head), (48, l.card.strip), (64, draw), (96, prim), (128, va),
    (192, s.cyc), (256, l.cardVa)])
/-- A draw record is in its ranges (Table 13-2). -/
def drawOk (x : Nat) : Bool :=
  let kind := bits x 151 148
  let n := bits x 147 128
  bits x 159 154 == 0 && bits x 511 224 == 0 && decide (bits x 63 0 < 2 ^ 52) && decide (bits x 127 64 < 2 ^ 52) &&
    match kind with
    | 0 => decide (1 ≤ n)
    | 1 => n == 0 && bits x 127 64 == 0
    | 2 => decide (1 ≤ n) && decide (n ≤ 4095) && bits x 127 64 == 0
    | _ => false
/-- Reading main memory for a binning unit: none for bytes without a translation; a granule under scrub stops the unit (R445). -/
def unitRead (l : Launch) (va n : Nat) : RayM (Option Nat) := fun s =>
  match s.vread l.part l.ctx (va % 2 ^ 52) n with
  | (.inl bs, s) => (.ok (some (ofBytes bs)), s)
  | (.inr .wait, s) => (.error (.stop .wait va), s)
  | (_, s) => (.ok none, s)
/-- A write of a binning unit. -/
def unitWrite (l : Launch) (va : Nat) (bs : List Byte) : RayM Unit := fun s =>
  match s.vwrite l.part l.ctx (va % 2 ^ 52) bs with
  | (some .wait, s) => (.error (.stop .wait va), s)
  | (_, s) => (.ok (), s)
/-- Three FP64 coordinates at an address. -/
def readVertex (l : Launch) (va : Nat) : RayM (Option (List Nat)) :=
  (unitRead l va 24).then fun x => .ok (x.map fun x => [bits x 63 0, bits x 127 64, bits x 191 128])
/-- Three vertices, read one after the other; none where one cannot be read. -/
def readVertices (f : Nat → RayM (Option (List Nat))) : RayM (Option (List (List Nat))) :=
  (f 0).then fun a => (f 1).then fun b => (f 2).then fun c => .ok ([a, b, c].mapM id)
/-- The tiles whose pixels of the strip a triangle's bounding box meets (R371). -/
def metTiles (l : Launch) (j : RasterJob) (t : Tri) : List Nat :=
  let xs := t.corners.map (·.1)
  let ys := t.corners.map (·.2.1)
  let lo (v : List Int) : Int := v.foldl min (v.headD 0)
  let hi (v : List Int) : Int := v.foldl max (v.headD 0)
  let top : Int := ((stripTop l j * 256 : Nat) : Int)
  let bottom : Int := (((stripTop l j + j.lines) * 256 : Nat) : Int)
  (List.range j.ntiles).filter fun k =>
    let a : Int := ((32 * k * 256 : Nat) : Int)
    let b : Int := (((32 * k + tileCols j k) * 256 : Nat) : Int)
    t.area != 0 && decide (lo xs ≤ b) && decide (a ≤ hi xs) && decide (lo ys ≤ bottom) && decide (top ≤ hi ys)
/-- Bytes of the partition's bin spill pool in use. -/
def poolUsed (s : State) (p : Nat) : Nat :=
  (s.launches.map fun e => if e.2.part = p ∧ State.alive e.2 then ((e.2.raster.map fun j => j.pool).getD 0) else 0).foldl (· + ·) 0
/-- An entry passes the buffers of its binning unit, array 0x22 (R203; log entry 106). -/
def unitBuffer (u n : Nat) : RayM Unit := fun s =>
  (.ok (), s.passThrough (Base.dieWide 0x22 + 4096 * u) n)
/-- An entry is written to the bin buffer, or past its end to the pool: the new uses, none when neither has room (R372). -/
def putEntry (l : Launch) (u : Nat) (j : RasterJob) (e : List Byte) : RayM (Option RasterJob) := fun s =>
  let b := pcfgOff l.part
  let used := poolUsed s l.part + j.pool - ((l.raster.map fun j => j.pool).getD 0)
  if j.bins + e.length ≤ j.binlen then
    ((unitBuffer u e.length).then fun _ => (unitWrite l (j.binbuf + j.bins) e).then fun _ => .ok (some { j with bins := j.bins + e.length })) s
  else if used + e.length ≤ s.barBits b 319 288 then
    ((unitBuffer u e.length).then fun _ => (unitWrite l (s.barBits b 275 224 + used) e).then fun _ => .ok (some { j with pool := j.pool + e.length })) s
  else (.ok none, s)
/-- The entries of a primitive, all or none. -/
def putEntries (l : Launch) (u : Nat) : Nat → RasterJob → RayM (Option RasterJob)
  | 0, j => .ok (some j)
  | n + 1, j => fun s =>
    ((putEntry l u j (Config.binEntry s.free)).then fun
      | none => .ok none
      | some j => putEntries l u n j) { s with free := s.free + 1 }

/-- A unit's place after a primitive. -/
def setUnit (j : RasterJob) (u d p : Nat) : RasterJob := { j with units := mset u (d, p) j.units }
/-- A primitive is transformed and binned, and the unit goes on at `next`; an exhausted pool cuts the rest of its draw (R371, R372). -/
def binPrimitive (lid : Nat) (l : Launch) (j : RasterJob) (u d x pi : Nat) (vs : Option (List (List Nat))) (next : Nat × Nat) : RayM Unit :=
  let tris := match (vs.getD []).mapM (clipVertex j) with
    | some cs => if cs.length = 3 then screenTris (d * 2 ^ 20 + pi) cs else []
    | none => []
  let kept := tris.filter fun t => !((bit x 152 && decide (0 < t.area)) || (bit x 153 && decide (t.area < 0))) && metTiles l j t != []
  let entries := (kept.map fun t => (metTiles l j t).length).foldl (· + ·) 0
  fun s => (putEntries l u entries j).then (fun
    | some j => fun s => (.ok (), setJob s lid (setUnit { j with tris := j.tris ++ kept } u next.1 next.2))
    | none => fun _ => (.ok (), rasterRecord (setJob s lid (setUnit j u (d + 4) 0)) l 0x51 d pi 0)) s

/-- The vertices of triangle pi of a kind-0 draw (R366). -/
def listVertices (l : Launch) (x pi : Nat) : RayM (Option (List (List Nat))) :=
  let (vbuf, ibuf) := (bits x 63 0, bits x 127 64)
  readVertices fun k => (if ibuf = 0 then .ok (some (3 * pi + k)) else unitRead l (ibuf + 4 * (3 * pi + k)) 4).then fun
    | some i => readVertex l (vbuf + 24 * i)
    | none => .ok none
/-- The vertices of triangle k of a meshlet's page (R367). -/
def pageVertices (l : Launch) (page k : Nat) : RayM (Option (List (List Nat))) :=
  (unitRead l page 4).then fun
    | none => .ok none
    | some nv =>
      if nv < 3 ∨ 2048 < nv then .ok none else
      (unitRead l (page + 64 + 24 * nv + 6 * k) 6).then fun
        | none => .ok none
        | some is => readVertices fun m =>
          let i := bits is (16 * m + 15) (16 * m)
          if nv ≤ i then .ok none else readVertex l (page + 64 + 24 * i)

/-- An entry of a meshlet table: page, proxy, triangles; none where it cannot be drawn. -/
def meshEntry (l : Launch) (x e : Nat) : RayM (Option (Nat × Nat × Nat)) :=
  if bits x 147 128 ≤ e then .ok none else
  (unitRead l (bits x 63 0 + 32 * e) 32).then fun y =>
    .ok (y.bind fun y => if bits y 255 104 ≠ 0 ∨ bits y 63 0 % 65536 ≠ 0 ∨ 2 ^ 52 ≤ bits y 63 0 then none
      else some (bits y 63 0, bits y 95 64, bits y 103 96 + 1))
/-- A page's translation, tested without faulting: a page under scrub has one (R367, R445). -/
def resident (l : Launch) (page : Nat) : RayM Bool := fun s =>
  match s.xlate l.part l.ctx page .read with
  | (.pa _, s) | (.wait, s) => (.ok true, s)
  | (_, s) => (.ok false, s)
/-- The entry drawn in place of an entry: itself if its page is resident, else the first resident one of a chain of proxies (`n` to go). -/
def meshChoice (l : Launch) (x : Nat) : Nat → Nat → RayM (Option Nat)
  | n, e => (meshEntry l x e).then fun
    | none => .ok none
    | some (page, proxy, _) => (resident l page).then fun here =>
      if here then .ok (some e) else
      match n with
      | 0 => .ok none
      | n + 1 => if proxy = 0xFFFFFFFF then .ok none else meshChoice l x n proxy

/-- A unit's place in a paged draw: entry, entry drawn plus 1 (0 until it is chosen), triangle. -/
def meshPlace (e drawn k : Nat) : Nat := (e * 8192 + drawn) * 256 + k
/-- One primitive of a paged draw. -/
def binMeshlet (lid : Nat) (l : Launch) (j : RasterJob) (u d x p : Nat) : RayM Unit :=
  let (e, drawn, k) := (p / 256 / 8192, p / 256 % 8192, p % 256)
  let goTo (j : RasterJob) (d q : Nat) : RayM Unit := fun s => (.ok (), setJob s lid (setUnit j u d q))
  if bits x 147 128 ≤ e then goTo j (d + 4) 0
  else if drawn = 0 then
    (meshChoice l x 4 e).then fun choice => (meshEntry l x e).then fun own =>
    -- the entry's own page is not resident: one request for the page and card
    let ask := own.bind fun y => if choice = some e ∨ j.pages.contains y.1 then none else some y.1
    let q := match choice with | some c => meshPlace e (c + 1) 0 | none => meshPlace (e + 1) 0 0
    match ask with
    | some page => fun s => goTo { j with pages := j.pages ++ [page] } d q (rasterRecord s l 0x50 d e page)
    | none => goTo j d q
  else
    (meshEntry l x (drawn - 1)).then fun
    | none => goTo j d (meshPlace (e + 1) 0 0)
    | some (page, _, n) => (pageVertices l page k).then fun vs =>
      binPrimitive lid l j u d x (256 * (drawn - 1) + k) vs (if k + 1 < n then (d, meshPlace e drawn (k + 1)) else (d, meshPlace (e + 1) 0 0))

/-- The unit whose turn it is: the one with the earliest draw (log entry 2). -/
def nextUnit (j : RasterJob) : Option (Nat × Nat × Nat) :=
  (j.units.filter fun e => decide (e.2.1 < j.ndraws)).foldl (fun b e => match b with
    | some (x : Nat × Nat × Nat) => if e.2.1 < x.2.1 then some e else b
    | none => some e) none
/-- Every draw has been binned. -/
def binned (j : RasterJob) : Bool := (nextUnit j).isNone

/-- The instances below the nodes of a list of (index, depth) of a top level, with their bounds; none where a node is bad or cannot be read. -/
def instancesBelow (l : Launch) (h : Header) : Nat → List (Nat × Nat) → List (Nat × List Nat) → RayM (Option (List (Nat × List Nat)))
  | 0, _, _ => .ok none
  | _, [], acc => .ok (some acc)
  | fuel + 1, (k, depth) :: rest, acc =>
    if h.ncount ≤ k ∨ 48 < depth then .ok none else
    (unitRead l (h.nodes + 128 * k) 128).then fun x =>
      match x.bind (nodeKids h true) with
      | none => .ok none
      | some kids =>
        let nodes := (kids.filter fun k => k.2.1 == 1).map fun k => (k.2.2, depth + 1)
        instancesBelow l h fuel (nodes ++ rest) (acc ++ (kids.filter fun k => k.2.1 == 2).map fun k => (k.2.2, k.1))
/-- An instance is kept in the bins: its index is below 2^20, and it needs no shader (R373). -/
def binsInstance (l : Launch) (h : Header) (k : Nat) : RayM Bool :=
  if 2 ^ 20 ≤ k then .ok false else
  (unitRead l (h.leaves + 128 * k) 128).then fun x => .ok (x.any fun x => bit x 616)
/-- The instances that a ray-space draw can put into bins, with their bounds (R373): none of a structure that is bad at its top level (log
entry 124). -/
def rayInstances (l : Launch) (va : Nat) : RayM (List (Nat × List Nat)) := fun s =>
  match readHeader l.part l.ctx va true none s with
  | (.error (.stop .wait a), s) => (.error (.stop .wait a), s)
  | (.error _, s) => (.ok [], s)
  | (.ok h, s) => (instancesBelow l h (2 ^ 64) [(0, 1)] []).then (fun is =>
      (is.getD []).foldl (fun m e => m.then fun es => (binsInstance l h e.1).then fun b => .ok (if b then es ++ [e] else es)) (.ok [])) s

/-- One primitive of draw d, from place p of unit u (R365-R372). A draw that is out of range, or that cannot be read, is skipped. -/
def unitStep (lid : Nat) (l : Launch) (j : RasterJob) (u d p : Nat) : RayM Unit :=
  (unitRead l (j.draws + 64 * d) 64).then fun x =>
  match x.filter drawOk with
  | none => fun s => (.ok (), rasterRecord (setJob s lid (setUnit j u (d + 4) 0)) l 0x51 d 0xFFFFFFFF 0)
  | some x =>
    let j := { j with flats := mset d (bits x 191 160) j.flats }
    match bits x 151 148 with
    | 0 => (listVertices l x p).then fun vs => binPrimitive lid l j u d x p vs (if p + 1 < bits x 147 128 then (d, p + 1) else (d + 4, 0))
    | 1 => (rayInstances l (bits x 63 0)).then fun is => fun s =>
      (.ok (), setJob s lid (setUnit { j with rayDraws := j.rayDraws ++ [{ draw := d, rec_ := x, insts := is }] } u (d + 4) 0))
    | _ => binMeshlet lid l j u d x p
/-- A raster card is pre-empted between draws: while a strip card is in service on one of its clusters, no unit begins a draw of it (R388;
log entry 108). -/
def stopsBetweenDraws (s : State) (l : Launch) (p : Nat) : Bool :=
  !l.card.isStrip && p == 0 && (s.cardClusters l.part l.card).any s.inService

/-- BINNING_PRIMITIVE (R365-R372): a binning unit takes the next primitive of its draws. A scrub that a read meets delays it. -/
def tryBinningPrimitive (launch : Nat) (s : State) : Option State :=
  let no : Option State := none
  match mget launch s.launches with
  | none => no
  | some l =>
    match l.raster with
    | none => no
    | some j =>
      match (if j.header = 0 ∨ j.closed ∨ l.status ≠ .running then none else nextUnit j) with
      | none => no
      | some (u, d, p) =>
        if stopsBetweenDraws s l p then no else
        match unitStep launch l j u d p s with
        | (.ok _, t) => some t
        | (.error _, _) => no
/-- BINNING_PRIMITIVE: it happens where its rule lets it; elsewhere nothing happens. -/
def execBinningPrimitive (launch : Nat) (s : State) : Host.Outcome State Fault Refusal := happens s (tryBinningPrimitive launch s)

/-! ### Primary rays (R373) -/

/-- Row r of the matrix as a linear part and an offset. -/
def matRow (j : RasterJob) (r : Nat) : Option (V3 × Rat) := do
  let a ← j.mat r 0
  let b ← j.mat r 1
  let c ← j.mat r 2
  let d ← j.mat r 3
  pure (⟨a, b, c⟩, d)
/-- The direction of the primary ray of a sample: from the camera origin to the sample's point at depth 0, or along the line of the points
that map to the sample where no one point does (log entry 29). -/
def primaryDir (j : RasterJob) (x y : Rat) : Option V3 := do
  let (r0, t0) ← matRow j 0
  let (r1, t1) ← matRow j 1
  let (r2, t2) ← matRow j 2
  let (r3, t3) ← matRow j 3
  let a := r0.sub (V3.scale x r3)
  let b := r1.sub (V3.scale y r3)
  let da := x * t3 - t0
  let db := y * t3 - t1
  let n := a.cross b
  let det := n.dot r2
  if det ≠ 0 then
    let p := ((V3.scale da (b.cross r2)).add (V3.scale db (r2.cross a))).add (V3.scale (-t2) n)
    let q := V3.scale (1 / det) p
    if q.isZero then pure n else pure q
  else if n.dot r3 < 0 then pure (V3.scale (-1) n) else pure n

/-- The traversal of a primary ray; a page whose read failed ends it (R373, R397). -/
def primaryRun (p c : Nat) (eng : Option Nat) (x : RayIn) (bad : List Nat) : Nat → Ray → State → (Ray × Option (Xl × Nat)) × State
  | 0, r, s => ((r, none), s)
  | fuel + 1, r, s =>
    match r.visits with
    | [] => ((rayEnd r, none), s)
    | v :: vs =>
      let dead (s : State) : (Ray × Option (Xl × Nat)) × State := (({ rayEnd r with status := 4, committed := none }, none), s)
      match rayVisit p c eng x { r with visits := vs } v s with
      | (.error .bad, s) => dead s
      -- status 4 and no hit; a primary ray has no WAITT at which to report the error (R397)
      | (.error (.stop .ecc _), s) => dead s
      | (.error (.stop y va), s) => if bad.contains (va / 4096 * 4096) then dead s else ((r, some (y, va)), s)
      | (.ok r, s) => primaryRun p c eng x bad fuel r s

/-- The depth of a primary hit, from its position (R368, R373). -/
def hitDepth (j : RasterJob) (o d : V3) (t : Rat) : Option Nat := do
  let c ← j.camera
  let q := (o.add (V3.scale t d)).sub c
  let p ← V3.ofBits f32 [rne32 q.x, rne32 q.y, rne32 q.z]
  let comp (r : Nat) : Option Rat := do
    let (m, k) ← matRow j r
    fin f32 (rne32 (m.dot p + k))
  let z ← comp 2
  let w ← comp 3
  if w = 0 then none else pure (rne32 (z / w))

/-- The instance and the triangle of a hit, as numbers. -/
def hitBytes (p c scene inst prim : Nat) : RayM (Nat × Nat) :=
  (readHeader p c scene true).then fun top => (readStruct p c (top.leaves + 128 * inst) 128).then fun x =>
    (readHeader p c (bits x 575 512) false).then fun h => (readStruct p c (h.leaves + 48 * prim) 48).then fun y => .ok (x, y)
/-- The bin of a tile for a ray-space draw: the instances whose bounds meet the tile's frustum, from the camera origin through its pixels of the
strip, as children of a node. Without such a frustum, all of them. -/
def tileBin (l : Launch) (j : RasterJob) (tile : Nat) (d : RayDraw) : List Kid :=
  let (x0, y0) := (32 * tile, stripTop l j)
  let (x1, y1) := (x0 + tileCols j tile, y0 + j.lines)
  let corner (x y : Nat) : Option V3 := primaryDir j (x : Rat) (y : Rat)
  let kid (e : Nat × List Nat) : Kid := (e.2, 2, e.1)
  match j.camera, [corner x0 y0, corner x1 y0, corner x1 y1, corner x0 y1].mapM id with
  | some o, some cs => (d.insts.filter fun e => boxInFrustum f64 e.2 o cs).map kid
  | _, _ => d.insts.map kid
/-- The primary ray of one sample against the bin of one draw: what the tile holds after it, or the line it waits for. -/
def tracePrimary (l : Launch) (j : RasterJob) (t : TileJob) (tile : Nat) (draw x : Nat) (bin : List Kid) (e : Nat × Nat × Nat) (s : State) :
    (TileJob × Option (Xl × Nat)) × State :=
  let (px, py) := samplePlace l j tile e.1 e.2.1 e.2.2
  match j.camera, primaryDir j (px / 256) (py / 256) with
  | some o, some d =>
    if d.isZero then ((t, none), s) else
    let ray : RayIn := { o := o, d := d, tmin := 0, tmax := 0x7F800000, flags := 0xFF08 + (if bit x 152 then 2 else 0) + (if bit x 153 then 16 else 0) }
    let start : Ray := { token := 0, scene := bits x 63 0, words := [], status := 15, tcur := 0x7F800000, committed := none, candidate := none
                         visits := [], inst := none, fault := none, group := 0 }
    let run : (Ray × Option (Xl × Nat)) × State := match kidVisits l.part l.ctx ray start f64 bin o d 0 1 false s with
      | (.ok vs, s) => primaryRun l.part l.ctx (State.engineOf t.cluster 2) ray t.bad (2 ^ 64) { start with visits := vs } s
      | (.error _, s) => ((start, none), s)
    match run with
    | ((_, some stop), s) => ((t, some stop), s)
    | ((r, none), s) =>
      let k := sampleKey e.1 e.2.1 e.2.2
      match r.committed with
      | none => ((t, none), s)
      | some h => match hitDepth j o d (boundOf h.t) with
        | none => ((t, none), s)
        | some z =>
          let m := keepNearer t.samples k z (draw * 2 ^ 20 + h.inst)
          if m = t.samples then ((t, none), s) else
          match hitBytes l.part l.ctx (bits x 63 0) h.inst h.prim s with
          | (.ok b, s) => (({ t with samples := m, hits := mset k (h.prim, b) t.hits }, none), s)
          | (.error _, s) => (({ t with samples := m, hits := mset k (h.prim, 0, 0) t.hits }, none), s)
  | _, _ => ((t, none), s)

/-- All primary rays of a tile, up to the first that waits. -/
def traceAll (l : Launch) (j : RasterJob) (tile : Nat) :
    List (RayDraw × List Kid × Nat × Nat × Nat) → TileJob → State → (TileJob × Option (Xl × Nat)) × State
  | [], t, s => ((t, none), s)
  | (d, bin, e) :: rest, t, s =>
    match tracePrimary l j t tile d.draw d.rec_ bin e s with
    | ((t, none), s) => traceAll l j tile rest t s
    | r => r
/-- The primary rays of a tile: every sample against the bin of every ray-space draw. -/
def primaryWork (l : Launch) (j : RasterJob) (tile : Nat) : List (RayDraw × List Kid × Nat × Nat × Nat) :=
  j.rayDraws.flatMap fun d =>
    let bin := tileBin l j tile d
    (tileSamples j tile).map fun e => (d, bin, e)
/-- PRIMARY_RAY_TRACE (R373): the owner's ray engine traces the primary rays of a tile. -/
def tryPrimaryRayTrace (launch tile : Nat) (s : State) : Option State :=
  let no : Option State := none
  match mget launch s.launches with
  | none => no
  | some l =>
    match l.raster.bind fun j => (mget tile j.tiles).map fun t => (j, t) with
    | none => no
    | some (j, t) =>
      if l.status ≠ .running ∨ t.final ∨ t.traced ∨ t.fault.isSome ∨ j.rayDraws = [] ∨ !binned j then no else
      let put (s : State) (t : TileJob) : State := setJob s launch { j with tiles := mset tile t j.tiles }
      match traceAll l j tile (primaryWork l j tile) { t with samples := [], hits := [] } s with
      | ((t, none), s) => some (put s { t with traced := true })
      | ((t, some (.fault reason, va)), s) =>
        let (f, s) := s.raiseFault l.part l.ctx t.cluster 2 va reason .read
        some (put s { t with fault := some f })
      | _ => no
/-- PRIMARY_RAY_TRACE: it happens where its rule lets it; elsewhere nothing happens. -/
def execPrimaryRayTrace (launch tile : Nat) (s : State) : Host.Outcome State Fault Refusal := happens s (tryPrimaryRayTrace launch tile s)

/-! ### Visibility and shading groups (R375-R377) -/

/-- Cell width and height of a rate (R376). -/
def cellSize (rate : Nat) : Nat × Nat := match rate with | 0 => (1, 1) | 1 => (2, 1) | 2 => (2, 2) | _ => (4, 4)
/-- The samples of a cell that exist: keys. `x` and `y` are in the tile. -/
def cellSamples (j : RasterJob) (tile rate x y : Nat) : List Nat :=
  let (w, h) := cellSize rate
  (List.range h).flatMap fun dy => (List.range w).flatMap fun dx =>
    if x + dx < tileCols j tile then (List.range j.msaa).map fun k => sampleKey (y + dy) (x + dx) k else []
/-- The ids of a cell's fragments, ascending: the fragment of rank l is on layer l (R376). -/
def cellIds (m : Map (Nat × Nat)) (j : RasterJob) (tile rate x y : Nat) : List Nat :=
  ((cellSamples j tile rate x y).map fun k => (sampleOf m k).2).eraseDups.mergeSort fun a b => decide (a ≤ b)
/-- The quads of a tile in raster order: the top-left cell of each (R377). -/
def tileQuads (j : RasterJob) (rate : Nat) : List (Nat × Nat) :=
  let (w, h) := cellSize rate
  (List.range (j.lines / (2 * h))).flatMap fun r => (List.range (32 / (2 * w))).map fun c => (2 * w * c, 2 * h * r)
/-- The four cells of a quad. -/
def quadCells (rate : Nat) (q : Nat × Nat) : List (Nat × Nat) :=
  let (w, h) := cellSize rate
  [q, (q.1 + w, q.2), (q.1, q.2 + h), (q.1 + w, q.2 + h)]
/-- What the threads of a quad shade on a layer: a position without a fragment is a helper with the id of the lowest other thread. -/
def quadThreads (m : Map (Nat × Nat)) (j : RasterJob) (tile rate layer : Nat) (q : Nat × Nat) : List Cell :=
  let own := (quadCells rate q).map fun c => (c, (cellIds m j tile rate c.1 c.2)[layer]?)
  let lead := (own.findSome? (·.2)).getD 0
  own.map fun e => { x := 32 * tile + e.1.1, y := e.1.2, id := e.2.getD lead, helper := e.2.isNone }
/-- The quads of a layer. -/
def layerQuads (m : Map (Nat × Nat)) (j : RasterJob) (tile rate layer : Nat) : List (List Cell) :=
  ((tileQuads j rate).map (quadThreads m j tile rate layer)).filter fun q => q.any fun c => !c.helper
/-- Quads cut into groups of 8 quads a wave. -/
def packQuads (tile layer n : Nat) : Nat → List (List Cell) → List Shade
  | 0, _ => []
  | _, [] => []
  | fuel + 1, qs =>
    { tile := tile, layer := layer, cells := (qs.take (8 * n)).zipIdx.flatMap fun e => e.1.zipIdx.map fun c => (4 * e.2 + c.2, c.1) } ::
      packQuads tile layer n fuel (qs.drop (8 * n))
/-- The shading groups of a tile, layer by layer. -/
def shadesOf (m : Map (Nat × Nat)) (j : RasterJob) (tile rate n : Nat) : List Shade :=
  let layers := (((tileQuads j rate).flatMap fun q => (quadCells rate q).map fun c => (cellIds m j tile rate c.1 c.2).length).max?).getD 0
  (List.range layers).flatMap fun layer =>
    let qs := layerQuads m j tile rate layer
    packQuads tile layer n (qs.length + 1) qs

/-- TILE_VISIBILITY_FINAL (R374-R377): every bin entry and ray hit has come; the rate is fixed and the shading groups are formed. -/
def tryTileVisibilityFinal (launch tile : Nat) (s : State) : Option State :=
  let no : Option State := none
  match mget launch s.launches with
  | none => no
  | some l =>
    match l.raster.bind fun j => (mget tile j.tiles).map fun t => (j, t) with
    | none => no
    | some (j, t) =>
      let m := resolveTile l j tile t.samples
      let rate := max (dget 0 tile j.rates) (dget 0 tile j.req)
      let shades := shadesOf m j tile rate l.card.wavesPerGroup
      -- a ray hit that a nearer fragment of the bins replaces is no hit any more (R380)
      let hits := t.hits.filter fun e => (sampleOf m e.1).2 == (sampleOf t.samples e.1).2
      let t' := { t with samples := m, hits := hits, final := true, rate := rate, pending := shades, open_ := shades.length, done := shades == [] }
      event
        (l.status == .running && !j.closed && !t.final && binned j && (t.traced || j.rayDraws.isEmpty))
        (storeSamples (setJob s launch { j with tiles := mset tile t' j.tiles }) j t.cluster tile)
/-- TILE_VISIBILITY_FINAL: it happens where its rule lets it; elsewhere nothing happens. -/
def execTileVisibilityFinal (launch tile : Nat) (s : State) : Host.Outcome State Fault Refusal := happens s (tryTileVisibilityFinal launch tile s)

/-! ### VISQ, PIXW, SRATE (R379-R383) -/

/-- What a shading wave stands in: its group's tile, the raster work, the launch's tile. -/
structure ShadeCtx where
  sh : Shade
  j : RasterJob
  t : TileJob
def shadeCtx (c : Ctx) : Option ShadeCtx := do
  let sh ← c.grp.shade
  let j ← c.l.raster
  let t ← mget sh.tile j.tiles
  pure { sh := sh, j := j, t := t }
/-- The cell of a thread. -/
def cellOf (c : Ctx) (k : ShadeCtx) (t : Nat) : Cell := (mget (c.wi * 32 + t) k.sh.cells).getD { x := 0, y := 0, id := 0, helper := true }
/-- Active threads that are no helpers. -/
def shaders (c : Ctx) : List Nat := c.active.filter fun t => !c.isHelper t

/-- On-die address of a pixel of the target, and bytes from line to line (R382); none for a strip card without a slot. -/
def pixelAddr (s : State) (c : Ctx) (j : RasterJob) (x y : Nat) : Option (Nat × Nat) :=
  if c.card.isStrip then c.l.ring.map fun k => (k.low + y * ringPitch s c.card.head + 4 * x, ringPitch s c.card.head)
  else some (j.target + y * j.tpitch + 4 * x, j.tpitch)

/-- A value within 2^-20 of an exact one (R380): the free choice where it lies in the interval. -/
def near20 (q : Rat) (choice : Nat) : Nat :=
  match fin f32 choice with
  | some y => if (if y < q then q - y else y - q) ≤ 1 / 2 ^ 20 then choice else rne32 q
  | none => rne32 q
/-- Perspective-correct barycentrics of vertices 1 and 2 at a point of the frame in pixels (R380); none where they do not exist. -/
def barycentrics (clip : List (List Nat)) (x y : Rat) : Option (Rat × Rat) :=
  let p (i : Nat) : V3 := ⟨clipAt (clip.getD i []) 0, clipAt (clip.getD i []) 1, clipAt (clip.getD i []) 3⟩
  let (a, b, c) := (p 0, p 1, p 2)
  let u : V3 := ⟨a.x - x * a.z, b.x - x * b.z, c.x - x * c.z⟩
  let v : V3 := ⟨a.y - y * a.z, b.y - y * b.z, c.y - y * c.z⟩
  let w := u.cross v
  let sum := w.x + w.y + w.z
  if sum = 0 then none else some (w.y / sum, w.z / sum)
/-- Barycentrics of a ray-space triangle: where the line through a point of the frame meets its plane (R373, R380). -/
def rayBarycentrics (j : RasterJob) (inst tri : Nat) (x y : Rat) : Option (Rat × Rat) := do
  let o ← j.camera
  let d ← primaryDir j x y
  let org ← V3.ofBits f64 [bits inst 63 0, bits inst 127 64, bits inst 191 128]
  let m := (List.range 9).map fun i => (fin f32 (bits inst (192 + 32 * i + 31) (192 + 32 * i))).getD 0
  let mul (v : V3) : V3 :=
    let row (i : Nat) : Rat := m.getD (3 * i) 0 * v.x + m.getD (3 * i + 1) 0 * v.y + m.getD (3 * i + 2) 0 * v.z
    ⟨row 0, row 1, row 2⟩
  let v (i : Nat) : Option V3 := V3.ofBits f32 ((List.range 3).map fun k => bits tri (96 * i + 32 * k + 31) (96 * i + 32 * k))
  let a ← v 0
  let e1 := (← v 1).sub a
  let e2 := (← v 2).sub a
  let n := e1.cross e2
  let w := a.sub (mul (o.sub org))
  let den := (mul d).dot n
  if den = 0 ∨ n.isZero then none else
  let q := (V3.scale (w.dot n / den) (mul d)).sub w
  pure ((q.cross e2).dot n / n.dot n, (e1.cross q).dot n / n.dot n)
/-- The clip coordinates of a binned primitive. -/
def clipOf (j : RasterJob) (id : Nat) : Option (List (List Nat)) := (j.tris.find? fun t => t.id == id).map fun t => t.clip

/-- The two words of VISQ for a thread (Table 13-3), and the free values drawn; free ones where the store has lost a sample of the cell. -/
def visqWords (s : State) (c : Ctx) (k : ShadeCtx) (fn t : Nat) : (Nat × Nat) × State :=
  let e := cellOf c k t
  let free (s : State) : (Nat × Nat) × State := ((Config.freeValue s.free % 2 ^ 32, Config.freeValue (s.free + 1) % 2 ^ 32), { s with free := s.free + 2 })
  let here := cellSamples k.j k.sh.tile k.t.rate (e.x - 32 * k.sh.tile) e.y
  let (lost, s) := checkSamples s k.t.cluster here
  if lost ∧ fn ≠ 0 ∧ fn ≠ 3 then free s else
  let mine := here.filter fun q => (sampleOf k.t.samples q).2 == e.id
  -- a helper reports of the thread whose id it has
  let lead := if e.helper then ((List.range 4).map fun i => cellOf c k (t / 4 * 4 + i)).find? fun q => !q.helper else some e
  match fn with
  | 0 => ((e.x + 2 ^ 13 * e.y + 2 ^ 19 * k.t.rate, k.sh.tile + 2 ^ 16 * k.sh.layer), s)
  | 1 => ((e.id, (if e.helper then 0 else mine.length) + 2 ^ 8 * here.length), s)
  | 2 =>
    if e.id = 0xFFFFFFFF then ((0, 0), s) else
    let (w, h) := cellSize k.t.rate
    let x : Rat := e.x + (w : Rat) / 2
    let y : Rat := stripTop c.l k.j + e.y + (h : Rat) / 2
    let ray := (lead.bind fun q => (cellSamples k.j k.sh.tile k.t.rate (q.x - 32 * k.sh.tile) q.y).findSome? fun i =>
      if (sampleOf k.t.samples i).2 = e.id then mget i k.t.hits else none).map fun (h : Nat × Nat × Nat) => h.2
    let uv := match ray with
      | some (inst, tri) => rayBarycentrics k.j inst tri x y
      | none => (clipOf k.j e.id).bind fun cl => barycentrics cl x y
    match uv with
    | some (u, v) => ((near20 u (Config.baryError e.id (2 * (e.x * 64 + e.y))), near20 v (Config.baryError e.id (2 * (e.x * 64 + e.y) + 1))), s)
    | none => free s
  | 3 => match pixelAddr s c k.j e.x e.y with
    | some (a, p) => ((a % 2 ^ 32, p), s)
    | none => free s
  | _ =>
    let tri := lead.bind fun q => (cellSamples k.j k.sh.tile k.t.rate (q.x - 32 * k.sh.tile) q.y).findSome? fun i =>
      if (sampleOf k.t.samples i).2 = q.id then (mget i k.t.hits).map (·.1) else none
    ((tri.getD 0, 0), s)

/-- VISQ (R380): deferred; its values are made from the tile's final visibility. -/
def execVisq (d : Reg) (f : BitVec 7) (s : State) : Host.Outcome State Fault Refusal :=
  s.issue { ins := .visq d f, who := .wave, uses := [w2 d] } fun s c =>
    match shadeCtx c with
    | none => .trap trapSync
    | some k => withCounter s c fun s c =>
      let (got, s) := c.active.foldl (fun (st : List (Nat × Word) × State) t =>
        let (x, s) := visqWords st.2 c k f.toNat t
        (st.1 ++ pairWords d.toNat t x, s)) ([], s)
      let (s, w) := addDeferred s c d.toNat 2 c.w.active .visibility got c.next
      .done s w

/-- The pixels of a thread's cell that a mask selects and that exist: x and line in the strip (R381). -/
def maskedPixels (k : ShadeCtx) (e : Cell) (mask : Nat) : List (Nat × Nat) :=
  let (w, h) := cellSize k.t.rate
  ((List.range h).flatMap fun py => (List.range w).map fun px => (px, py)).filterMap fun p =>
    if bit mask (p.2 * w + p.1) && decide (e.x + p.1 < k.j.width) then some (e.x + p.1, e.y + p.2) else none
/-- The check of a thread's PIXW, in order: RING, BOUNDS, WATCH (R381). -/
def pixwCheck (s : State) (c : Ctx) (k : ShadeCtx) (mask t : Nat) : Option TrapInfo :=
  let as := (maskedPixels k (cellOf c k t) mask).map fun p => ((pixelAddr s c k.j p.1 p.2).map (·.1)).getD 0
  if c.card.isStrip && (c.l.ring.map fun r => r.published).getD true then some trapRing
  else match as.find? fun a => !c.card.isStrip && !s.inWindow c.part a 4 with
  | some a => some (trapBounds (a % 2 ^ 32))
  | none => as.findSome? fun a => (s.watchAt c a 4 false true).map fun i => trapWatch i a
/-- PIXW (R381, R382). -/
def execPixw (a b : Reg) (s : State) : Host.Outcome State Fault Refusal :=
  s.issue { ins := .pixw a b, who := .wave, uses := [r1 a, r1 b] } fun s c =>
    match shadeCtx c with
    | none => .trap trapSync
    | some k =>
      match State.firstTrap (shaders c) fun t => pixwCheck s c k (c.w.reg t b.toNat).toNat t with
      | some ti => .trap ti
      | none =>
        let accs := (shaders c).flatMap fun t => (maskedPixels k (cellOf c k t) (c.w.reg t b.toNat).toNat).filterMap fun p =>
          (pixelAddr s c k.j p.1 p.2).map fun q => (t, q.1, Place.window (s.windowAddr c.part q.1), (c.w.reg t a.toNat).toNat)
        let (s, w) := s.issueStore c c.next accs 4 false
        .done s w

/-- SRATE (R383). -/
def execSrate (a b : Reg) (s : State) : Host.Outcome State Fault Refusal :=
  s.issue { ins := .srate a b, who := .wave, uses := [r1 a, r1 b] } fun s c =>
    match shadeCtx c with
    | none => .trap trapSync
    | some k =>
      let v (r : Reg) (t : Nat) : Nat := (c.w.reg t r.toNat).toNat
      match State.firstTrap (shaders c) fun t => if k.j.ntiles ≤ v a t then some (trapBounds (v a t)) else none with
      | some ti => .trap ti
      | none =>
        let req := (shaders c).foldl (fun m t =>
          if k.j.fixed (v a t) then m else dset 0 (v a t) (max (dget 0 (v a t) m) (v b t % 4)) m) k.j.req
        .done (setJob s c.lid { k.j with req := req }) c.next

/-! ### Ordered sections (R384, R385) -/

/-- A fragment of a lower layer of the same cell has not left its section (R385). -/
def blocksCell (s : State) (c : Ctx) (k : ShadeCtx) (e : Cell) : Bool :=
  let lower (q : Cell) : Bool := !q.helper && q.x == e.x && q.y == e.y && decide (q.id < e.id)
  (k.t.pending.any fun sh => sh.cells.any fun q => lower q.2) ||
  s.groups.any fun g => g.2.launch == c.lid && g.2.status != .ended && match g.2.shade with
    | none => false
    | some sh => sh.tile == k.sh.tile && sh.cells.any fun q => lower q.2 &&
        ((g.2.waves[q.1 / 32]?).map fun w => !w.ended && w.live.getLsbD (q.1 % 32) && !w.leftSection.getLsbD (q.1 % 32)).getD false
/-- An access of a wave with lower fragments of the tile is still to be performed (R384). -/
def tileOwes (s : State) (c : Ctx) (k : ShadeCtx) : Bool :=
  s.groups.any fun g => g.2.launch == c.lid && (g.2.shade.map fun sh => sh.tile == k.sh.tile && decide (sh.layer < k.sh.layer)).getD false &&
    ((s.reqs.any fun r => r.group == g.1) || s.rels.any fun r => r.group == g.1)
/-- ORDB (R384). -/
def execOrdb (sample : Bool) (s : State) : Host.Outcome State Fault Refusal :=
  s.issue { ins := .ordb sample, who := .wave } fun s c =>
    match shadeCtx c with
    | none => .trap trapSync
    | some k =>
      let ts := shaders c
      if ts.any fun t => c.w.inSection.getLsbD t then .trap trapSync
      else if !sample && (tileOwes s c k || ts.any fun t => blocksCell s c k (cellOf c k t)) then .wait s { c.w with wait := .condition } 2
      else .done (s.acquired c) { c.next with inSection := c.w.inSection ||| maskOf ts }
/-- ORDE (R384). -/
def execOrde (s : State) : Host.Outcome State Fault Refusal :=
  s.issue { ins := .orde, who := .wave } fun s c =>
    match shadeCtx c with
    | none => .trap trapSync
    | some _ =>
      let ts := shaders c
      if ts.any fun t => !c.w.inSection.getLsbD t then .trap trapSync
      else .done s { c.next with inSection := c.w.inSection &&& ~~~(maskOf ts), leftSection := c.w.leftSection ||| maskOf ts }

/-! ### The deadline (R353, R387) -/

/-- The flat word of a pixel: of the draw that owns its sample 0, or the background's. -/
def flatWord (j : RasterJob) (m : Map (Nat × Nat)) (line col : Nat) : Nat :=
  let id := (sampleOf m (sampleKey line col 0)).2
  if id = 0xFFFFFFFF then j.bgflat else dget j.bgflat (id / 2 ^ 20) j.flats
/-- A tile is filled flat. -/
def flatFill (s : State) (l : Launch) (j : RasterJob) (slot tile : Nat) : State :=
  let t := mget tile j.tiles
  let m := match t with
    | some t => if t.final then t.samples else resolveTile l j tile t.samples
    | none => resolveTile l j tile []
  (List.range j.lines).foldl (fun (s : State) line => (List.range (tileCols j tile)).foldl (fun (s : State) col =>
    let a := slot + line * ringPitch s l.card.head + 4 * (32 * tile + col)
    let (lost, s) := match t with
      | some t => if t.final then checkSamples s t.cluster [sampleKey line col 0] else (false, s)
      | none => (false, s)
    let word := if lost then Config.freeValue s.free % 2 ^ 32 else flatWord j m line col
    let s := if lost then { s with free := s.free + 1 } else s
    (touchBanks s [(s.windowAddr l.part a, 4)]).writeMem (s.windowAddr l.part a) (toBytes word 4) (some (l.part, l.ctx))) s) s
/-- The groups of a card end without save, and no more are placed. -/
def endShading (s : State) (lid : Nat) (j : RasterJob) : State :=
  let clear (t : TileJob) : TileJob := { t with pending := [], done := true, final := true }
  let s := setJob s lid { j with closed := true, tiles := j.tiles.map fun e => (e.1, clear e.2) }
  (s.groups.filter fun e => e.2.launch == lid && e.2.status != .ended).foldl (fun (s : State) e => dropGroup s e.1) s

/-- STRIP_DEADLINE (R353, R387): the groups of the tiles not complete end without save, and those tiles are filled flat; a strip without a slot
writes nothing. -/
def tryStripDeadline (launch : Nat) (s : State) : Option State :=
  match mget launch s.launches with
  | none => none
  | some l =>
    let j := l.raster.getD (emptyJob s.cyc [])
    let left := (List.range j.ntiles).filter fun t => !j.tileDone t
    let done := j.header != 0 && left.isEmpty
    let s1 := endShading s launch j
    let t := match l.ring with
      | some k => if j.header = 0 then s1 else left.foldl (fun (s : State) t => flatFill s l j k.low t) s1
      | none => s1
    let t := match l.ring with
      | some _ => t.launchRecord l 0x42 2 left.length
      | none => t.launchRecord l 0x42 3 0
    let mark (s : State) (run : Bool) : State := s.updLaunch launch fun l =>
      { l with deadlineDone := true, status := if run && l.status == .queued then .running else l.status }
    event (l.card.isStrip && State.alive l && l.card.deadline != 0 && !l.deadlineDone && decide (s.cycOfPtp l.card.deadline ≤ s.cyc))
      (if done then mark s false else mark t true)
/-- STRIP_DEADLINE: it happens where its rule lets it; elsewhere nothing happens. -/
def execStripDeadline (launch : Nat) (s : State) : Host.Outcome State Fault Refusal := happens s (tryStripDeadline launch s)

end Sys2Proof.Machine
end

