-- ==== Sys2Proof/Machine/Texture.lean ====
section
/-! DEFINITION. The texture engine (15 R404-R413): bindings, level selection, filtering with exact sums, sparse fallback and feedback; SAMPLE, SAMPLEL,
SAMPLEG, GATH4, TXQ and TEXTURE_SERVE. -/

namespace Sys2Proof.Machine
open Sys2Proof.Machine.Fp

/-! ### Exact helpers -/

/-- x ≤ b/√n for n > 0, exactly. -/
def leSurd (x b n : Rat) : Bool :=
  if b = 0 then decide (x ≤ 0)
  else if 0 < b then decide (x ≤ 0) || decide (x * x * n ≤ b * b)
  else decide (x < 0) && decide (b * b ≤ x * x * n)
/-- The floor of a + b/√n for n > 0, exactly. -/
def floorSurd (a b n : Rat) : Int :=
  if b = 0 then a.floor else
  let f := (a + b / sqrtQ n).floor
  if leSurd ((f : Rat) + 1 - a) b n then f + 1 else if leSurd ((f : Rat) - a) b n then f else f - 1
/-- The integer nearest to a + b/√n, ties to even. -/
def nearSurd (a b n : Rat) : Int :=
  let k := floorSurd (a + 1 / 2) b n
  let x : Rat := (k : Rat) - 1 / 2 - a
  -- a tie: b/√n is exactly x
  let tie := if b = 0 then x == 0 else decide (x * x * n = b * b) && decide (0 < x) == decide (0 < b)
  if tie && k % 2 != 0 then k - 1 else k

/-! ### Bindings (R404, R405) -/

/-- A texture and its sampler (Tables 15-1 and 15-3). -/
structure Binding where
  x : Nat
  deriving Repr
namespace Binding
def base (b : Binding) : Nat := bits b.x 63 0
def w (b : Binding) : Nat := bits b.x 77 64 + 1
def h (b : Binding) : Nat := bits b.x 91 78 + 1
def lm1 (b : Binding) : Nat := bits b.x 103 92
def vm1 (b : Binding) : Nat := bits b.x 107 104
def fmt (b : Binding) : Nat := bits b.x 111 108
def sparse (b : Binding) : Bool := bit b.x 112
def rmap (b : Binding) : Nat := bits b.x 179 128
def fbuf (b : Binding) : Nat := bits b.x 243 192
def minf (b : Binding) : Nat := bits b.x 256 256
def magf (b : Binding) : Nat := bits b.x 257 257
def mipf (b : Binding) : Nat := bits b.x 259 258
def am1 (b : Binding) : Nat := bits b.x 263 260
def wrapu (b : Binding) : Nat := bits b.x 265 264
def wrapv (b : Binding) : Nat := bits b.x 267 266
def bias (b : Binding) : Option Rat := fin f32 (bits b.x 319 288)
def minlod (b : Binding) : Option Rat := fin f32 (bits b.x 351 320)
def maxlod (b : Binding) : Option Rat := fin f32 (bits b.x 383 352)
def border (b : Binding) : Nat := bits b.x 415 384
/-- The texture descriptor keeps its rules. -/
def textureOk (b : Binding) : Bool :=
  b.base % 65536 == 0 && decide (b.base < 2 ^ 52) && decide (b.vm1 ≤ Nat.log2 (max b.w b.h)) && decide (b.fmt ≤ 4) && bits b.x 127 113 == 0 &&
  bits b.x 191 180 == 0 && bits b.x 255 244 == 0 && (if b.sparse then b.rmap % 8 == 0 else b.rmap == 0 && b.fbuf == 0)
/-- The sampler descriptor keeps its rules. -/
def samplerOk (b : Binding) : Bool :=
  b.mipf != 3 && bits b.x 287 268 == 0 && bits b.x 511 416 == 0 && b.bias.isSome &&
  match b.minlod, b.maxlod with | some l, some h => decide (l ≤ h) | _, _ => false
/-- Bytes of a texel, and the width and height of a tile (Table 15-2). -/
def texelBytes (b : Binding) : Nat := match b.fmt with | 1 => 8 | 3 => 1 | _ => 4
def tw (b : Binding) : Nat := if b.fmt = 3 then 256 else 128
def th (b : Binding) : Nat := match b.fmt with | 1 => 64 | 3 => 256 | _ => 128
/-- Size of a level, its tiles, and the global index of a texel's tile (R406). -/
def wl (b : Binding) (l : Nat) : Nat := max 1 (b.w / 2 ^ l)
def hl (b : Binding) (l : Nat) : Nat := max 1 (b.h / 2 ^ l)
def nt (b : Binding) (l : Nat) : Nat := ceilDiv (b.wl l) b.tw * ceilDiv (b.hl l) b.th
def ntSum (b : Binding) (l : Nat) : Nat := ((List.range l).map b.nt).foldl (· + ·) 0
def tileIdx (b : Binding) (layer l x y : Nat) : Nat :=
  layer * b.ntSum (b.vm1 + 1) + b.ntSum l + y / b.th * ceilDiv (b.wl l) b.tw + x / b.tw
def texelVa (b : Binding) (layer l x y : Nat) : Nat :=
  (b.base + 65536 * b.tileIdx layer l x y + (y % b.th * b.tw + x % b.tw) * b.texelBytes) % 2 ^ 52
end Binding

/-- c/255. -/
def unorm (c : Nat) : Val := .num false (mkRat (c : Int) 255)
/-- The four channels of a texel's bytes (R405). -/
def channels (fmt x : Nat) : List Val :=
  let zero : Val := .num false 0
  let one : Val := .num false 1
  match fmt with
  | 0 => (List.range 4).map fun i => unorm (bits x (8 * i + 7) (8 * i))
  | 1 => (List.range 4).map fun i => f16.val (bits x (16 * i + 15) (16 * i))
  | 2 => [f32.val (x % 2 ^ 32), zero, zero, one]
  | 3 => [unorm (x % 256), zero, zero, one]
  | _ => [f16.val (x % 2 ^ 16), f16.val (bits x 31 16), zero, one]

/-! ### Levels and texels (R408, R409) -/

/-- A texel of a footprint: level, place (none for the border texel), weight. -/
structure Tap where
  level : Nat
  place : Option (Nat × Nat)
  weight : Rat
  deriving Repr

/-- An index wrapped by a sampler's mode; none is the border texel. -/
def wrapIndex (mode n : Nat) (i : Int) : Option Nat :=
  let w : Int := (n : Nat)
  match mode with
  | 0 => some (i % w).toNat
  | 1 => some (min (max i 0) (w - 1)).toNat
  | 2 => let m := i % (2 * w); some (if m < w then m else 2 * w - 1 - m).toNat
  | _ => if 0 ≤ i ∧ i < w then some i.toNat else none
/-- The texel indexes of one axis with their weights: linear or nearest. `c`, `x`, `n` add c·x/√n texels (anisotropic taps). -/
def axisTaps (linear : Bool) (size : Nat) (u c x n : Rat) : List (Int × Rat) :=
  if linear then
    let p := nearSurd (256 * (u * size - 1 / 2)) (256 * c * x) n
    let f : Rat := mkRat (p % 256) 256
    [(p.fdiv 256, 1 - f), (p.fdiv 256 + 1, f)]
  else [(floorSurd (u * size) (c * x) n, 1)]
/-- The texels of one filter at a place on a level. -/
def filterTaps (b : Binding) (linear : Bool) (l : Nat) (u v c dx dy n wt : Rat) : List Tap :=
  (axisTaps linear (b.hl l) v c dy n).flatMap fun y => (axisTaps linear (b.wl l) u c dx n).map fun x =>
    { level := l, weight := wt * x.2 * y.2
      place := match wrapIndex b.wrapu (b.wl l) x.1, wrapIndex b.wrapv (b.hl l) y.1 with
        | some i, some j => some (i, j)
        | _, _ => none }

/-- λ in 1/256 from log2(q) + bias, rounded to the nearest, ties to even (R408; log entry 31). -/
def roundLambda (q bias : Rat) : Int :=
  match isPow2 q with
  | some e => roundEven (128 * (e : Rat) + 256 * bias)
  | none =>
    -- the exact value is irrational: it is no tie, and lies above each of these
    let y (p : Nat) : Rat := 128 * log2At p q + 256 * bias + 1 / 2
    if (y 70).floor = (y 70 + pow2 (-62)).floor then (y 70).floor else (y 4096).floor
/-- What R408 selects: levels with their weights, the filter, the number of taps, and the level reported. -/
structure LodSel where
  levels : List (Nat × Rat)
  linear : Bool
  n : Nat
  deriving Repr
/-- Steps 2 and 3 of R408 for a λ (none is −∞). -/
def selectLevels (b : Binding) (lam : Option Rat) (n : Nat) : LodSel :=
  let lo := b.minlod.getD 0
  let hi := b.maxlod.getD 0
  let l := match lam with | none => lo | some x => min hi (max lo x)
  let linear := (if l ≤ 0 then b.magf else b.minf) == 1
  let top : Rat := (b.vm1 : Nat)
  let c := min top (max 0 l)
  let f := c.floor.toNat
  let blend := mkRat (roundEven ((c - c.floor) * 256)) 256
  let levels := match b.mipf with
    | 0 => [(0, (1 : Rat))]
    | 1 => [((c + 1 / 2).floor.toNat, 1)]
    | _ => [(f, 1 - blend), (min (f + 1) b.vm1, blend)]
  { levels := levels, linear := linear, n := n }
/-- The least n with n² ≥ q, at most m. -/
def tapCount (q : Rat) (m : Nat) : Nat := ((List.range m).find? fun k => decide (q ≤ (((k + 1) * (k + 1) : Nat) : Rat))).map (· + 1) |>.getD m
/-- λ, taps and the longer derivative of a pair of gradients (R408). -/
def anisotropy (b : Binding) (ux vx uy vy : Rat) : LodSel × Rat × Rat :=
  let w : Rat := (b.w : Nat)
  let h : Rat := (b.h : Nat)
  let rx := w * ux * (w * ux) + h * vx * (h * vx)
  let ry := w * uy * (w * uy) + h * vy * (h * vy)
  let (big, small, du, dv) := if ry ≤ rx then (rx, ry, ux, vx) else (ry, rx, uy, vy)
  let n := if small = 0 then 1 else tapCount (big / small) (b.am1 + 1)
  let lam : Option Rat := if big = 0 then none else some (mkRat (roundLambda (big / ((n * n : Nat) : Rat)) (b.bias.getD 0)) 256)
  (selectLevels b lam n, du, dv)
/-- The texels of non-zero weight of a selection (R409, R410). -/
def footprint (b : Binding) (k : LodSel) (u v du dv : Rat) : List Tap :=
  (k.levels.flatMap fun (l : Nat × Rat) => (List.range k.n).flatMap fun (i : Nat) =>
    let dx : Rat := (b.wl l.1 : Nat) * du
    let dy : Rat := (b.hl l.1 : Nat) * dv
    let n := dx * dx + dy * dy
    let c : Rat := if k.n = 1 ∨ n = 0 then 0 else ((i : Nat) : Rat) - ((k.n - 1 : Nat) : Rat) / 2
    filterTaps b k.linear l.1 u v c dx dy (if n = 0 then 1 else n) l.2).filter fun t => t.weight != 0

/-! ### Reading texels (R406, R407) -/

/-- A list of reads in order. -/
def RayM.each {α β : Type} (f : α → RayM β) : List α → RayM (List β)
  | [] => .ok []
  | a :: as => (f a).then fun b => (RayM.each f as).then fun bs => .ok (b :: bs)

/-- A tile is resident (R407). -/
def tileResident (cl p c : Nat) (b : Binding) (g : Nat) : RayM Bool :=
  if !b.sparse then .ok true else (readStruct p c ((b.rmap + g / 8) % 2 ^ 52) 1 (State.engineOf cl 1)).then fun x => .ok (bit x (g % 8))
/-- The tile of a tap; none for the border texel. -/
def tapTile (b : Binding) (layer : Nat) (t : Tap) : Option Nat := t.place.map fun p => b.tileIdx layer t.level p.1 p.2
/-- The tiles of a footprint that are not resident. -/
def missing (cl p c : Nat) (b : Binding) (layer : Nat) (ts : List Tap) : RayM (List Nat) :=
  (RayM.each (fun g => (tileResident cl p c b g).then fun r => .ok (g, r)) (ts.filterMap (tapTile b layer)).eraseDups).then fun xs =>
    .ok ((xs.filter fun x => !x.2).map (·.1))
/-- A texel's line passes the texture cache, a part of the local store that holds copies (R162, R407): above the group-memory area where the
primitive-id store stands, else in the top 64 KiB (log entry 106). -/
def lineCopy (cl p c va : Nat) : RayM Unit := fun s =>
  let areas := s.groups.filter fun e => e.2.cluster == cl && State.occupies e.2
  let top := ((areas.filterMap fun e => (mget e.2.launch s.launches).map fun l => e.2.gmemBase + l.card.gmemKib * 1024).max?).getD 0
  let base := if s.servesRaster cl then ceilDiv top (2 ^ 17) * 2 ^ 17 else 0xF0000
  (.ok (), s.copyRead (Base.local_ cl + base + va % 2 ^ 16) (some (p, c)))
/-- The channels of a tap's texel. -/
def texel (cl p c : Nat) (b : Binding) (layer : Nat) (t : Tap) : RayM (List Val) :=
  match t.place with
  | none => .ok ((List.range 4).map fun i => unorm (bits b.border (8 * i + 7) (8 * i)))
  | some (x, y) => (readStruct p c (b.texelVa layer t.level x y) b.texelBytes (State.engineOf cl 1)).then fun v =>
    (lineCopy cl p c (b.texelVa layer t.level x y)).then fun _ => .ok (channels b.fmt v)

/-- rne(S/n, FP32) of one channel (R410). -/
def channelSum (n : Nat) (ts : List (Rat × Val)) : Nat :=
  match sumTerms (ts.map fun t => mulTerm (.num false t.1) t.2) with
  | .nan _ => f32.nanBits
  | .inf neg _ => f32.sign neg + f32.infBits
  | .zero neg => f32.sign neg
  | .exact neg q => (round f32 .nearest false .inf neg (q / n)).1
/-- The four channels of a footprint of resident texels. -/
def filtered (cl p c : Nat) (b : Binding) (layer n : Nat) (ts : List Tap) : RayM (List Nat) :=
  (RayM.each (texel cl p c b layer) ts).then fun vs =>
    .ok ((List.range 4).map fun i => channelSum n ((ts.zip vs).map fun e => (e.1.weight, e.2.getD i (.num false 0))))
/-- The four texels of GATH4 at a level, as taps of weight 1: (i0, j0), (i0 + 1, j0), (i0, j0 + 1), (i0 + 1, j0 + 1). -/
def gatherTaps (b : Binding) (l : Nat) (u v : Rat) : List Tap :=
  (filterTaps b true l u v 0 0 0 1 1).map fun t => { t with weight := 1 }
/-- The finest level coarser than l at which the nearest and the four bilinear texels are resident (R411). -/
def fallback (cl p c : Nat) (b : Binding) (layer : Nat) (u v : Rat) : List Nat → RayM (Option Nat)
  | [] => .ok none
  | l :: ls =>
    (missing cl p c b layer (filterTaps b false l u v 0 0 0 1 1 ++ gatherTaps b l u v)).then fun m =>
      if m.isEmpty then .ok (some l) else fallback cl p c b layer u v ls

/-- What a thread's result is: its five words, and the feedback bytes to write. -/
structure TexResult where
  words : List Nat
  feedback : List Nat
  deriving Repr
def texBad : TexResult := { words := [0, 0, 0, 0, 4], feedback := [] }
/-- The status word (Table 15-4). -/
def texStatus (level : Nat) (nonres none : Bool) : Nat := nonres.toNat + 2 * none.toNat + 16 * (level % 16)

/-- A footprint served, with the fallback of R411: `full` makes the words of resident taps, `coarse` those of a fallback level. -/
def serveTaps (cl p c : Nat) (b : Binding) (layer : Nat) (u v : Rat) (base : Nat) (free : Nat) (ts : List Tap) (full : RayM (List Nat))
    (coarse : Nat → RayM (List Nat)) : RayM TexResult :=
  (missing cl p c b layer ts).then fun m =>
    if m.isEmpty then full.then fun ws => .ok { words := ws ++ [texStatus base false false], feedback := [] }
    else
      let fb := m.map fun g => (b.fbuf + g) % 2 ^ 52
      (fallback cl p c b layer u v ((List.range (b.vm1 + 1)).filter fun l => decide (base < l))).then fun l =>
        match l with
        | none => .ok { words := [0, 0, 0, 0, texStatus (Config.freeValue free) true true], feedback := fb }
        | some l => (coarse l).then fun ws => .ok { words := ws ++ [texStatus l true false], feedback := fb }

/-- A coordinate (R408): a NaN or an infinity is taken as 0. -/
def coord (x : Nat) : Rat := (fin f32 x).getD 0
/-- A derivative; the spec states nothing for one that is not finite: a free value (log entry 32). -/
def gradient (x free : Nat) : Rat := (fin f32 x).getD (mkRat (Config.freeValue free : Int) (2 ^ 16))

/-- Serving one thread (R408-R412). -/
def serveThread (cl p c form va free : Nat) (ws : List Nat) : RayM TexResult :=
  if !vaOk va then .ok texBad else
  (readStruct p c va 64 (State.engineOf cl 1)).then fun x =>
    let b : Binding := { x := x }
    let w (i : Nat) : Nat := ws.getD i 0
    if !b.textureOk then .ok texBad
    else if form = 4 then
      let l := w 0
      .ok { words := (if b.vm1 < l then [0, 0, 0, 0] else [b.wl l, b.hl l, b.lm1 + 1, b.vm1 + 1]) ++ [texStatus l false false], feedback := [] }
    else if !b.samplerOk then .ok texBad
    else
      let (u, v) := (coord (w 0), coord (w 1))
      let layer := min (w 2) b.lm1
      let one (l : Nat) : RayM (List Nat) := filtered cl p c b layer 1 ((filterTaps b true l u v 0 0 0 1 1).filter fun t => t.weight != 0)
      if form = 3 then
        let l := min (bits (w 3) 3 0) b.vm1
        let ch := bits (w 3) 5 4
        if w 3 / 64 ≠ 0 then .ok texBad else
        let gather (l : Nat) : RayM (List Nat) := (RayM.each (texel cl p c b layer) (gatherTaps b l u v)).then fun vs =>
          .ok (vs.map fun t => channelSum 1 [(1, t.getD ch (.num false 0))])
        serveTaps cl p c b layer u v l free (gatherTaps b l u v) (gather l) gather
      else
        let (k, du, dv) :=
          if form = 1 then
            let lam : Option Rat := match f32.val (w 3) with
              | .nan _ => some 0
              | .inf true => none
              | .inf false => some (pow2 200)
              | .num n q => some (mkRat (roundEven ((if n then -q else q) * 256)) 256)
            (selectLevels b lam 1, 0, 0)
          else anisotropy b (gradient (w 4) free) (gradient (w 5) (free + 1)) (gradient (w 6) (free + 2)) (gradient (w 7) (free + 3))
        let ts := footprint b k u v du dv
        serveTaps cl p c b layer u v ((k.levels.headD (0, 0)).1) (free + 4) ts (filtered cl p c b layer k.n ts) one

/-! ### Instructions (R412) -/

/-- The derivatives of SAMPLE: coarse differences over the thread's quad (R144, R408). -/
def quadGradients (c : Ctx) (a : Reg) (t : Nat) : List Nat :=
  let q (i r : Nat) : Nat := let x := (c.w.reg (t / 4 * 4 + i) (a.toNat + r)).toNat; if isFin f32 x then x else 0
  let d (i r : Nat) : Nat := (Fp.sub f32 (env32 c.w) (q i r) (q 0 r)).1
  [d 1 0, d 1 1, d 2 0, d 2 1]
/-- The words of a coordinate block. -/
def coordWords (c : Ctx) (a : Reg) (t n : Nat) : List Nat := (List.range n).map fun i => (c.w.reg t (a.toNat + i)).toNat
/-- A texture instruction takes a counter with the inputs that `words` reads. -/
def textureBody (d b : Reg) (form : Nat) (words : Ctx → Nat → List Nat) (s : State) (c : Ctx) : Res :=
  withCounter s c fun s c =>
    let inputs := c.active.map fun t => (t, (c.w.dreg t b.toNat).toNat, words c t)
    takeCounter s c d.toNat 5 c.w.active (.texture form inputs)
/-- Destination, coordinate block and binding operands. -/
def textureUses (d a b : Reg) (n align : Nat) : List Use :=
  [{ reg := d, n := 5, align := 4, src := false }, { reg := a, n := n, align := align }, r2 b]
/-- SAMPLE (R408, R412). -/
def execSample (d a b : Reg) (s : State) : Host.Outcome State Fault Refusal :=
  s.issue { ins := .sample d a b, who := .wave, uses := textureUses d a b 3 4, notLocked := true }
    (textureBody d b 0 fun c t => coordWords c a t 3 ++ [0] ++ quadGradients c a t)
/-- SAMPLEL (R408, R412). -/
def execSamplel (d a b : Reg) (s : State) : Host.Outcome State Fault Refusal :=
  s.issue { ins := .samplel d a b, who := .wave, uses := textureUses d a b 4 4, notLocked := true } (textureBody d b 1 fun c t => coordWords c a t 4)
/-- SAMPLEG (R408, R412). -/
def execSampleg (d a b : Reg) (s : State) : Host.Outcome State Fault Refusal :=
  s.issue { ins := .sampleg d a b, who := .wave, uses := textureUses d a b 7 4, notLocked := true }
    (textureBody d b 2 fun c t => coordWords c a t 3 ++ [0] ++ (coordWords c a t 7).drop 3)
/-- GATH4 (R412). -/
def execGath4 (d a b : Reg) (s : State) : Host.Outcome State Fault Refusal :=
  s.issue { ins := .gath4 d a b, who := .wave, uses := textureUses d a b 4 4, notLocked := true } (textureBody d b 3 fun c t => coordWords c a t 4)
/-- TXQ (R412). -/
def execTxq (d a b : Reg) (s : State) : Host.Outcome State Fault Refusal :=
  s.issue { ins := .txq d a b, who := .wave, uses := textureUses d a b 1 1, notLocked := true } (textureBody d b 4 fun c t => coordWords c a t 1)

/-! ### TEXTURE_SERVE (R404, R407, R411) -/

/-- The results of all threads. -/
def serveAll (cl p c form free : Nat) (inputs : List (Nat × Nat × List Nat)) : RayM (List (Nat × TexResult)) :=
  RayM.each (fun e => (serveThread cl p c form e.2.1 (free + 8 * e.1) e.2.2).then fun r => .ok (e.1, r)) inputs
/-- The feedback bytes are written; the first one without a translation stops it. -/
def writeFeedback (s : State) (p c : Nat) : List Nat → Option (Xl × Nat) × State
  | [] => (none, s)
  | a :: as => match s.vwrite p c a [1#8] with
    | (none, s) => writeFeedback s p c as
    | (some x, s) => (some (x, a), s)
/-- TEXTURE_SERVE (R404, R407, R411): the engine makes a deferred result of a wave, or meets a page without a translation and waits. -/
def tryTextureServe (g w k : Nat) (s : State) : Option State :=
  let no : Option State := none
  match s.ctxOf g w with
  | none => no
  | some c =>
    match c.w.deferred.find? fun d => d.id == k with
    | none => no
    | some d =>
      match d.job with
      | .texture form inputs =>
        if d.value.isSome ∨ d.fault.isSome ∨ d.failed.isSome ∨ d.ecc.isSome then no else
        let set (s : State) (f : Deferred → Deferred) : State :=
          s.updWave g w fun x => { x with deferred := x.deferred.map fun e => if e.id = k then f e else e }
        let stop (s : State) (x : Xl) (va : Nat) (acc : Access) : Option State := match x with
          | .fault reason =>
            let (f, s) := s.raiseFault c.part c.l.ctx c.grp.cluster 1 va reason acc
            some (set s fun d => { d with fault := some (f, va) })
          -- an uncorrectable word: the covering WAITT raises ECC (R407)
          | .ecc => some (set s fun d => { d with ecc := some (mainEcc va), value := some [] })
          | _ => no
        match serveAll c.grp.cluster c.part c.l.ctx form s.free inputs s with
        | (.error (.stop x va), s) => stop s x va .read
        | (.error .bad, _) => no
        | (.ok rs, s) =>
          match writeFeedback s c.part c.l.ctx (rs.flatMap fun r => r.2.feedback) with
          | (some (x, va), s) => stop s x va .write
          | (none, s) =>
            let vals := rs.flatMap fun r => (List.range 5).map fun i => ((d.reg + i) * 32 + r.1, BitVec.ofNat 32 (r.2.words.getD i 0))
            some { set s fun d => { d with value := some vals } with free := s.free + 256 }
      | _ => no
/-- TEXTURE_SERVE: it happens where its rule lets it; elsewhere nothing happens. -/
def execTextureServe (g w k : Nat) (s : State) : Host.Outcome State Fault Refusal := happens s (tryTextureServe g w k s)

end Sys2Proof.Machine
end

