-- ==== Sys2Proof/Machine/Verdict.lean ====
section
/-! DEFINITION. FQVERD (18 R452): the verdicts of system software on translation faults, for copies (11 R323, R324), table stores (16 R416), textures
(15 R407), rays (14 R397, 13 R373) and the task engine's reads. -/

namespace Sys2Proof.Machine

/-- The replay entries of a fault leave the buffer. -/
def takeReplays (s : State) (f : Nat) : List Replay × State :=
  (s.replays.filter fun r => r.fault == f, { s with replays := s.replays.filter fun r => r.fault != f })
/-- A deferred texture result that waits for a fault. -/
def mapDeferred (s : State) (f : Nat) (g : Deferred → Nat → Deferred) : State :=
  let one (d : Deferred) : Deferred := match d.fault with | some (k, va) => if k = f then g d va else d | none => d
  { s with groups := s.groups.map fun (e : Nat × Group) =>
      (e.1, { e.2 with waves := e.2.waves.map fun w => { w with deferred := w.deferred.map one } }) }
/-- The rays that wait for a fault. -/
def faultedRays (s : State) (f : Nat) : List Nat := (s.rays.filter fun r => (r.2.fault.map fun (x : Nat × Nat) => x.1) == some f).map (·.1)
/-- The raster work of every launch changes. -/
def mapRaster (s : State) (g : Launch → Option RasterJob → Option RasterJob) : State :=
  { s with launches := s.launches.map fun (e : Nat × Launch) => (e.1, { e.2 with raster := g e.2 e.2.raster }) }
/-- Tiles whose primary rays wait for a fault. -/
def mapTiles (s : State) (f : Nat) (g : TileJob → TileJob) : State :=
  mapRaster s fun _ j => j.map fun j => { j with tiles := j.tiles.map fun (t : Nat × TileJob) => (t.1, if t.2.fault = some f then g t.2 else t.2) }
/-- Table stores that wait for a fault. -/
def faultedStores (s : State) (f : Nat) : List Nat := (s.clusters.filter fun c => c.2.store.fault == some f).map (·.1)
def setStore (s : State) (cl : Nat) (g : TableStore → TableStore) : State :=
  s.setCluster cl { s.cluster cl with store := g (s.cluster cl).store }

/-- A verdict is heard: the fault of the record, unless none awaits it or a teardown is under way (R452, R453). -/
def heardFault (s : State) (part seq : Nat) : Option FaultRec := if (s.partOf part).teardown.isSome then none else faultOf s part seq

/-- RETRY (R323, R397, R407, R416): everything that waits for the record reads or writes again. -/
def retryFault (s : State) (f : FaultRec) : State :=
  let s := { s with faultRecs := s.faultRecs.filter fun x => x.id != f.id }
  let (rs, s) := takeReplays s f.id
  let s := rs.foldl reissue s
  let s := mapDeferred s f.id fun d _ => { d with fault := none }
  let s := (faultedRays s f.id).foldl (fun (s : State) r => rayVerdict s r true) s
  let s := mapTiles s f.id fun t => { t with fault := none }
  (faultedStores s f.id).foldl (fun (s : State) c => setStore s c fun x => { x with fault := none }) s
/-- FQVERD_RETRY (R323, R452). -/
def execFqverdRetry (part seq : Nat) (s : State) : Host.Outcome State Fault Refusal :=
  .next (match heardFault s part seq with | some f => retryFault s f | none => s)

/-- A failed piece (R324): it completes without a transfer, its batch has failed, and an issuer that has ended is judged at once. -/
def failReplay (s : State) (r : Replay) : State :=
  match mget r.copy s.copies with
  | none => s
  | some k =>
    let s := pieceDone s r.copy r.piece
    let s := s.updWave k.group k.wave fun w =>
      { w with batchFail := if (mget k.batch w.batchFail).isSome then w.batchFail else mset k.batch r.va w.batchFail }
    match s.ctxOf k.group k.wave with
    | some c => if c.w.ended then s.judgeBatches c else s
    | none => s
/-- FAIL (R324, R373, R397, R407, R416). -/
def failFault (s : State) (f : FaultRec) : State :=
  let s := { s with faultRecs := s.faultRecs.filter fun x => x.id != f.id }
  let (rs, s) := takeReplays s f.id
  let s := rs.foldl failReplay s
  let s := mapDeferred s f.id fun d va => { d with fault := none, failed := some va, value := some [] }
  let s := (faultedRays s f.id).foldl (fun (s : State) r => rayVerdict s r false) s
  let s := mapTiles s f.id fun t => { t with fault := none, bad := f.page :: t.bad }
  -- a strip header that cannot be read (log entry 26)
  let s := if f.engine = 4 then mapRaster s fun l j =>
      let waits := State.alive l && l.part == f.part && l.ctx == f.ctx && l.card.argBase / 4096 * 4096 == f.page && s.rasterCard l.part l.card
      let job := j.getD (emptyJob s.cyc [])
      if waits && job.header == 0 then some { job with failed := true } else j
    else s
  (faultedStores s f.id).foldl (fun (s : State) c =>
    match (s.cluster c).store.holder.bind fun lid => (mget lid s.launches).map fun l => (lid, l) with
    | some (lid, l) => imageFail (setStore s c fun x => { x with fault := none, failed := true }) lid c 10 (bits l.card.qrt 51 0)
    | none => s) s
/-- FQVERD_FAIL (R324, R452). -/
def execFqverdFail (part seq : Nat) (s : State) : Host.Outcome State Fault Refusal :=
  .next (match heardFault s part seq with | some f => failFault s f | none => s)

end Sys2Proof.Machine
end

