-- ==== Sys2Proof/Machine/Partition.lean ====
section
/-! DEFINITION. What the partition manager configures (18 R442-R453; 12 R331, R347, R348; 19 R464, R465, R472): partitions and their teardown,
granules and their scrubs, TLB invalidation, hardware queues, strip templates, the package's place, queue pairs and channel shares. Each
register has one operation for a write, none where a rule of the register refuses it (R459). -/

namespace Sys2Proof.Machine

/-- Sum of a list. -/
def total (l : List Nat) : Nat := l.foldl (· + ·) 0
def isPow2 (n : Nat) : Bool := (List.range 64).any fun i => 2 ^ i == n

/-! ### Hardware queues (R331) -/

/-- A queue may be enabled: its depth, and the sum of the depths of all enabled queues with it. -/
def queueFits (s : State) (q : Nat) : Bool :=
  let depth (n : Nat) := s.barBits (qcfgOff n) 76 64
  let others := total (((List.range 1024).filter fun n => n != q && s.barFlag (qcfgOff n) 6).map depth)
  decide (1 ≤ depth q) && decide (depth q ≤ 4096) && decide (others + depth q ≤ 16384)
/-- A write of en = 1 to a QCFG. -/
def enableQueue (s : State) (q : Nat) : Option State :=
  if decide (q < 1024) && queueFits s q then some (s.setBar (qcfgOff q) 6 6 1) else none
/-- QCFG_ENABLE (R331). -/
def execQcfgEnable (q : Nat) (s : State) : Host.Outcome State Fault Refusal := .next (configured s (enableQueue s q))

/-! ### Strip-chain templates (R347-R349) -/

/-- The enabled partition whose rectangle holds a template as an aligned sub-rectangle (R347; log entry 12). -/
def templatePart (s : State) (h : Nat) : Option Nat :=
  let b := stplOff h
  let (x, y, w, n) := (s.barBits b 7 0, s.barBits b 15 8, s.barBits b 23 16, s.barBits b 31 24)
  if isPow2 w && isPow2 n && x % w == 0 && y % n == 0 then
    (List.range 64).find? fun p => s.partEn p && decide (x + w ≤ s.partPw p) && decide (y + n ≤ s.partPh p)
  else none
/-- Σ budget/period of the templates on a cluster with one more, at most 9/10 (R348). -/
def budgetFits (s : State) (h cl : Nat) : Bool :=
  let hs := h :: (s.reservedBy cl).filter (· != h)
  decide ((hs.map fun k => mkRat (s.barBits (stplOff k) 63 32 : Int) (s.barBits (stplOff k) 95 64)).foldl (· + ·) 0 ≤ mkRat 9 10)
/-- A locked card is resident on a cluster (R348). -/
def lockedOn (s : State) (cl : Nat) : Bool :=
  s.launches.any fun e => e.2.card.regime == 2 && (e.2.status == .dispatched || e.2.status == .running || e.2.status == .halted) &&
    (s.cardClusters e.2.part e.2.card).contains cl
/-- The values of a template lie in the ranges of Table 12-3. -/
def templateRanges (s : State) (h : Nat) : Bool :=
  let b := stplOff h
  let inR (lo hi x : Nat) := decide (lo ≤ x) && decide (x ≤ hi)
  inR 1 8 (s.barBits b 231 224) && inR 1 32 (s.barBits b 239 232) && inR 1 128 (s.barBits b 247 240) && decide (1 ≤ s.barBits b 95 64)
/-- Admission (R348). -/
def admits (s : State) (h p : Nat) : Bool :=
  templateRanges s h && ((s.stplTiles p h).filter s.tileOk).all fun cl =>
    budgetFits s h cl && decide (s.barBits (stplOff h) 231 224 ≤ capacityFrom true (s.stripShape h) 8 []) && !lockedOn s cl
/-- A write of valid = 1: admitted where the rules let it, without effect elsewhere. -/
def requestTemplate (s : State) (h : Nat) : State :=
  if 132 ≤ h then s else
  let t := s.setBar (stplOff h) 288 288 1
  if s.barFlag (stplOff h) 289 then t else
  match templatePart s h with
  | some p => if admits s h p then { t.setBar (stplOff h) 289 289 1 with headParts := mset h p t.headParts } else t
  | none => t
/-- STPL_VALID (R348). -/
def execStplValid (head : Nat) (s : State) : Host.Outcome State Fault Refusal := .next (configured s (some (requestTemplate s head)))
/-- A write of valid = 0: it takes effect once the head's strip cards have completed. -/
def withdrawTemplate (s : State) (h : Nat) : State := if 132 ≤ h then s else (s.setBar (stplOff h) 288 288 0).settleTemplates
/-- STPL_WITHDRAW (R348). -/
def execStplWithdraw (head : Nat) (s : State) : Host.Outcome State Fault Refusal := .next (configured s (some (withdrawTemplate s head)))

/-! ### Partitions (R442) -/

def partMask (s : State) (p : Nat) : Nat := s.barBits (pcfgOff p) 127 64
/-- The conditions of R442 for en = 1; a teardown under way is over first (log entry 34). -/
def partFits (s : State) (p : Nat) : Bool :=
  let (x, y, w, h) := (s.partPx p, s.partPy p, s.partPw p, s.partPh p)
  isPow2 w && isPow2 h && decide (w ≤ 16) && decide (h ≤ 16) && x % w == 0 && y % h == 0 && decide (x + w ≤ 16) && decide (y + h ≤ 16) &&
  s.barBits (pcfgOff p) 319 288 % 65536 == 0 && s.barBits (pcfgOff p) 415 384 % 65536 == 0 && (s.partOf p).teardown.isNone &&
  ((List.range 64).filter fun q => q != p && s.partEn q).all fun q =>
    (decide (x + w ≤ s.partPx q) || decide (s.partPx q + s.partPw q ≤ x) || decide (y + h ≤ s.partPy q) || decide (s.partPy q + s.partPh q ≤ y)) &&
    Nat.land (partMask s p) (partMask s q) == 0
/-- A write of en = 1 to a PCFG. -/
def enablePart (s : State) (p : Nat) : Option State :=
  if decide (p < 64) && partFits s p then some (s.setBar (pcfgOff p) 34 34 1) else none
/-- PCFG_ENABLE (R442). -/
def execPcfgEnable (part : Nat) (s : State) : Host.Outcome State Fault Refusal := .next (configured s (enablePart s part))

/-! ### Teardown (R453) -/

/-- PCFG.busy (Table 18-1): a teardown of the partition, or the scrub of a granule assigned to it, is in progress (log entry 120). -/
def settleBusy (s : State) : State :=
  (List.range 64).foldl (fun (s : State) p =>
    let busy := (s.partOf p).teardown.isSome || s.scrubs.any fun n => s.barFlag (mownOff n) 6 && s.barBits (mownOff n) 5 0 == p
    if s.barFlag (pcfgOff p) 35 = busy then s else s.setBar (pcfgOff p) 35 35 (if busy then 1 else 0)) s

/-- Pieces of a copy that are not complete. -/
def piecesLeft (k : Copy) : Nat := ((List.range k.pieceCount).filter fun n => decide (k.next ≤ n) && !k.ahead.contains n).length
/-- What a teardown drops: groups that stand on a cluster, cards and intake entries, copy pieces, and flits not yet sent or answered
(log entry 35). -/
def teardownCounts (s : State) (p : Nat) : List Nat :=
  let mine := s.launches.filter fun e => e.2.part == p && State.alive e.2
  let own (l : Nat) : Bool := mine.any fun e => e.1 == l
  let copies := s.copies.filter fun e => own e.2.launch
  [(s.groups.filter fun e => own e.2.launch && State.occupies e.2).length,
   mine.length + (s.partOf p).intake.length + (s.children.filter fun e => own e.2.root).length,
   total (copies.map fun e => piecesLeft e.2),
   total ((s.sends.filter fun e => own e.2.launch).map fun e => e.2.count - e.2.next) + total (copies.map fun e => e.2.remote.length)]
/-- The heads whose ring lies in a partition. -/
def headsOf (s : State) (p : Nat) : List Nat := (s.rings.filter fun e => s.headPart e.1 == p).map (·.1)
/-- A write of en = 0 to an enabled partition: intake, cards, queues, rings and engines drop what they hold (R453 steps 1 and 2). -/
def startTeardown (s : State) (p : Nat) : State :=
  if 64 ≤ p ∨ !s.partEn p then s else
  let counts := teardownCounts s p
  let slices := s.slices p
  let mine := (s.launches.filter fun e => e.2.part == p && State.alive e.2).map (·.1)
  let s := mine.foldl (fun (s : State) l => s.killLaunch l) s
  let s := (queuesOf s p).foldl (fun (s : State) n => s.setBar (qdescOff n) 41 40 0) s
  let s := (headsOf s p).foldl abandonRing s
  let x := s.partOf p
  -- records of heads still speak of what happened (R441)
  let heads := x.heldFaults.filter fun e => [0x60, 0x61, 0x62].contains (ofBytes (e.2.take 1))
  let s := s.setPart p { x with intake := [], rejected := [], heldFaults := heads, slots := [], teardown := some (s.cyc :: counts ++ slices) }
  let s := { s with children := s.children.filter fun e => !mine.contains e.2.root, faultRecs := s.faultRecs.filter fun f => f.part != p }
  settleBusy (s.setBar (pcfgOff p) 34 34 0)
/-- TEARDOWN (R453). -/
def execTeardown (part : Nat) (s : State) : Host.Outcome State Fault Refusal := .next (configured s (some (startTeardown s part)))

/-- TEARDOWN_COMPLETE (R453 steps 3 to 6): the TLB entries go, the slices are zeroed at 64 bytes a cycle each, busy clears, and the record of
Table 18-5 is posted. -/
def tryTeardownComplete (part : Nat) (s : State) : Option State :=
  match (s.partOf part).teardown with
  | some (c0 :: groups :: cards :: pieces :: flits :: slices) =>
    let t := slices.foldl (fun (t : State) cl => t.zeroRange (Base.slice cl) (2 ^ 21)) { s with tlb := s.tlb.filter fun e => e.part != part, tlb1 := s.tlb1.map fun e => (e.1, e.2.filter fun e => e.part != part) }
    let x := t.partOf part
    let t := t.setPart part { x with teardown := none, key := x.key + 1 }
    let t := settleBusy t
    event (decide (c0 + 2 ^ 15 ≤ s.cyc))
      (t.postError (record 64 [(0, 0x70), (8, part), (32, groups % 2 ^ 32), (64, cards % 2 ^ 32), (96, pieces % 2 ^ 32), (128, flits % 2 ^ 32),
        (160, c0), (224, s.cyc)]))
  | _ => none
/-- TEARDOWN_COMPLETE: it happens where its rule lets it; elsewhere nothing happens. -/
def execTeardownComplete (part : Nat) (s : State) : Host.Outcome State Fault Refusal := happens s (tryTeardownComplete part s)

/-! ### Granules (R444, R445) -/

/-- A write of MOWN_n: a change of owner or assignment starts a scrub, in the order of the writes. -/
def writeMown (s : State) (n v : Nat) : State :=
  if 1024 ≤ n then s else
  let t := s.setBar (mownOff n) 6 0 v
  if s.barBits (mownOff n) 6 0 = v % 128 then s
  else settleBusy { t.setBar (mownOff n) 7 7 1 with scrubs := s.scrubs ++ [n], scrubStart := if s.scrubs = [] then s.cyc else s.scrubStart }
/-- MOWN_WRITE (R445). -/
def execMownWrite (granule value : Nat) (s : State) : Host.Outcome State Fault Refusal := .next (configured s (some (writeMown s granule value)))

/-- Cycles of one scrub (R445). -/
def scrubCycles : Nat := 2 ^ 24
/-- SCRUB_COMPLETE (R445): the granule holds zeros under its owner's key, and scrubbing clears. -/
def tryScrubComplete (granule : Nat) (s : State) : Option State :=
  match s.scrubs with
  | [] => none
  | n :: rest =>
    let key := s.keyNum (s.barBits (mownOff n) 5 0)
    let t := { s.zeroRange (Base.lpddr + n * 2 ^ 30) (2 ^ 30) with
      lineKey := s.lineKey.filter fun e => e.1 / 2 ^ 24 != n
      granKey := mset n key s.granKey, scrubs := rest, scrubStart := s.scrubStart + scrubCycles }
    event (n == granule && decide (s.scrubStart + scrubCycles ≤ s.cyc)) (settleBusy (if rest.contains n then t else t.setBar (mownOff n) 7 7 0))
/-- SCRUB_COMPLETE: it happens where its rule lets it; elsewhere nothing happens. -/
def execScrubComplete (granule : Nat) (s : State) : Host.Outcome State Fault Refusal := happens s (tryScrubComplete granule s)

/-! ### TLB invalidation (R450) -/

/-- A write of TLBINV; one that names a partition under teardown is ignored (R453). -/
def writeTlbinv (s : State) (v : Nat) : State :=
  if (s.partOf (bits v 61 56)).teardown.isSome then s else
  let t := s.setBar tlbinvOff 62 12 (bits v 62 12)
  if bit v 63 then { t.setBar tlbinvOff 63 63 1 with invals := s.invals ++ [v] } else t
/-- TLBINV (R450): a write with go = 1. -/
def execTlbinv (value : BitVec 64) (s : State) : Host.Outcome State Fault Refusal := .next (writeTlbinv s (setBits value.toNat 63 63 1))
/-- An invalidation names a TLB entry. -/
def invalidates (v : Nat) (e : TlbEntry) : Bool :=
  let va := bits v 51 12 * 4096
  e.part == bits v 61 56 && e.ctx == bits v 55 52 && (bit v 62 || (decide (e.base ≤ va) && decide (va < e.base + e.size)))
/-- TLBINV_COMPLETE (R450): the oldest invalidation of the partition is done. No access under way keeps a translation here: each translates when
it is performed. -/
def tryTlbinvComplete (part : Nat) (s : State) : Option State :=
  match s.invals.find? fun v => bits v 61 56 == part with
  | none => none
  | some v =>
    let rest := s.invals.erase v
    let t := { s with tlb := s.tlb.filter fun e => !invalidates v e, tlb1 := s.tlb1.map fun e => (e.1, e.2.filter fun e => !invalidates v e), invals := rest }
    some (if rest = [] then t.setBar tlbinvOff 63 63 0 else t)
/-- TLBINV_COMPLETE: it happens where its rule lets it; elsewhere nothing happens. -/
def execTlbinvComplete (part : Nat) (s : State) : Host.Outcome State Fault Refusal := happens s (tryTlbinvComplete part s)

/-! ### The package's place, queue pairs, channel shares (R464, R465, R472) -/

/-- A write of TBCFG: during step 7, or, once configuration is accepted, in no multi-package domain. -/
def writeTbcfg (s : State) (v : Nat) : Option State :=
  if bringUpStep s = 7 ∨ (bringUpStep s = 9 ∧ s.domSize ≤ 1) then some ((s.setBar tbcfgOff 2 0 v).setBar tbcfgOff 47 8 (bits v 47 8)) else none
/-- TBCFG_WRITE (R464). -/
def execTbcfgWrite (value : BitVec 64) (s : State) : Host.Outcome State Fault Refusal := .next ((writeTbcfg s value.toNat).getD s)

/-- The moves of a queue pair's state (R465). -/
def pairMoves (old new : Nat) : Bool := new == 4 || new == 0 || (old == 0 && new == 1) || (old == 1 && new == 2) || (old == 2 && new == 3)
/-- A write of the state field. -/
def writePair (s : State) (n x : Nat) : Option State :=
  if decide (n < 1024) && pairMoves (pairState s n) x then some (s.setBar (qpctxOff n) 4 2 x) else none
/-- QPCTX_STATE (R465). -/
def execQpctxState (qp state : Nat) (s : State) : Host.Outcome State Fault Refusal := .next (configured s (writePair s qp state))

/-- A write of channel shares: partition and value each; none where the sum would pass 256 (R472). -/
def writeShares (s : State) (vs : List (Nat × Nat)) : Option State :=
  let t := vs.foldl (fun (t : State) v => if v.1 < 64 then t.setBar (shareOff v.1) 7 0 v.2 else t) s
  if total ((List.range 64).map fun p => t.barBits (shareOff p) 7 0) ≤ 256 then some t else none
/-- CHANNEL_SHARE (R472). -/
def execChannelShare (part value : Nat) (s : State) : Host.Outcome State Fault Refusal := .next (configured s (writeShares s [(part, value % 256)]))

end Sys2Proof.Machine
end

