-- ==== Sys2Proof/Machine/Registers.lean ====
section
/-! DEFINITION. Writing and reading BAR0 (00 R8, R9; 19 R454, R456, R458, R459, R463-R465, R469, R471; 06 R207, R209; 08 R252, R262, R263): the
writable bits of every 8-byte piece, and the rules of the registers that have some. A read returns what stands in `State.bar`. -/

namespace Sys2Proof.Machine

/-- The bits of a piece that a list of fields (high, low) covers. -/
def fieldMask (fs : List (Nat × Nat)) : Nat := total (fs.map fun f => 2 ^ (f.1 + 1) - 2 ^ f.2)
/-- A register block of Table 19-1: base, bytes of an entry, entries. -/
def inBlock (off base size n : Nat) : Option (Nat × Nat) :=
  if base ≤ off ∧ off < base + size * n then some ((off - base) / size, (off - base) % size) else none

/-- Which block an offset lies in, with the entry and the offset in it. -/
inductive Block where
  | mailbox | qreg | pcfg | ctxcfg | mown | tlbinv | fqverd | qcfg | stpl | ringcfg | enccfg | pcap | buddy | ckin | shares | qdesc | debug
  | tbcfg | portcfg | qpctx | mrtab | errors | drops | window
  deriving DecidableEq, Repr
/-- The blocks with their bases, entry sizes and counts (Table 19-1). -/
def blocks : List (Block × Nat × Nat × Nat) :=
  [(.mailbox, 0, 0x800, 1), (.window, 0x1000, 64, 64), (.qreg, 0x2000, 32, 66), (.pcfg, 0x100000, 128, 64), (.ctxcfg, 0x102000, 16, 1024),
   (.mown, 0x106000, 8, 128), (.tlbinv, tlbinvOff, 8, 1), (.fqverd, 0x106800, 8, 64), (.qcfg, 0x108000, 32, 1024), (.stpl, 0x110000, 64, 132),
   (.ringcfg, 0x114000, 64, 132), (.enccfg, 0x118000, 32, 128), (.pcap, pcapOff, 8, 1), (.buddy, buddyOff, 8, 1), (.ckin, ckinOff, 8, 1),
   (.shares, 0x119040, 8, 8), (.qdesc, 0x11A000, 32, 256), (.debug, 0x11C000, 0x80, 1024), (.tbcfg, tbcfgOff, 8, 1), (.portcfg, portcfgOff, 64, 1),
   (.qpctx, 0x140000, 64, 1024), (.mrtab, 0x150000, 32, 256), (.errors, 0x1000000, 0x1000, 0x1004), (.drops, dropLogOff, 0x1000, 1)]
/-- The block of an offset: its entry and the offset in the entry. -/
def blockOf (off : Nat) : Option (Block × Nat × Nat) :=
  blocks.findSome? fun b => (inBlock off b.2.1 b.2.2.1 b.2.2.2).map fun e => (b.1, e.1, e.2)

/-- The bits that a write stores in the piece at an offset of an entry, where no further rule speaks of them (the RW fields of the tables). -/
def rwMask : Block → Nat → Nat
  | .mailbox, o => if 0x40 ≤ o then 2 ^ 64 - 1 else 0
  | .qreg, 0 => 2 ^ 64 - 1
  | .qreg, 8 => fieldMask [(4, 0)]
  | .qreg, 16 => fieldMask [(31, 0), (54, 48)]
  | .pcfg, 0 => fieldMask [(33, 0)]
  | .pcfg, 8 => 2 ^ 64 - 1
  | .pcfg, 16 => fieldMask [(51, 0)]
  | .pcfg, 24 => fieldMask [(15, 0), (63, 32)]
  | .pcfg, 32 => fieldMask [(19, 0), (63, 32)]
  | .pcfg, 40 => fieldMask [(51, 0)]
  | .pcfg, 48 => 2 ^ 64 - 1
  | .pcfg, 56 => fieldMask [(43, 0)]
  | .pcfg, 64 => fieldMask [(63, 32)]
  | .ctxcfg, 0 => fieldMask [(0, 0), (51, 13)]
  | .ctxcfg, 8 => fieldMask [(31, 0)]
  | .qcfg, 0 => fieldMask [(5, 0), (63, 16)]
  | .qcfg, 8 => fieldMask [(12, 0)]
  | .stpl, 0 => 2 ^ 64 - 1
  | .stpl, 8 => 2 ^ 64 - 1
  | .stpl, 16 => 2 ^ 64 - 1
  | .stpl, 24 => fieldMask [(19, 0), (55, 32)]
  | .stpl, 32 => fieldMask [(31, 0)]
  | .ringcfg, 0 => fieldMask [(46, 0)]
  | .ringcfg, 8 => fieldMask [(15, 0), (28, 16), (44, 32), (49, 48)]
  | .ringcfg, 16 => 2 ^ 64 - 1
  | .ringcfg, 24 => fieldMask [(47, 0)]
  | .ringcfg, 32 => fieldMask [(47, 0)]
  | .ringcfg, 40 => fieldMask [(31, 0)]
  | .enccfg, 0 => fieldMask [(51, 0)]
  | .enccfg, 8 => fieldMask [(31, 0)]
  | .enccfg, 16 => fieldMask [(56, 0)]
  | .pcap, 0 => fieldMask [(15, 0)]
  | .buddy, 0 => fieldMask [(7, 0), (51, 12)]
  | .ckin, 0 => fieldMask [(7, 0), (51, 12), (63, 63)]
  | .qdesc, 0 => fieldMask [(39, 0), (53, 48)]
  | .qdesc, 8 => 2 ^ 64 - 1
  | .qdesc, 16 => fieldMask [(23, 0)]
  | .debug, o => if o < 0x40 then fieldMask [(54, 2)] else if o % 16 = 0 then 2 ^ 64 - 1 else fieldMask [(1, 0)]
  | .portcfg, 0 => fieldMask [(47, 0)]
  | .portcfg, 8 => fieldMask [(31, 0)]
  | .portcfg, 16 => 2 ^ 64 - 1
  | .portcfg, 24 => 2 ^ 64 - 1
  | .portcfg, 32 => fieldMask [(8, 0)]
  | .qpctx, 0 => fieldMask [(1, 0), (14, 5), (55, 32)]
  | .qpctx, 8 => fieldMask [(56, 0)]
  | .qpctx, 16 => fieldMask [(31, 0)]
  | .qpctx, 24 => 2 ^ 64 - 1
  | .qpctx, 32 => 2 ^ 64 - 1
  | .qpctx, 40 => 2 ^ 64 - 1
  | .mrtab, 0 => fieldMask [(54, 0), (59, 56)]
  | .mrtab, 8 => 2 ^ 64 - 1
  | .mrtab, 16 => fieldMask [(5, 0), (63, 32)]
  | .errors, 0x410 => 2 ^ 64 - 1
  | .errors, 0x418 => fieldMask [(10, 0), (55, 32)]
  | _, _ => 0

/-- The 8-byte piece at an offset. -/
def piece (s : State) (off : Nat) : Nat := s.bar.load off 8
def setPiece (s : State) (off v : Nat) : State := { s with bar := s.bar.store off 8 v }
/-- A plain write of a piece: its RW fields take the value, everything else stays (R8, Table 00-1). -/
def putPiece (s : State) (b : Block) (o off v : Nat) : State :=
  let m := rwMask b o
  setPiece s off (Nat.lor (Nat.land v m) (Nat.land (piece s off) (2 ^ 64 - 1 - m)))
/-- A log's status register: lost and ue clear (Table 06-7). -/
def clearLogStatus (s : State) (off v : Nat) : State :=
  let s := if bits v 31 16 ≠ 0 then s.setBar off 31 16 0 else s
  if bit v 32 then s.setBar off 32 32 0 else s
/-- The acknowledge register of a log (Table 06-8). -/
def ackLog (s : State) (b n : Nat) : State :=
  let k := s.barBits (b + 0x400) 5 0
  s.setBar (b + 0x400) 5 0 (k - min (n % 64) k)

/-! ### The mailbox (R458, R459) -/

/-- The request: opcode, parameter bytes, and bits [hi:lo] of the parameters (Table 19-8). -/
def mboxOp (s : State) : Nat := s.bar.load 0x40 2
def mboxLen (s : State) : Nat := s.bar.load 0x42 2
def mboxParam (s : State) (hi lo : Nat) : Nat := bits (s.bar.load 0x44 (hi / 8 + 1)) hi lo
/-- A command is complete: response and result are written, then done advances, and vector 69 is signalled. -/
def finishCommand (s : State) (result : Nat) (resp : List Byte) : State :=
  match s.doorbell with
  | none => s
  | some seq =>
    ({ s with bar := ((s.bar.setBytes 0x800 resp).store 0xC 4 result).store 8 4 seq, doorbell := none }).send "msix" [69]
/-- The doorbell is rung with the next sequence number: an opcode that Table 19-9 does not list, and a GRPCTL without an action of Table 19-11,
are answered at once; any other command is under way. -/
def ringDoorbell (s : State) (seq : Nat) : State :=
  let s := { s with doorbell := some seq }
  if !([1, 2, 0x10, 0x20, 0x30, 0x40, 0x41].contains (mboxOp s)) then finishCommand s 1 []
  else if mboxOp s = 0x20 ∧ (mboxLen s ≠ 24 ∨ mboxParam s 7 0 = 0 ∨ 5 < mboxParam s 7 0) then finishCommand s 2 []
  else s

/-! ### Writes -/

/-- A write of the piece of a QDESC (R262, R263): everything while OFF, only state 0 elsewhere. A write of a part_id that would renumber a queue
that is not OFF, or of a state that may not be written, is ignored as a whole, as one of en = 1 is (log entry 65). -/
def writeQdesc (s : State) (n o off v : Nat) : Option State :=
  let x := bits v 41 40
  if queueState s n ≠ 0 then (if o = 0 ∧ x = 0 then some (s.setBar (qdescOff n) 41 40 0) else none)
  else
    let t := putPiece s .qdesc o off v
    if o ≠ 0 then some t else
    let (old, new) := (queueOwner s n, bits v 53 48)
    let renumbers := old != new && (List.range 256).any fun m => decide (n < m) && queueState s m != 0 && (queueOwner s m == old || queueOwner s m == new)
    if renumbers then none
    else if x = 0 then some t
    else if x = 1 ∧ queueReady t n then some (t.setBar (qdescOff n) 41 40 1) else none

/-- An 8-byte write by the party that reaches the register (R459): none where a rule of the register refuses it. -/
def writeReg (s : State) (off v : Nat) : Option State :=
  if off % 8 ≠ 0 then some s else
  match blockOf off with
  | none => some s
  | some (b, n, o) =>
    let t := putPiece s b o off v
    match b with
    | .mailbox =>
      -- the doorbell (R458)
      if o = 0 then
        let seq := bits v 63 32
        if bringUpStep s = 9 ∧ s.doorbell.isNone ∧ seq = (s.bar.load 8 4 + 1) % 2 ^ 32 then some (ringDoorbell s seq) else some s
      else some t
    | .window => some (s.setPart n { s.partOf n with drops := ((s.partOf n).drops + 1) % 2 ^ 32 })
    | .qreg => some (if o = 16 ∧ bits v 47 32 ≠ 0 then t.setBar (qregOff n) 175 160 0 else t)
    | .pcfg =>
      -- while en = 1 only en and fqrd are written
      if s.partEn n then
        if o = 0 ∧ !bit v 34 then some (startTeardown s n)
        else if o = 64 ∨ t.bar = s.bar then some t else none
      else if o = 0 ∧ bit v 34 then enablePart t n else some t
    | .mown => some ((List.range 8).foldl (fun (s : State) i => writeMown s (8 * n + i) (v / 256 ^ i % 256)) s)
    -- one that names a partition under teardown is ignored (R453)
    | .tlbinv => if (s.partOf (bits v 61 56)).teardown.isSome then none else some (writeTlbinv s v)
    | .fqverd =>
      (heardFault s n (bits v 31 0)).map fun f => if bit v 32 then failFault s f else retryFault s f
    | .qcfg =>
      let t := t.touchQueue n o 8
      if o ≠ 0 then some t
      else if !bit v 6 then some (t.setBar (qcfgOff n) 6 6 0)
      else if s.barFlag (qcfgOff n) 6 then some t else enableQueue t n
    | .stpl => if o ≠ 32 then some t else some (if bit v 32 then requestTemplate t n else withdrawTemplate t n)
    | .ringcfg =>
      if ringEn s n then (if o = 8 ∧ !bit v 50 then some (disableRing n s) else if t.bar = s.bar then some t else none)
      else if o = 8 ∧ bit v 50 then enableRing n t else some t
    | .pcap => if 1600 < bits v 15 0 then none else some t
    | .shares => writeShares s ((List.range 8).map fun i => (8 * n + i, v / 256 ^ i % 256))
    | .qdesc => writeQdesc s n o off v
    | .tbcfg => writeTbcfg s v
    | .qpctx =>
      let same := decide (bits v 4 2 = pairState s n)
      if pairState s n = 0 then (if o = 0 ∧ !same then writePair t n (bits v 4 2) else some t)
      else if o ≠ 0 then none
      else if same then some s else writePair s n (bits v 4 2)
    | .errors =>
      if !errorBlock (off / 0x1000 * 0x1000) then some s
      else if o = 0x400 then some (clearLogStatus s off v)
      else if o = 0x408 then some (ackLog s (off / 0x1000 * 0x1000) (bits v 5 0))
      else some t
    | .drops =>
      if o = 0x400 then some (clearLogStatus s off (bits v 31 0))
      else if o = 0x408 then some (ackLog s dropLogOff (bits v 5 0)) else some s
    | _ => some t

/-- The regions that only the partition manager and the secure controller reach (Table 19-1), as base and bytes. -/
def privRegions : List (Nat × Nat) :=
  [(0x100000, 0x2000), (0x102000, 0x4000), (0x106000, 0x400), (0x106400, 8), (0x106800, 0x200), (0x108000, 0x8000), (0x110000, 8448),
   (0x114000, 8448), (0x118000, 0x1000), (0x119000, 0x80), (0x11A000, 0x2000), (0x11C000, 0x20000), (0x13C000, 8), (0x13D000, 64),
   (0x140000, 0x10000), (0x150000, 0x2000), (0x1000000, 0x1000000), (0x2000000, 0x4000), (0x2008000, 0x1000)]
def isPriv (off : Nat) : Bool := privRegions.any fun r => decide (r.1 ≤ off) && decide (off < r.1 + r.2)

/-- A read of the 8-byte piece at an offset (R9, R454, R455): a PRIV register reads 0 for the host driver, a submission window its drop count. -/
def readReg (s : State) (host : Bool) (off : Nat) : Nat :=
  if host && isPriv off then 0 else
  match blockOf off with
  | some (.window, p, 0) => (s.partOf p).drops
  | _ => piece s off
/-- Registers can be written (R475): by the host driver once BAR0 is open, after step 6 of bring-up; by the partition manager in step 9, and TBCFG in
step 7 (R464). -/
def registersOpen (s : State) (host : Bool) (off : Nat) : Bool :=
  let n := bringUpStep s
  if host then (decide (7 ≤ n) && decide (n ≤ 9)) || (decide (0xBAD7 ≤ n) && decide (n ≤ 0xBAD9))
  else n == 9 || (n == 7 && off == tbcfgOff)
/-- REGISTER_WRITE (R9, R454): an 8-byte write by the partition manager, or by the host driver, whose writes to PRIV registers are ignored and
logged. -/
def execRegisterWrite (host : Bool) (off : Nat) (value : BitVec 64) (s : State) : Host.Outcome State Fault Refusal :=
  .next (if !registersOpen s host off then s
    else if host && isPriv off then s.send "priv-log" [off] else (writeReg s off value.toNat).getD s)

/-- FUNCTION_LEVEL_RESET (R454; log entry 36): what the function itself holds returns to its reset values: the queue registers and the mailbox. -/
def execFunctionLevelReset (s : State) : Host.Outcome State Fault Refusal :=
  let keep (a : Nat) : Bool := decide (a < 4) || (decide (0x1000 ≤ a) && decide (a < 0x2000)) || decide (0x3000 ≤ a)
  .next { s with bar := s.bar.filter fun c => keep c.1, doorbell := none }

end Sys2Proof.Machine
end

