-- ==== Sys2Proof/Machine/Mailbox.lean ====
section
/-! DEFINITION. The mailbox commands (19 R458-R462, R466, R467): REGRD, REGWR, ATTEST, the five actions of GRPCTL, DPLINK, MEMWR and MEMRD. Each
runs while its request is under way, and answers with a result of Table 19-10. -/

namespace Sys2Proof.Machine

/-- What a command answers: result, response bytes and the state; none while it has to wait. -/
abbrev Answer := Option (Nat × List Byte × State)
/-- A command of an opcode with a number of parameter bytes (R458, R459). -/
def command (op len : Nat) (body : State → Answer) (s : State) : Option State :=
  if s.doorbell.isNone ∨ mboxOp s ≠ op then none
  else if mboxLen s ≠ len then some (finishCommand s 2 [])
  else match body s with
  | none => none
  | some (result, resp, t) => some (finishCommand t result resp)
/-- A result without a response. -/
def plain (result : Nat) (s : State) : Answer := some (result, [], s)

/-! ### REGRD and REGWR (R459) -/

/-- REGRD (R459). -/
def tryRegrd (s : State) : Option State :=
  command 1 8 (fun s =>
    let off := mboxParam s 63 0
    if !isPriv off || off % 8 != 0 then plain 2 s else some (0, toBytes (readReg s false off) 8, s)) s
/-- REGRD: it happens where its rule lets it; elsewhere nothing happens. -/
def execRegrd (s : State) : Host.Outcome State Fault Refusal := happens s (tryRegrd s)
/-- REGWR (R459): the piece under the mask, as a write of the partition manager. -/
def tryRegwr (s : State) : Option State :=
  command 2 24 (fun s =>
    let (off, v, m) := (mboxParam s 63 0, mboxParam s 127 64, mboxParam s 191 128)
    if !isPriv off || off % 8 != 0 then plain 2 s else
    match writeReg s off (Nat.lor (Nat.land (piece s off) (2 ^ 64 - 1 - m)) (Nat.land v m)) with
    | none => plain 3 s
    | some t => plain 0 t) s
/-- REGWR: it happens where its rule lets it; elsewhere nothing happens. -/
def execRegwr (s : State) : Host.Outcome State Fault Refusal := happens s (tryRegwr s)

/-! ### ATTEST (R467) -/

/-- The seed of the identity key pair (R467). -/
def identitySeed : List Byte := Keccak.shake256 Config.pufResponse
/-- The configuration that a report speaks of. -/
def attested (s : State) (p : Nat) : List Byte :=
  s.bar.bytes (pcfgOff p) 128 ++ s.bar.bytes (ctxOff p 0) 256 ++ s.bar.bytes (mownOff 0) 1024
/-- The body of Table 19-4. -/
def reportBody (s : State) (p : Nat) (nonce : List Byte) : List Byte :=
  toBytes (1 + 1520 * 2 ^ 16 + p * 2 ^ 32) 8 ++ nonce ++ Keccak.shake256 Config.firmware ++ Keccak.shake256 (attested s p) ++
    Keccak.shake256 (Config.falconPublic identitySeed) ++ toBytes s.cyc 8
/-- A signature in its padded form of 1,280 bytes (R466). -/
def signature (m : List Byte) : List Byte :=
  let x := Config.falconSign identitySeed m
  (List.range 1280).map fun i => x.getD i 0
/-- ATTEST (R467). -/
def tryAttest (s : State) : Option State :=
  command 0x10 33 (fun s =>
    let p := mboxParam s 263 256
    if 63 < p then plain 2 s else
    let body := reportBody s p (s.bar.bytes 0x44 32)
    some (0, body ++ signature body, s)) s
/-- ATTEST: it happens where its rule lets it; elsewhere nothing happens. -/
def execAttest (s : State) : Host.Outcome State Fault Refusal := happens s (tryAttest s)

/-! ### GRPCTL (R461) -/

/-- The card that a GRPCTL names: a launch of the partition that has not ended. -/
def namedCard (s : State) : Option (Nat × Launch) :=
  s.launches.find? fun e => e.2.part == mboxParam s 13 8 && e.2.cardVa == mboxParam s 191 128 && State.alive e.2
/-- The group or control core that it names. -/
def namedParty (s : State) (lid : Nat) : Option (Nat × Group) :=
  let (i, cl) := (mboxParam s 63 32, mboxParam s 71 64)
  s.groups.find? fun e => e.2.launch == lid && e.2.status != .ended &&
    (if i = 0xFFFFFFFF then e.2.kind == .stream && e.2.cluster == cl else e.2.kind == .lane && e.2.index == i && cl == 0)
/-- An action of GRPCTL on a card. -/
def grpctlCard (action : Nat) (body : State → Nat → Launch → Answer) (s : State) : Option State :=
  if mboxParam s 7 0 ≠ action then none else
  command 0x20 24 (fun s =>
    if mboxParam s 31 14 ≠ 0 ∨ mboxParam s 127 72 ≠ 0 then plain 2 s else
    match namedCard s with
    | none => plain 2 s
    | some (lid, l) => body s lid l) s
/-- An action of GRPCTL on a group or control core. -/
def grpctlParty (action : Nat) (body : State → Launch → Nat → Group → Answer) (s : State) : Option State :=
  grpctlCard action (fun s lid l =>
    match namedParty s lid with
    | none => plain 2 s
    | some (g, x) => body s l g x) s

/-- The response of LOCATE. -/
def slotAnswer (s : State) (p k : Nat) : Answer := some (0, toBytes k 8 ++ toBytes (s.slotVa p k) 8, s)
/-- LOCATE (R461): the slot of a saved party; a halted one is saved first. -/
def tryLocate (s : State) : Option State :=
  grpctlParty 1 (fun s l g x =>
    match x.slot with
    | some k => slotAnswer s l.part k
    | none =>
      -- a shading group is never saved (R388; log entry 121)
      if x.status ≠ .halted ∨ x.shade.isSome ∨ (s.freeSlot l.part).isNone then plain 3 s
      else if !inFlightDone s g x then none
      else match saveGroup s g with
      | none => none
      | some t => match (mget g t.groups).bind (·.slot) with
        | some k => slotAnswer t l.part k
        | none => plain 3 t) s
/-- LOCATE: it happens where its rule lets it; elsewhere nothing happens. -/
def execLocate (s : State) : Host.Outcome State Fault Refusal := happens s (tryLocate s)
/-- RESUME (R461): the return from a trap. -/
def tryGrpctlResume (s : State) : Option State :=
  grpctlParty 2 (fun s l g x =>
    if l.card.regime = 2 ∨ x.kind = .stream ∨ !x.trapped then plain 3 s else plain 0 (resumeGroup s g)) s
/-- GRPCTL_RESUME: it happens where its rule lets it; elsewhere nothing happens. -/
def execGrpctlResume (s : State) : Host.Outcome State Fault Refusal := happens s (tryGrpctlResume s)
/-- KILLGROUP (R461). -/
def tryKillgroup (s : State) : Option State :=
  grpctlParty 3 (fun s l g x =>
    if l.card.regime = 2 ∨ x.kind = .stream ∨ l.card.isStrip then plain 3 s else plain 0 (dropGroup s g)) s
/-- KILLGROUP: it happens where its rule lets it; elsewhere nothing happens. -/
def execKillgroup (s : State) : Host.Outcome State Fault Refusal := happens s (tryKillgroup s)
/-- KILLCARD (R359, R461). -/
def tryKillcard (s : State) : Option State :=
  grpctlCard 4 (fun s lid _ => plain 0 (s.killLaunch lid)) s
/-- KILLCARD: it happens where its rule lets it; elsewhere nothing happens. -/
def execKillcard (s : State) : Host.Outcome State Fault Refusal := happens s (tryKillcard s)
/-- PREEMPT (R461, R355): the request is taken for a group that stands on its cluster. -/
def tryPreempt (s : State) : Option State :=
  grpctlParty 5 (fun s l g x =>
    let stands := x.status == .resident || x.status == .suspended || x.status == .stopping
    if l.card.regime = 2 ∨ x.kind = .stream ∨ x.shade.isSome ∨ !stands then plain 3 s
    else plain 0 { s with preempts := if (mget g s.preempts).isSome then s.preempts else mset g l.fret s.preempts }) s
/-- PREEMPT: it happens where its rule lets it; elsewhere nothing happens. -/
def execPreempt (s : State) : Host.Outcome State Fault Refusal := happens s (tryPreempt s)

/-! ### DPLINK (R462) -/

/-- The parameters of Table 19-12 are in range. -/
def linkOk (s : State) (h : Nat) : Bool :=
  let lines := s.barBits (ringOff h) 303 288
  mboxParam s 7 2 == 0 && mboxParam s 15 10 == 0 && mboxParam s 127 98 == 0 && ringEn s h &&
    decide (mboxParam s 47 32 + ringWidth s h ≤ mboxParam s 31 16) && decide (mboxParam s 79 64 + ringAct s h ≤ lines) &&
    mboxParam s 63 48 != 0 && mboxParam s 95 80 != 0
/-- DPLINK (R462): the link is stopped, or trained and driven. What the sink answers to training is outside the module: a free value between
success and the four failures. -/
def tryDplink (s : State) : Option State :=
  command 0x30 16 (fun s =>
    let h := mboxParam s 1 0
    if !linkOk s h then plain 2 s else
    let stopped := { s with links := s.links.filter (· != h), trained := s.trained.filter (· != h) }
    let driven (s : State) : State := { s with links := if s.links.contains h then s.links else s.links ++ [h] }
    if mboxParam s 8 8 = 0 then some (0, toBytes 0 8, stopped)
    else if mboxParam s 9 9 = 0 then
      some (0, toBytes (if s.trained.contains h then 0x41 else 0) 8, (driven s).send "dplink" (h :: (s.bar.bytes 0x44 16).map BitVec.toNat))
    else
      let outcome := Config.freeValue s.free % 5
      let lanes := Config.freeValue (s.free + 1) % 4
      let stopped := { stopped with free := s.free + 2 }
      if outcome = 0 then
        some (0, toBytes 0x41 8, ({ driven stopped with trained := s.trained.filter (· != h) ++ [h] }).send "dplink" (h :: (s.bar.bytes 0x44 16).map BitVec.toNat))
      else some (5, toBytes (lanes * 2 ^ 4 + outcome * 2 ^ 8) 8, stopped)) s
/-- DPLINK: it happens where its rule lets it; elsewhere nothing happens. -/
def execDplink (s : State) : Host.Outcome State Fault Refusal := happens s (tryDplink s)

/-! ### MEMWR and MEMRD (R460) -/

/-- The first bytes of the pages that n bytes from a VA touch, within the bytes. -/
def touchedPages (va n : Nat) : List Nat :=
  (List.range ((va + n - 1) / 4096 + 1 - va / 4096)).map fun i => max va ((va / 4096 + i) * 4096)
/-- The first translation that fails, and whether one has to wait for a scrub. -/
def firstFault (s : State) (p c : Nat) (acc : Access) (vas : List Nat) : Option (Nat × Bool) × State :=
  vas.foldl (fun (st : Option (Nat × Bool) × State) va =>
    match st.1 with
    | some _ => st
    | none => match st.2.xlate p c (va % 2 ^ 52) acc with
      | (.pa _, s) => (none, s)
      | (.wait, s) => (some (va, true), s)
      | (_, s) => (some (va, false), s)) (none, s)
/-- The checks that MEMWR and MEMRD share: a result that ends the command, or none. -/
def memCheck (s : State) (most : Nat) : Option Nat :=
  let (a, p, c, n) := (mboxParam s 63 0, mboxParam s 69 64, mboxParam s 75 72, mboxParam s 90 80)
  let space := mboxParam s 70 70
  if mboxParam s 71 71 ≠ 0 ∨ mboxParam s 79 76 ≠ 0 ∨ mboxParam s 127 91 ≠ 0 ∨ n = 0 ∨ most < n ∨ (space = 0 ∧ 2 ^ 52 ≤ a) then some 2
  else if !s.partEn p || !s.barFlag (ctxOff p c) 0 then some 3
  else if space = 1 ∧ !s.inWindow p a n then some 2
  else none
/-- The move of MEMWR and MEMRD after its checks: `main` of a VA, `window` of an on-die address. -/
def memCommand (s : State) (acc : Access) (most : Nat) (main : State → Nat → Nat → Nat → Nat → Answer) (window : State → Nat → Nat → Nat → Answer) :
    Answer :=
  let (a, p, c, n) := (mboxParam s 63 0, mboxParam s 69 64, mboxParam s 75 72, mboxParam s 90 80)
  match memCheck s most with
  | some result => plain result s
  | none => if mboxParam s 70 70 = 1 then window s p a n else match firstFault s p c acc (touchedPages a n) with
  | (some (_, true), _) => none
  | (some (va, false), s) => some (4, toBytes va 8, s)
  | (none, s) => main s p c a n

/-- The scratchpad bytes that a command moves: it comes to their banks like any other access (R185, R186, R190). -/
def commandParts (s : State) (op len most : Nat) : List (Nat × Nat) :=
  if s.doorbell.isSome ∧ mboxOp s = op ∧ mboxLen s = len ∧ memCheck s most = none ∧ mboxParam s 70 70 = 1 then
    windowParts s (mboxParam s 69 64) (mboxParam s 63 0) (mboxParam s 90 80)
  else []
/-- MEMWR (R460). -/
def tryMemwr (s : State) : Option State :=
  engineAt s (commandParts s 0x40 (16 + mboxParam s 90 80) 1024) <| command 0x40 (16 + mboxParam s 90 80) (fun s =>
    memCommand s .write 1024
      (fun s p c a n => plain 0 (s.vwrite p c a (s.bar.bytes 0x54 n)).2)
      (fun s p a n => plain 0 (writeParts s (windowParts s p a n) (s.bar.bytes 0x54 n) 0 none)))
/-- MEMWR: it happens where its rule lets it; elsewhere nothing happens. -/
def execMemwr (s : State) : Host.Outcome State Fault Refusal := happens s (tryMemwr s)
/-- MEMRD (R460). -/
def tryMemrd (s : State) : Option State :=
  engineAt s (commandParts s 0x41 16 2048) <| command 0x41 16 (fun s =>
    memCommand s .read 2048
      (fun s p c a n => match s.vreadP p c a n with
        | (.inl (bs, _), s) => some (0, bs, s)
        | (.inr _, _) => none)
      (fun s p a n =>
        let (bs, _, s) := readParts s (windowParts s p a n) none
        some (0, bs, s)))
/-- MEMRD: it happens where its rule lets it; elsewhere nothing happens. -/
def execMemrd (s : State) : Host.Outcome State Fault Refusal := happens s (tryMemrd s)

end Sys2Proof.Machine
end

