-- ==== Sys2Proof/Machine/Matrix.lean ====
section
/-! DEFINITION. The matrix engine (10 R287-R311): operand ranges, the commands and their numbers, exact chunk sums rounded once,
MSYNC, and the waves' OWR and ORD. -/

namespace Sys2Proof.Machine

/-! ### Formats (R289-R291) -/

/-- Bytes of an element, elements of a row, and bytes of a panel of codes (Table 10-1). -/
def elemBytes (fmt : Nat) : Nat := match fmt with | 0 => 8 | 1 => 4 | 2 | 3 => 2 | _ => 1
def kOf (fmt : Nat) : Nat := match fmt with | 0 => 8 | 1 => 16 | 2 | 3 => 64 | _ => 128
def panelBytes (fmt : Nat) : Nat := match fmt with | 0 | 1 | 6 => 4096 | _ => 8192
def isInt (fmt : Nat) : Bool := fmt == 7 || fmt == 8
def fpOf (fmt : Nat) : Fp.Fmt := match fmt with
  | 0 => Fp.f64 | 1 => Fp.f32 | 2 => Fp.f16 | 3 => Fp.bf16 | 4 => Fp.e4m3 | _ => Fp.e5m2
/-- Pairings of Table 10-5. -/
def pairs (a b : Nat) : Bool :=
  (a == 0 && b == 0) || (a == 1 && b == 1) || ((a == 2 || a == 3) && (b == 2 || b == 3)) ||
    (decide (4 ≤ a ∧ a ≤ 6) && decide (4 ≤ b ∧ b ≤ 6)) || (isInt a && isInt b)
/-- XF27 (R291). -/
def xf27 : Fp.Fmt := ⟨8, 18, 127, true⟩
/-- The codebook of Table 10-2, in 1024ths. -/
def codebook (c : Nat) : Int :=
  ([-1024, -725, -555, -427, -318, -221, -130, -43, 43, 130, 221, 318, 427, 555, 725, 1024] : List Int).getD c 0
/-- A QN4 element expanded into XF27 (R291): its value and flags. -/
def qn4 (c scale super : Nat) : Fp.Val × FFlags :=
  let q := codebook c
  match Fp.f32.val super with
  | .nan sig => (.nan false, if sig then Fp.invalid else 0)
  | .inf n => if scale = 0 then (.nan false, Fp.invalid) else (.inf (n != decide (q < 0)), 0)
  | .num n m =>
    let neg := n != decide (q < 0)
    let v := mkRat q.natAbs 1024 * mkRat scale 255 * m
    if v = 0 then (.num neg 0, 0)
    else let r := Fp.round xf27 .nearest false .inf neg v; (xf27.val r.1, r.2)

/-- A list cut into parts of n. -/
def chunks {α : Type} (n : Nat) : Nat → List α → List (List α)
  | 0, _ => []
  | fuel + 1, xs => if xs = [] then [] else xs.take n :: chunks n fuel (xs.drop n)

/-- Reading bytes, each with the mark of its word's being uncorrectable. -/
def readMarked (s : State) (a n : Nat) (who : Option (Nat × Nat)) : List (Byte × Bool) × State :=
  let first := a / 8
  let (bs, s) := (List.range ((a + n + 7) / 8 - first)).foldl (fun (st : List (List (Byte × Bool)) × State) i =>
    let (x, h, s) := st.2.readWord ((first + i) * 8) who
    ((toBytes x 8).map (fun b => (b, h.isSome)) :: st.1, s)) ([], s)
  ((bs.reverse.flatten.drop (a % 8)).take n, s)

/-- A number of marked bytes. -/
def markedNat (bs : List (Byte × Bool)) : Nat × Bool := (ofBytes (bs.map (·.1)), bs.any (·.2))

/-- The elements of a panel as numbers, row by row (R289, R296). -/
def panelRaw (s : State) (cl : Nat) (r : Range) (p : Nat) (who : Option (Nat × Nat)) : List (List (Nat × Bool)) × State :=
  let (bs, s) := readMarked s (Base.operand cl + 4096 * r.gbase + p * panelBytes r.fmt) (panelBytes r.fmt) who
  let es := if r.fmt = 6 then bs.flatMap fun b => [(b.1.toNat % 16, b.2), (b.1.toNat / 16, b.2)]
    else (chunks (elemBytes r.fmt) 8192 bs).map markedNat
  (chunks (kOf r.fmt) 64 es, s)

/-- The rows of a panel as values (R290, R291), and the flags of the expansion. -/
def panelVals (s : State) (cl : Nat) (r : Range) (p : Nat) (who : Option (Nat × Nat)) : List (List (Fp.Val × Bool)) × FFlags × State :=
  let (raw, s) := panelRaw s cl r p who
  if r.fmt = 6 then
    let base := Base.operand cl + 4096 * r.gbase
    let (scales, s) := readMarked s (base + 64 * r.sb + 128 * p) 128 who
    let (sup, s) := readMarked s (base + 64 * r.ss + 4 * (p / 2)) 4 who
    let (sx, sbad) := markedNat sup
    let rows := raw.zip (chunks 2 64 scales) |>.map fun row =>
      row.1.zipIdx.map fun e =>
        let sc := row.2.getD (e.2 / 64) (0#8, false)
        let v := qn4 e.1.1 sc.1.toNat sx
        (v.1, e.1.2 || sc.2 || sbad, v.2)
    (rows.map fun row => row.map fun e => (e.1, e.2.1), orFlags ((rows.flatten).map (·.2.2)), s)
  else (raw.map fun row => row.map fun e => ((fpOf r.fmt).val e.1, e.2), 0, s)

/-- The 4,096 words of a tile (R288), each with its mark. -/
def tileWords (s : State) (cl t : Nat) (who : Option (Nat × Nat)) : List (Nat × Bool) × State :=
  let (bs, s) := readMarked s (Base.accum cl + 16384 * (t % 32)) 16384 who
  ((chunks 4 4096 bs).map markedNat, s)

/-- The down-conversion of an accumulator word read as FP32 (R298): BF16, FP16 or saturating E4M3, where every finite value beyond ±448 gives
±448 with overflow and inexact. -/
def drainFmt (conv : Nat) : Fp.Fmt := match conv with | 1 => Fp.bf16 | 2 => Fp.f16 | _ => Fp.e4m3
def drainConv (conv x : Nat) : Nat × FFlags :=
  match conv, Fp.f32.val x with
  | 3, .num n q => if 448 < q then (Fp.e4m3.sign n + Fp.e4m3.maxBits, Fp.overflow ||| Fp.inexact)
    else Fp.convert Fp.f32 (drainFmt conv) {} false .sat x
  | _, _ => Fp.convert Fp.f32 (drainFmt conv) {} false (if conv = 3 then .sat else .inf) x

/-- One output element of a float chunk (R296, R297): the words, and the flags. -/
def chunkFloat (wide : Bool) (c : Nat) (a b : List (Fp.Val × Bool)) : Nat × FFlags :=
  let f := if wide then Fp.f64 else Fp.f32
  Fp.sum f {} (.val (f.val c) :: List.zipWith (fun x y => Fp.mulTerm x.1 y.1) a b)
/-- One output element of an integer chunk (R296). -/
def chunkInt (fa fb c : Nat) (a b : List (Nat × Bool)) : Nat :=
  let v (f x : Nat) : Int := if f = 7 then sext x 8 else x
  wrapInt 32 ((c : Int) + (List.zipWith (fun x y => v fa x.1 * v fb y.1) a b).foldl (· + ·) 0)

/-- The 64 × 64 results of a chunk, in element order: value, poison, flags. -/
def outer {α : Type} (cs : List (Nat × Bool)) (rows cols : List (List (α × Bool))) (f : Nat → List (α × Bool) → List (α × Bool) → Nat × FFlags) :
    List (Nat × Bool × FFlags) :=
  let bad (r : List (α × Bool)) : Bool := r.any (·.2)
  let rb := rows.map fun r => (r, bad r)
  let cb := cols.map fun r => (r, bad r)
  (rb.zip (chunks 64 64 cs)).flatMap fun rc =>
    List.zipWith (fun col c =>
      let y := f c.1 rc.1.1 col.1
      (y.1, c.2 || rc.1.2 || col.2, y.2)) cb rc.2

/-- The result words of a tile: elements from 0, and of a pair's second tile from 4,096. -/
def tileResult (pair : Bool) (ys : List (Nat × Bool × FFlags)) : Map (Word × Bool) :=
  let lo := ys.zipIdx.map fun y => (y.2, (BitVec.ofNat 32 y.1.1, y.1.2.1))
  if pair then lo ++ ys.zipIdx.map fun y => (4096 + y.2, (BitVec.ofNat 32 (y.1.1 / 2 ^ 32), y.1.2.1)) else lo

/-- The old words of a tile or of an FP64 pair. -/
def oldTile (s : State) (cl t : Nat) (pair : Bool) (who : Option (Nat × Nat)) : List (Nat × Bool) × State :=
  let (lo, s) := tileWords s cl t who
  if pair then
    let (hi, s) := tileWords s cl (t + 1) who
    (List.zipWith (fun l h => (l.1 + h.1 * 2 ^ 32, l.2 || h.2)) lo hi, s)
  else (lo, s)

/-- What an MMA computes (R296, R297). -/
def runMma (s : State) (cl t : Nat) (a b : Range) (pa pb : Nat) (who : Option (Nat × Nat)) : Map (Word × Bool) × FFlags × State :=
  let wide := a.fmt == 0
  let (cs, s) := oldTile s cl t wide who
  if isInt a.fmt then
    let (ra, s) := panelRaw s cl a pa who
    let (rb, s) := panelRaw s cl b pb who
    (tileResult false (outer cs ra rb fun c x y => (chunkInt a.fmt b.fmt c x y, 0)), 0, s)
  else
    let (va, fa, s) := panelVals s cl a pa who
    let (vb, fb, s) := panelVals s cl b pb who
    let ys := outer cs va vb (chunkFloat wide)
    (tileResult wide ys, fa ||| fb ||| orFlags (ys.map (·.2.2)), s)
/-- What an MMAC computes (R298): its A panel is the source tile, converted. `conv` is the code of Table 10-7. -/
def runMmac (s : State) (cl t src conv : Nat) (b : Range) (pb : Nat) (who : Option (Nat × Nat)) : Map (Word × Bool) × FFlags × State :=
  let code := match conv with | 0 => 1 | 1 => 2 | _ => 3
  let (cs, s) := tileWords s cl t who
  let (x0, s) := tileWords s cl src who
  let (x1, s) := if conv = 2 then tileWords s cl (src + 1) who else ([], s)
  let conv1 (ws : List (Nat × Bool)) := ws.map fun w => (drainConv code w.1, w.2)
  let r0 := chunks 64 64 (conv1 x0)
  let r1 := if conv = 2 then chunks 64 64 (conv1 x1) else r0.map fun _ => []
  let rows := List.zipWith (· ++ ·) r0 r1
  let fa := orFlags (rows.flatten.map fun e => e.1.2)
  let va := rows.map fun r => r.map fun e => ((drainFmt code).val e.1.1, e.2)
  let (vb, fb, s) := panelVals s cl b pb who
  let ys := outer cs va vb (chunkFloat false)
  (tileResult false ys, fa ||| fb ||| orFlags (ys.map (·.2.2)), s)

/-! ### Ranges (R292, R293) -/

/-- Ranges that a command was issued with. -/
def MatOp.ranges : MatOp → List Range
  | .mma a b _ _ => [a, b]
  | .mmac _ _ b _ => [b]
  | _ => []
def overlaps (r q : Range) : Bool := decide (r.gbase < q.gbase + q.gcount) && decide (q.gbase < r.gbase + r.gcount)

/-- ORES (R292). -/
def execOres (k : BitVec 4) (a b : Reg) (s : State) : Host.Outcome State Fault Refusal :=
  s.issue { ins := .ores k a b, who := .core, uses := [r1 a, r1 b] } fun s c =>
    let x := (c.w.reg c.leader a.toNat).toNat
    let y := (c.w.reg c.leader b.toNat).toNat
    let r : Range := { gbase := bits x 7 0, gcount := bits x 16 8, fmt := bits x 20 17, sb := bits y 15 0, ss := bits y 31 16 }
    let cl := s.cluster c.grp.cluster
    if bits x 31 21 ≠ 0 ∨ 8 < r.fmt ∨ r.gcount = 0 ∨ 256 < r.gcount ∨ (y ≠ 0 ∧ r.fmt ≠ 6) then .trap (trapIllop (wordOf (.ores k a b)))
    else if 256 < r.gbase + r.gcount then .trap (trapBounds 0)
    else if (mget k.toNat cl.ranges).isSome ∨ cl.ranges.any fun e => overlaps r e.2 then .trap trapSync
    else if cl.cmds.any fun m => m.op.ranges.any (overlaps r) then
      if c.locked then .trap (trapTiming 0x0A) else .wait s { c.w with wait := .condition } 1
    else .done (s.setCluster c.grp.cluster { cl with ranges := mset k.toNat r cl.ranges }) c.next
/-- OREL (R293). -/
def execOrel (k : BitVec 4) (s : State) : Host.Outcome State Fault Refusal :=
  s.issue { ins := .orel k, who := .core } fun s c =>
    let cl := s.cluster c.grp.cluster
    if (mget k.toNat cl.ranges).isNone then .trap trapSync
    else .done (s.setCluster c.grp.cluster { cl with ranges := mdel k.toNat cl.ranges }) c.next

/-! ### Commands (R294-R305) -/

/-- Tiles that a command writes at its completion. -/
def MatCmd.targets (m : MatCmd) : List Nat :=
  match m.op with
  | .mma a _ _ _ => if a.fmt = 0 then [m.tile, m.tile + 1] else [m.tile]
  | .aload _ _ pr => if pr then [m.tile, m.tile + 1] else [m.tile]
  | .adrain _ _ _ _ => []
  | _ => [m.tile]
/-- Tiles that a command names (R301). -/
def MatCmd.tiles (m : MatCmd) : List Nat :=
  match m.op with
  | .mmac src conv _ _ => if conv = 2 then [m.tile, src, src + 1] else [m.tile, src]
  | .adrain _ _ _ pr => if pr then [m.tile, m.tile + 1] else [m.tile]
  | _ => m.targets
/-- Bytes of one row of an ALOAD or ADRAIN. -/
def rowBytes (conv : Nat) (pr : Bool) : Nat :=
  64 * (if pr then 8 else match conv with | 0 => 4 | 3 => 1 | _ => 2)
/-- Occupancy (Tables 10-5 and 10-10). -/
def MatOp.occupancy : MatOp → Nat
  | .mma a _ _ _ => if a.fmt = 0 then 64 else 32
  | .mmac _ _ _ _ => 32
  | .azero => 8
  | .adrain _ _ conv pr => 64 * max 1 (rowBytes conv pr / 128)
  | .aload _ _ pr => 64 * max 1 (rowBytes 0 pr / 128)
/-- Cycles from start to completion (Table 10-10). -/
def MatOp.latency (o : MatOp) : Nat :=
  o.occupancy + match o with | .mma _ _ _ _ | .mmac _ _ _ _ => 16 | .azero => 0 | .adrain _ _ _ _ => 40 | .aload _ _ _ => 96

/-- A command that passed its own checks is queued under the next number; locked, at its stamp (R278, R301, R302). -/
def queueCmd (op : MatOp) (tile : Nat) (names : List Nat) (s : State) (c : Ctx) : Res :=
  let cl := s.cluster c.grp.cluster
  let waiting := (cl.cmds.filter fun m => m.start.isNone).length
  let num := (cl.issued + 1) % 2 ^ 32
  let m : MatCmd := { num := num, tile := tile, op := op, names := names, pc := c.w.pc, group := c.g, stamp := none, start := none,
                      result := [], flags := 0 }
  if c.locked then
    match stampCheck s c waiting cl.matEnd with
    | .inl ti => .trap ti
    | .inr t => .done (s.setCluster c.grp.cluster
        { cl with cmds := cl.cmds ++ [{ m with stamp := some t }], issued := num, matEnd := t + op.occupancy }) c.next
  else if 16 ≤ waiting then .wait s { c.w with wait := .condition } 1
  else .done (s.setCluster c.grp.cluster { cl with cmds := cl.cmds ++ [m], issued := num }) c.next

/-- A panel lies inside its range (R290, R295). -/
def panelIn (r : Range) (p : Nat) : Bool :=
  let n := 4096 * r.gcount
  decide ((p + 1) * panelBytes r.fmt ≤ n) &&
    (r.fmt != 6 || (decide (64 * r.sb + 128 * (p + 1) ≤ n) && decide (64 * r.ss + 4 * (p / 2) + 4 ≤ n)))
/-- The range of a selector (Table 10-6). -/
def rangeSel (s : State) (c : Ctx) (x : Nat) : Option Range := mget (bits x 3 0) (s.cluster c.grp.cluster).ranges

/-- MMA (R295). -/
def execMma (t : BitVec 5) (a b : Reg) (s : State) : Host.Outcome State Fault Refusal :=
  s.issue { ins := .mma t a b, who := .core, uses := [r1 a, r1 b] } fun s c =>
    let x := (c.w.reg c.leader a.toNat).toNat
    let y := (c.w.reg c.leader b.toNat).toNat
    let ill : Res := .trap (trapIllop (wordOf (.mma t a b)))
    if bits x 31 20 ≠ 0 ∨ bits y 31 20 ≠ 0 then ill
    else match rangeSel s c x, rangeSel s c y with
    | some ra, some rb =>
      if !pairs ra.fmt rb.fmt ∨ (ra.fmt = 0 ∧ t.toNat % 2 = 1) then ill
      else if !panelIn ra (bits x 19 4) ∨ !panelIn rb (bits y 19 4) then .trap (trapBounds 0)
      else queueCmd (.mma ra rb (bits x 19 4) (bits y 19 4)) t.toNat [bits x 3 0, bits y 3 0] s c
    | _, _ => .trap (trapBounds 0)
/-- MMAC (R295, R298). -/
def execMmac (t : BitVec 5) (a b : Reg) (s : State) : Host.Outcome State Fault Refusal :=
  s.issue { ins := .mmac t a b, who := .core, uses := [r1 a, r1 b] } fun s c =>
    let x := (c.w.reg c.leader a.toNat).toNat
    let y := (c.w.reg c.leader b.toNat).toNat
    let ill : Res := .trap (trapIllop (wordOf (.mmac t a b)))
    let conv := bits x 6 5
    let fa := match conv with | 0 => 3 | 1 => 2 | _ => 4
    if bits x 31 7 ≠ 0 ∨ bits y 31 20 ≠ 0 ∨ conv = 3 ∨ (conv = 2 ∧ bits x 4 0 % 2 = 1) then ill
    else match rangeSel s c y with
    | some rb =>
      if !pairs fa rb.fmt then ill
      else if !panelIn rb (bits y 19 4) then .trap (trapBounds 0)
      else queueCmd (.mmac (bits x 4 0) conv rb (bits y 19 4)) t.toNat [bits y 3 0] s c
    | none => .trap (trapBounds 0)
/-- AZERO (R299). -/
def execAzero (t : BitVec 5) (s : State) : Host.Outcome State Fault Refusal :=
  s.issue { ins := .azero t, who := .core } (queueCmd .azero t.toNat [])
/-- The checks of ALOAD and ADRAIN (R300), and the command. -/
def tileBody (i : Instr) (drain : Bool) (t : BitVec 5) (a b : Reg) (s : State) (c : Ctx) : Res :=
  let x := (c.w.reg c.leader a.toNat).toNat
  let y := (c.w.reg c.leader b.toNat).toNat
  let pitch := bits y 15 0
  let conv := bits y 18 16
  let pr := bit y 19
  let n := rowBytes conv pr
  if bits y 31 20 ≠ 0 ∨ (pr ∧ t.toNat % 2 = 1) ∨ (pr ∧ conv ≠ 0) ∨ 3 < conv ∨ (!drain ∧ conv ≠ 0) ∨ pitch < n then
    .trap (trapIllop (wordOf i))
  else if x % 128 ≠ 0 ∨ pitch % 128 ≠ 0 then .trap (trapAlign x)
  else match ((List.range 64).map fun i => x + i * pitch).find? fun r => !s.inWindow c.part r n with
  | some r => .trap (trapBounds r)
  | none => queueCmd (if drain then .adrain x pitch conv pr else .aload x pitch pr) t.toNat [] s c
/-- ADRAIN (R300). -/
def execAdrain (t : BitVec 5) (a b : Reg) (s : State) : Host.Outcome State Fault Refusal :=
  s.issue { ins := .adrain t a b, who := .core, uses := [r1 a, r1 b] } (tileBody (.adrain t a b) true t a b)
/-- ALOAD (R300). -/
def execAload (t : BitVec 5) (a b : Reg) (s : State) : Host.Outcome State Fault Refusal :=
  s.issue { ins := .aload t a b, who := .core, uses := [r1 a, r1 b] } (tileBody (.aload t a b) false t a b)

/-- done of R302: the command before the oldest that is not complete. -/
def matDone (cl : Cluster) : Nat := match cl.cmds with | [] => cl.issued | m :: _ => (m.num + 2 ^ 32 - 1) % 2 ^ 32
/-- MSYNC (R303). -/
def execMsync (b : Reg) (s : State) : Host.Outcome State Fault Refusal :=
  s.issue { ins := .msync b, who := .core, uses := [r1 b] } fun s c =>
    let n := (c.w.reg c.leader b.toNat).toNat
    let cl := s.cluster c.grp.cluster
    if !covered (matDone cl) n then
      if c.locked then .trap (trapTiming 0x0E) else .wait s { c.w with wait := .condition } 1
    else
      let fs := cl.matFlags.filter fun e => covered n e.1
      let e := landing s c 1 32 1#32 (.regs []) (if fs = [] then [] else [(0, orFlags (fs.map (·.2)))])
      .done ((s.acquired c).fresh.setCluster c.grp.cluster { cl with matFlags := cl.matFlags.filter fun e => !covered n e.1 }) (c.next.push e)

/-! ### Start and completion (R301, R304, R305, R310) -/

/-- The party of a matrix command's scratchpad pieces (R215). -/
def matWave (num : Nat) : Nat := 1024 + num
/-- Requests for the pieces of an ALOAD or ADRAIN: 8 bytes each, piece n of 128 bytes at t + 10 + n + dx + dy when locked (R305). -/
def pieceReqs (s : State) (c : Ctx) (m : MatCmd) (addr pitch n : Nat) (kind : Nat → Nat → ReqKind) : State :=
  let per := max 1 (n / 128)
  (List.range 64).foldl (fun s i => (List.range (n / 8)).foldl (fun (s : State) w =>
    let va := addr + i * pitch + 8 * w
    let a := s.windowAddr c.part va
    let at_ := s.cyc + 10 + (i * per + w / 16) + s.dist c.part c.grp.cluster ((a - Base.slice 0) / 2 ^ 21)
    let r : Req := { id := s.seq, group := c.g, wave := matWave m.num, land := none, targets := [], step := 0, epoch := 0, slot := i,
                     local_ := false, addr := a, onDie := va, width := 8, kind := kind i w, arrive := at_, due := if c.locked then some at_ else none, pc := m.pc }
    { s with seq := s.seq + 1, reqs := s.reqs ++ [r] }) s) s

/-- The words that an ADRAIN writes, row by row: 8-byte numbers with their poison. -/
def drainWords (s : State) (cl : Nat) (m : MatCmd) (conv : Nat) (pr : Bool) (who : Option (Nat × Nat)) :
    List (List (Nat × Bool)) × FFlags × State :=
  let (ws, s) := oldTile s cl m.tile pr who
  let ys := ws.map fun w => if conv = 0 then (w, (0 : FFlags)) else let r := drainConv conv w.1; ((r.1, w.2), r.2)
  let size := if pr then 8 else if conv = 0 then 4 else if conv = 3 then 1 else 2
  let join (es : List (Nat × Bool)) : Nat × Bool := (es.foldr (fun e x => e.1 + 2 ^ (8 * size) * x) 0, es.any (·.2))
  ((chunks 64 64 (ys.map (·.1))).map fun row => (chunks (8 / size) 64 row).map join, orFlags (ys.map (·.2)), s)

/-- A command starts: what it reads is read, and what it computes is kept for its completion (R301, R304). -/
def startCmd (s : State) (cl : Nat) (c : Ctx) (m : MatCmd) : State :=
  let put (s : State) (f : MatCmd → MatCmd) : State :=
    let x := s.cluster cl
    s.setCluster cl { x with cmds := x.cmds.map fun q => if q.num = m.num then f { q with start := some s.cyc } else q }
  match m.op with
  | .mma a b pa pb => let (r, f, s) := runMma s cl m.tile a b pa pb c.who; put s fun q => { q with result := r, flags := f }
  | .mmac src conv b pb => let (r, f, s) := runMmac s cl m.tile src conv b pb c.who; put s fun q => { q with result := r, flags := f }
  | .azero => put s fun q => { q with result := (List.range 4096).map fun e => (e, (0#32, false)) }
  | .adrain addr pitch conv pr =>
    let (rows, f, s) := drainWords s cl m conv pr c.who
    let s := put s fun q => { q with flags := f }
    pieceReqs s c m addr pitch (rowBytes conv pr) fun i w =>
      let x := (rows.getD i []).getD w (0, false)
      .tileWrite x.1 x.2
  | .aload addr pitch pr =>
    let s := put s id
    pieceReqs s c m addr pitch (rowBytes 0 pr) fun i w =>
      if pr then .tileRead cl m.num (64 * i + w) (4096 + 64 * i + w) else .tileRead cl m.num (64 * i + 2 * w) (64 * i + 2 * w + 1)

/-- No tile that the command names is the target of an incomplete command ahead of it (R301). -/
def tilesFree (cl : Cluster) (m : MatCmd) : Bool :=
  cl.cmds.all fun q => q.start.isNone || q.num == m.num || !(q.targets.any m.tiles.contains)
/-- The core whose stream issued a command. -/
def cmdCtx (s : State) (m : MatCmd) : Option Ctx := s.ctxOf m.group 0

/-- MATRIX_COMMAND_START (R301): the oldest waiting command of an elastic or ordered card. -/
def tryMatrixCommandStart (cluster : Nat) (s : State) : Option State :=
  let cl := s.cluster cluster
  match cl.cmds.find? fun m => m.start.isNone with
  | none => none
  | some m =>
    match cmdCtx s m with
    | none => none
    | some c =>
      let t := startCmd (s.setCluster cluster { cl with matEnd := s.cyc + m.op.occupancy }) cluster c m
      event (m.stamp.isNone && decide (cl.matEnd ≤ s.cyc) && tilesFree cl m) t
/-- MATRIX_COMMAND_START: it happens where its rule lets it; elsewhere nothing happens. -/
def execMatrixCommandStart (cluster : Nat) (s : State) : Host.Outcome State Fault Refusal := happens s (tryMatrixCommandStart cluster s)

/-- STAMPED_COMMAND_START (R281, R305): the command of a locked card starts at its stamp, when all is ready; else TIMING. -/
def tryStampedCommandStart (cluster num : Nat) (s : State) : Option State :=
  let cl := s.cluster cluster
  match cl.cmds.find? fun m => m.num == num && m.start.isNone with
  | none => none
  | some m =>
    match cmdCtx s m, m.stamp with
    | some c, some t =>
      let same := (m.names.zip m.op.ranges).all fun e => mget e.1 cl.ranges == some e.2
      let drop := s.setCluster cluster { cl with cmds := cl.cmds.filter fun q => q.num != num }
      -- none starts at the cycle of the halt or later (R284)
      let halted := match c.l.haltAt with | some h => decide (h ≤ s.cyc) | none => false
      if s.scyPast c.l t && c.l.status == .running && !halted then
        some (if same && tilesFree cl m then startCmd s cluster c m else engineTrap drop (some c) m.pc 0x0A)
      else none
    | _, _ => none
/-- STAMPED_COMMAND_START: it happens where its rule lets it; elsewhere nothing happens. -/
def execStampedCommandStart (cluster num : Nat) (s : State) : Host.Outcome State Fault Refusal := happens s (tryStampedCommandStart cluster num s)

/-- Writing a completed command's words into its tile or pair (R301), with poison where it stands (R310). An element whose piece was not
performed (R188) keeps its word. -/
def writeTile (s : State) (cl : Nat) (m : MatCmd) (who : Option (Nat × Nat)) : State :=
  let half (s : State) (lo : Nat) (t : Nat) : State :=
    let ws := (m.result.filter fun e => decide (lo ≤ e.1 ∧ e.1 < lo + 4096))
    if ws = [] then s else
    let base := Base.accum cl + 16384 * (t % 32)
    let s := if ws.length = 4096 then s.writeMem base (ws.flatMap fun e => toBytes e.2.1.toNat 4) who
      else ws.foldl (fun (s : State) e => s.writeMem (base + 4 * (e.1 - lo)) (toBytes e.2.1.toNat 4) who) s
    (ws.filter fun e => e.2.2).foldl (fun (s : State) e => s.poisonWord ((base + 4 * (e.1 - lo)) / 8 * 8) []) s
  half (half s 0 m.tile) 4096 (m.tile + 1)

/-- The CYC, or in a locked launch the SCY, at which a started command completes has come (Table 10-10). -/
def cmdDue (s : State) (c : Ctx) (m : MatCmd) : Bool :=
  match m.stamp, m.start with
  | some t, some _ => s.scyPast c.l (t + m.op.latency)
  | none, some t => decide (t + m.op.latency ≤ s.cyc)
  | _, none => false
/-- MATRIX_COMMAND_COMPLETION (R301-R303). -/
def tryMatrixCommandCompletion (cluster num : Nat) (s : State) : Option State :=
  let cl := s.cluster cluster
  match cl.cmds.find? fun m => m.num == num with
  | none => none
  | some m =>
    match cmdCtx s m with
    | none => none
    | some c =>
      let pieces := s.reqs.any fun r => r.group == m.group && r.wave == matWave num
      let t := s.setCluster cluster { cl with
        cmds := cl.cmds.filter fun q => q.num != num
        matFlags := if m.flags = 0 then cl.matFlags else mset num m.flags cl.matFlags }
      event (cmdDue s c m && !pieces) (writeTile t cluster m c.who)
/-- MATRIX_COMMAND_COMPLETION: it happens where its rule lets it; elsewhere nothing happens. -/
def execMatrixCommandCompletion (cluster num : Nat) (s : State) : Host.Outcome State Fault Refusal := happens s (tryMatrixCommandCompletion cluster num s)

/-! ### OWR and ORD (R306-R309) -/

/-- Two distinct words of one step in one bank (R308). -/
def tileDegree (ws : List (Nat × Nat × Nat)) : Bool :=
  ws.any fun x => ws.any fun y => x.1 / 4 == y.1 / 4 && x.2.1 == y.2.1 && x.2.2 != y.2.2

/-- OWR (R306). -/
def execOwr (k : BitVec 4) (a b : Reg) (s : State) : Host.Outcome State Fault Refusal :=
  s.issue { ins := .owr k a b, who := .wave, uses := [r1 a, r1 b] } fun s c =>
    let r := mget k.toNat (s.cluster c.grp.cluster).ranges
    let off (t : Nat) : Nat := (c.w.reg t b.toNat).toNat
    if !holdsClaim s c then .trap trapSync
    else match State.firstTrap c.active fun t =>
        if off t % 4 ≠ 0 then some (trapAlign (off t))
        else match r with
          | some x => if 4096 * x.gcount < off t + 4 then some (trapBounds (off t)) else none
          | none => some (trapBounds (off t)) with
    | some ti => .trap ti
    | none =>
      let base := Base.operand c.grp.cluster + 4096 * ((r.map (·.gbase)).getD 0)
      let word (t : Nat) : Nat := 4096 * ((r.map (·.gbase)).getD 0) + off t
      if c.locked ∧ tileDegree (c.active.map fun t => (t, word t / 4 % 32, word t / 4)) then .trap (trapTiming 3 c.slice)
      else
        let accs := c.active.map fun t => (t, off t, Place.group (base + off t), if c.isHelper t then 0 else (c.w.reg t a.toNat).toNat)
        let (s, w) := s.issueStore c c.next accs 4 false
        .done s w
/-- ORD (R307). -/
def execOrd (d a b : Reg) (s : State) : Host.Outcome State Fault Refusal :=
  s.issue { ins := .ord d a b, who := .wave, uses := [w1 d, r1 a, r1 b] } fun s c =>
    let tile (t : Nat) : Nat := (c.w.reg t a.toNat).toNat
    let elem (t : Nat) : Nat := (c.w.reg t b.toNat).toNat
    if !holdsClaim s c then .trap trapSync
    else match State.firstTrap c.active fun t => if 31 < tile t ∨ 4095 < elem t then some (trapBounds (elem t)) else none with
    | some ti => .trap ti
    | none =>
      if c.locked ∧ tileDegree (c.active.map fun t => (t, elem t % 32, tile t * 4096 + elem t)) then .trap (trapTiming 3 c.slice)
      else
        let accs := c.active.map fun t =>
          { t := t, onDie := 0, place := Place.group (Base.accum c.grp.cluster + 16384 * tile t + 4 * elem t), targets := [t] : State.LoadAcc }
        let (s, w) := s.issueLoad c accs 4 d.toNat 4 false
        .done s { w with pc := w.pc + 4 }

end Sys2Proof.Machine
end

