-- ==== Sys2Proof/Machine/Service.lean ====
section
/-! DEFINITION. The timebase master's checkpoints, their traffic and recovery (19 R468-R470), the power manager (R471, R472), and bring-up
(R475, with R466, R239, R245 and R26). -/

namespace Sys2Proof.Machine

/-! ### Checkpoints (R468, R469) -/

/-- CHECKPOINT_ANNOUNCE (R468): the master announces a checkpoint. Its length and what its lead has above 4,096 cycles are the master's choice:
free values. -/
def tryCheckpointAnnounce (s : State) : Option State :=
  let m := 1 + Config.freeValue s.free % 4096
  let start := s.cyc + 4096 + Config.freeValue (s.free + 1)
  let t := announceCheckpoint { s with free := s.free + 2 } start m
  event (isMaster s && s.ckpt.isNone) (if 1 < s.domSize then t.send "domain" [5, m, start] else t)
/-- CHECKPOINT_ANNOUNCE: it happens where its rule lets it; elsewhere nothing happens. -/
def execCheckpointAnnounce (s : State) : Host.Outcome State Fault Refusal := happens s (tryCheckpointAnnounce s)

/-- The slices' bytes of a range of the window: the parts of each slice. -/
def windowRanges (s : State) (p base len : Nat) : List (Nat × Nat) :=
  (List.range ((base + len - 0x40000000 + 2 ^ 21 - 1) / 2 ^ 21 - (base - 0x40000000) / 2 ^ 21)).map fun i =>
    let from_ := if i = 0 then base else 0x40000000 + ((base - 0x40000000) / 2 ^ 21 + i) * 2 ^ 21
    let to_ := min (base + len) (0x40000000 + ((base - 0x40000000) / 2 ^ 21 + i + 1) * 2 ^ 21)
    (s.windowAddr p from_, to_ - from_)
/-- The physical ranges of the pages of a footprint of main memory. -/
def pageRanges (s : State) (p c base len : Nat) : List (Nat × Nat) :=
  (touchedPages base len).filterMap fun va =>
    match (s.xlate p c (va % 2 ^ 52) .write).1 with
    | .pa a => some (Base.lpddr + a, min (base + len) ((va / 4096 + 1) * 4096) - va)
    | _ => none
/-- The ranges that a checkpoint of a launch copies: the stores of its clusters, and its footprints. -/
def imageRanges (s : State) (l : Launch) : List (Nat × Nat) :=
  ((s.cardClusters l.part l.card).flatMap fun c =>
    [(Base.local_ c, 2 ^ 20), (Base.operand c, 2 ^ 20), (Base.accum c, 2 ^ 19), (Base.table c, 2 ^ 17), (Base.stream c, 2 ^ 14)]) ++
  l.card.used.flatMap fun f =>
    if f.space = 1 then windowRanges s l.part f.base f.len
    else if f.writes then pageRanges s l.part l.ctx f.base f.len else []
def inRanges (rs : List (Nat × Nat)) (a : Nat) : Bool := rs.any fun r => decide (r.1 ≤ a) && decide (a < r.1 + r.2)
/-- What the checkpoint of a launch holds (R468). -/
def imageOfLaunch (s : State) (lid : Nat) (l : Launch) : CkptImage :=
  let rs := imageRanges s l
  { launch := l, scy := s.scy l, groups := s.groups.filter fun e => e.2.launch == lid
    clusters := s.clusters.filter fun e => e.2.claim == some lid || e.2.store.holder == some lid
    windows := s.windows.filter fun w => w.launch == lid, ranges := rs, cells := s.mem.filter fun c => inRanges rs c.1 }
/-- The running locked launches. -/
def lockedLaunches (s : State) : List (Nat × Launch) := s.launches.filter fun e => e.2.card.regime == 2 && e.2.status == .running
/-- Nothing that a launch has issued is still under way at a bank. -/
def banksQuiet (s : State) (lid : Nat) : Bool :=
  let own (g : Nat) : Bool := ((mget g s.groups).map fun (x : Group) => x.launch) == some lid
  (s.reqs.all fun r => !own r.group) && s.rels.all fun r => !own r.group
/-- Bytes at a place of a checkpoint slot, with the mask of their poison. -/
abbrev SlotPiece := Nat × List Byte × Nat
/-- Ranges of memory one after another from a place on, each at a multiple of 4 KiB. -/
def rangePieces (s : State) (who : Option (Nat × Nat)) : Nat → List (Nat × Nat) → List SlotPiece × State
  | _, [] => ([], s)
  | at_, (a, n) :: rest =>
    let pa := a - Base.lpddr
    let (bs, p, s) := if Base.lpddr ≤ a ∧ pa < 2 ^ 40 then (s.mainRead ((who.map (·.1)).getD 0) pa n, s.mainPoison pa n, s) else readParts s [(a, n)] who
    let (ps, s) := rangePieces s who (at_ + ceilTo 4096 n) rest
    ((at_, bs, p) :: ps, s)
/-- What a checkpoint copies of a launch (R468), from a place of the slot on: a record of the launch, its handoff counters, its receive windows and
its binding table, every group and control core in the form of Table 03-7, then its stores and footprints (log entry 125). -/
def launchPieces (s : State) (at_ : Nat) (lid : Nat) (l : Launch) : List SlotPiece × State :=
  let k := imageOfLaunch s lid l
  let head := record 64 [(0, l.cardVa), (64, l.tag), (128, k.scy), (192, k.groups.length), (224, k.ranges.length), (256, l.gbarPhase)]
  let counters := k.clusters.zipIdx.map fun e => (at_ + 0x1000 + 64 * e.2, (List.range 16).flatMap fun i => toBytes (dget 0#32 i e.1.2.h).toNat 4, 0)
  let windows := k.windows.zipIdx.map fun e => (at_ + 0x10000 + 64 * e.2,
    record 64 [(0, e.1.port), (32, e.1.base), (64, e.1.len), (96, e.1.src), (128, e.1.any_.toNat), (192, e.1.from_), (256, e.1.close.getD 0)], 0)
  let table := l.bindings.zipIdx.map fun e => (at_ + 0x20000 + 64 * e.2, record 64 [(0, e.1.peg), (64, e.1.base), (128, e.1.len)], 0)
  let (groups, s) := k.groups.zipIdx.foldl (fun (st : List SlotPiece × State) e =>
    let (ps, s) := imageOf st.2 l e.1.1 e.1.2 st.2.free
    (st.1 ++ ps.map fun q => (at_ + 2 ^ 22 * (e.2 + 1) + q.1, q.2.1, q.2.2), { s with free := s.free + 1 })) ([], s)
  let (ranges, s) := rangePieces s (some (l.part, l.ctx)) (at_ + 2 ^ 22 * (k.groups.length + 1)) k.ranges
  ((at_, head, 0) :: counters ++ windows ++ table ++ groups ++ ranges, s)
/-- The pieces of several launches, one after another. -/
def slotPieces : Nat → List (Nat × Launch) → State → List SlotPiece × State
  | _, [], s => ([], s)
  | at_, e :: rest, s =>
    let (ps, s) := launchPieces s at_ e.1 e.2
    let top := ps.foldl (fun m q => max m (q.1 + q.2.1.length)) at_
    let (qs, s) := slotPieces (ceilTo (2 ^ 22) top) rest s
    (ps ++ qs, s)
/-- The 64-byte lines of pieces of a slot; a line of zeros is not listed. -/
def slotLines (ps : List SlotPiece) : List SlotPiece :=
  let m : Mem := ps.foldl (fun m q => m.setBytes q.1 q.2.1) []
  let bad := ps.flatMap fun q => if q.2.2 = 0 then [] else ((List.range q.2.1.length).filter fun i => bit q.2.2 i).map (q.1 + ·)
  ((m.map (fun (c : Host.Cell) => c.1 / 64) ++ bad.map (· / 64)).eraseDups).map fun k =>
    (64 * k, m.bytes (64 * k) 64, ((List.range 64).filter fun i => bad.contains (64 * k + i)).foldl (fun x i => x + 2 ^ i) 0)
/-- The next line of the copy leaves in a cycle that a best-effort flit may use (R469). -/
def sendNextLine (s : State) : Option State :=
  match s.ckptOut with
  | some (q :: rest) =>
    ((List.range 64).find? fun p => s.barFlag capsOff (32 + p) && portFree s p).map fun p =>
      let base := s.barBits buddyOff 51 12 * 2 ^ 12 + 2 ^ 34 * s.ckptSlot.toNat
      { sendLine s (s.barBits buddyOff 7 0) (base + q.1) q.2.1 q.2.2 with
        ckptOut := some rest, ckptDone := rest == []
        portUsed := mset p ((dget (0, 0) p s.portUsed).1, s.cyc + if s.halfRate then 2 else 1) s.portUsed }
  | _ => none
/-- The copy begins: what it holds is taken while SCY and the banks stand. A package of no domain has no buddy. -/
def beginCopy (s : State) : State :=
  let ls := lockedLaunches s
  let (ps, t) := slotPieces 0 ls s
  let lines := if s.domSize ≤ 1 then [] else slotLines ps
  { t with ckptNew := ls.map fun e => imageOfLaunch s e.1 e.2, ckptOut := some lines, ckptDone := lines == [] }
/-- CHECKPOINT (R468, R469): within the checkpoint, this package copies its running locked launches to its buddy, line by line. -/
def tryCheckpoint (s : State) : Option State :=
  match s.ckpt with
  | none => none
  | some (f, n, void) =>
    let ls := lockedLaunches s
    let stands := match s.hold with | some (a, m) => decide (a ≤ s.cyc) && decide (s.cyc < a + m) | none => false
    if !(!void && !s.ckptDone && stands && decide (f ≤ s.cyc) && decide (s.cyc < f + n)) then none
    else match s.ckptOut with
      | none => event (ls.all fun e => banksQuiet s e.1) (beginCopy s)
      | some _ => sendNextLine s
/-- CHECKPOINT: it happens where its rule lets it; elsewhere nothing happens. -/
def execCheckpoint (s : State) : Host.Outcome State Fault Refusal := happens s (tryCheckpoint s)
/-- CHECKPOINT_END (R468): the checkpoint is valid if every package has finished; else the one before it stands. -/
def tryCheckpointEnd (s : State) : Option State :=
  match s.ckpt with
  | none => none
  | some (f, n, void) =>
    let valid := s.ckptDone && !void
    let t := { s with ckpt := none, ckptDone := false, ckptNew := [], ckptOut := none, ckptValid := if valid then s.ckptNew else s.ckptValid
                      ckptSlot := s.ckptSlot != valid }
    event (decide (f + n ≤ s.cyc)) (if s.ckptDone ∨ s.domSize ≤ 1 then t else t.send "domain" [7, ownPos s])
/-- CHECKPOINT_END: it happens where its rule lets it; elsewhere nothing happens. -/
def execCheckpointEnd (s : State) : Host.Outcome State Fault Refusal := happens s (tryCheckpointEnd s)

/-- The number of the checkpoint key of the module (R469): no partition's. -/
def ckptKey : Nat := 2 ^ 40
/-- CHECKPOINT_FLIT (R469): a line of the package that CKIN names, into the two slots there; any other is dropped with reason 3. -/
def tryCheckpointFlit (f : Flit) (s : State) : Option State :=
  let base := s.barBits ckinOff 51 12 * 2 ^ 12
  let ok := s.barFlag ckinOff 63 && f.src == s.barBits ckinOff 7 0 && decide (base ≤ f.addr) && decide (f.addr + 64 ≤ base + 2 ^ 35)
  let t := if ok then { s with mem := s.mem.setBytes (Base.lpddr + f.addr) f.data, lineKey := mset (f.addr / 64) ckptKey s.lineKey }
    else dropFlit s f none 3
  event (f.kind % 4 == 2 && f.data.length == 64 && f.addr % 64 == 0) (endFlit t f)
/-- CHECKPOINT_FLIT: it happens where its rule lets it; elsewhere nothing happens. -/
def execCheckpointFlit (f : Flit) (s : State) : Host.Outcome State Fault Refusal := happens s (tryCheckpointFlit f s)

/-! ### Loss and recovery (R470) -/

/-- HEARTBEAT_MISS (R470): the third heartbeat in a row that a package misses is its loss: the launches of the domain halt, and a checkpoint under
way is void. -/
def tryHeartbeatMiss (pkg : Nat) (s : State) : Option State :=
  let n := dget 0 pkg s.missed + 1
  let t := { s with missed := dset 0 pkg n s.missed }
  event (decide (pkg < s.domSize) && pkg != ownPos s) (if n = 3 then packageLost t pkg else t)
/-- HEARTBEAT_MISS: it happens where its rule lets it; elsewhere nothing happens. -/
def execHeartbeatMiss (pkg : Nat) (s : State) : Host.Outcome State Fault Refusal := happens s (tryHeartbeatMiss pkg s)

/-- A restored launch (R470): the checkpoint's, with a start cycle that the partition manager chooses. -/
def restoreLaunch (s : State) (k : CkptImage) : State :=
  let id := mfresh s.launches
  let start := ceilTo 64 (s.cyc + 4096 + Config.freeValue s.free)
  let (pgt, s) := s.readPgt k.launch.part k.launch.ctx k.launch.card.pgt
  let own := s.barBits tbcfgOff 31 16
  let l := { k.launch with status := .dispatched, start := some start, scy0 := k.scy, stopped := 0, hwq := none, haltAt := none, closeAt := none
                           recorded := false, tune := none, tunes := [], reports := [], corr := 0, corrNext := [], tuned := 0, root := id }
  let l := match pgt with
    | some (some (_, es)) => { l with pgt := es, rank := es.findIdx (fun (x : PgtEntry) => x.pkg == own), ranks := es.length }
    | _ => l
  let g0 := mfresh s.groups
  -- the latches of RDS 6 and 8 are empty after a restore (R28)
  let gs := k.groups.zipIdx.map fun e =>
    (g0 + e.2, { e.1.2 with launch := id, waves := e.1.2.waves.map fun w => { w with cycHigh := none, scyHigh := none } })
  let newId (g : Nat) : Nat := g0 + k.groups.findIdx fun (e : Nat × Group) => e.1 == g
  let l : Launch := { l with bindings := l.bindings.map fun (b : PegBinding) => { b with owner := b.owner.map fun (o : Nat × Nat) => (newId o.1, o.2) } }
  let clear := s.mem.filter fun c => !inRanges k.ranges c.1
  let s := { s with
    free := s.free + 1, launches := mset id l s.launches
    groups := gs.foldl (fun m e => mset e.1 e.2 m) s.groups
    windows := s.windows ++ k.windows.map fun (w : Window) => { w with launch := id }
    mem := k.cells.foldl (fun m c => m.setByte c.1 c.2) clear
    eccBad := s.eccBad.filter fun e => !inRanges k.ranges (8 * e.1)
    injected := s.injected.filter fun e => !inRanges k.ranges (8 * e.1)
    writebacks := s.writebacks.filter fun e => !inRanges k.ranges e.1 }
  k.clusters.foldl (fun (s : State) e =>
    s.setCluster e.1 { e.2 with claim := e.2.claim.map fun _ => id, store := { e.2.store with holder := e.2.store.holder.map fun _ => id } }) s
/-- The outcome for one halted launch: it is killed, and its checkpoint is restored, or the job is killed with a record. Whether a spare exists and
whether the buddy of the failed package is lost too is known outside the module: a free value. -/
def recoverLaunch (s : State) (failed lid : Nat) : State :=
  match mget lid s.launches with
  | none => s
  | some l =>
    let t := s.killLaunch lid
    if failed = ownPos s then t else
    let kill (t : State) (why : Nat) : State := t.hostError 0x71 (some l.part) why failed l.cardVa 0
    match s.ckptValid.find? fun k => k.launch.cardVa == l.cardVa && k.launch.tag == l.tag && k.launch.part == l.part with
    | none => kill t 2
    | some k =>
      let t := { t with free := t.free + 1 }
      match Config.freeValue s.free % 3 with
      | 0 => restoreLaunch t k
      | 1 => kill t 1
      | _ => kill t 3
/-- The process-group table of a launch can be read: no granule of it is being scrubbed (R445). -/
def tableReadable (s : State) (lid : Nat) : Bool :=
  match mget lid s.launches with
  | some l => (s.readPgt l.part l.ctx l.card.pgt).1.isSome
  | none => true
/-- RECOVERY (R470): once the launches of the domain have halted after a loss. -/
def tryRecovery (s : State) : Option State :=
  match s.lost with
  | none => none
  | some f =>
    let ls := s.launches.filter fun e => domainLaunch e.2
    let halted := (ls.filter fun e => e.2.status == .halted).map (·.1)
    let t := halted.foldl (fun (t : State) l => recoverLaunch t f l) { s with lost := none, missed := mdel f s.missed }
    event (ls.all (fun e => e.2.status != .running && e.2.status != .dispatched) && halted.all (tableReadable s)) t
/-- RECOVERY: it happens where its rule lets it; elsewhere nothing happens. -/
def execRecovery (s : State) : Host.Outcome State Fault Refusal := happens s (tryRecovery s)

/-! ### Power (R471, R472) -/

/-- Steps of the slice clocks below 2.25 GHz: 1.8, 1.35 and 0.9 GHz. -/
def clockSteps : Nat := 3
/-- The highest priority among the resident groups of a cluster, plus 1; 0 without one. -/
def clusterPriority (s : State) (cl : Nat) : Nat :=
  ((s.groups.filterMap fun e => if e.2.cluster = cl ∧ State.occupies e.2 then (mget e.2.launch s.launches).map fun l => l.card.priority + 1
    else none).max?).getD 0
/-- The order in which clusters are slowed (R471): reserved ones last, then ascending priority, then the higher id first. -/
def throttleOrder (s : State) : List Nat :=
  let key (cl : Nat) : Nat := (if (s.reservedBy cl).isEmpty then 0 else 2 ^ 20) + clusterPriority s cl * 2 ^ 10 + (255 - cl)
  ((((List.range 256).filter fun cl => s.tileOk cl && !lockedOn s cl).map fun cl => (key cl, cl)).mergeSort fun a b => decide (a.1 ≤ b.1)).map (·.2)
/-- One throttle step: a slice clock, then best-effort traffic, then a hold whose length is the power manager's choice (a free value). -/
def throttle (s : State) : State :=
  match (throttleOrder s).find? fun cl => decide (dget 0 cl s.clocks < clockSteps) with
  | some cl => { s with clocks := dset 0 cl (dget 0 cl s.clocks + 1) s.clocks }
  | none =>
    if !s.halfRate then { s with halfRate := true }
    else if s.powerHold then s
    else
      let h := [256, 1024, 4096, 16384].getD (Config.freeValue s.free % 4) 256
      let s := { s with free := s.free + 1, powerHold := true }
      if isMaster s then (if ckptNear s then { s with powerHold := false } else requestHold s h) else s.send "domain" [1, h]
/-- POWER_MEASUREMENT (R471): one measurement joins the window of 10 µs; a mean above PCAP throttles by one step. -/
def execPowerMeasurement (milliwatts : Nat) (s : State) : Host.Outcome State Fault Refusal :=
  let window := (s.power ++ [milliwatts]).drop ((s.power.length + 1) - 10)
  let cap := s.barBits pcapOff 15 0 * 1000
  let t := { s with power := window, below := if milliwatts * 100 < cap * 95 then s.below + 1 else 0 }
  .next (if cap * window.length < total window then throttle t else t)
/-- A throttle is in force. -/
def throttled (s : State) : Bool := s.powerHold || s.halfRate || s.clocks != []
/-- One throttle step is taken back, the last one taken first. -/
def unthrottle (s : State) : State :=
  if s.powerHold then { s with powerHold := false }
  else if s.halfRate then { s with halfRate := false }
  else
    let order := throttleOrder s
    let slow := (order ++ (s.clocks.map (·.1)).filter fun cl => !order.contains cl).filter fun cl => decide (0 < dget 0 cl s.clocks)
    match slow.getLast? with
    | some cl => { s with clocks := dset 0 cl (dget 0 cl s.clocks - 1) s.clocks }
    | none => s
/-- THROTTLE_RESTORE (R471): after 100 µs below 95% of PCAP one step is taken back, in the reverse order. -/
def tryThrottleRestore (s : State) : Option State :=
  event (throttled s && decide (100 ≤ s.below)) (unthrottle { s with below := 0 })
/-- THROTTLE_RESTORE: it happens where its rule lets it; elsewhere nothing happens. -/
def execThrottleRestore (s : State) : Host.Outcome State Fault Refusal := happens s (tryThrottleRestore s)

/-! ### Bring-up (R475) -/

/-- The firmware check (R466). -/
def firmwareOk : Bool :=
  Keccak.shake256 Config.rootKey == Config.rootDigest &&
    Config.falconVerify Config.rootKey (Keccak.shake256 Config.firmware) Config.firmwareSig
/-- The fixed latency of a domain whose longest path is given (R245). -/
def domainLatency (longest : Nat) : Nat := max 384 (ceilTo 16 (longest + 32))
/-- The domain that forms at step 7 (R239, R245, R464, R474): size and L_fab; none where it does not form. -/
def formDomain (s : State) : Option (Nat × Nat) :=
  let packages := (s.barFlag tbcfgOff 0, s.barBits tbcfgOff 15 8) :: Config.domainPeers
  if Config.domainSize ≤ 1 ∨ s.barBits capsOff 95 32 ≠ 2 ^ 64 - 1 then some (1, 0)
  else if 256 < Config.domainSize ∨ 1024 < domainLatency Config.longestPath then none
  -- exactly one master, and no position that repeats or lies outside the domain
  else if (packages.filter (·.1)).length ≠ 1 ∨ (packages.map (·.2)).eraseDups.length ≠ packages.length ∨
      packages.any (fun e => decide (Config.domainSize ≤ e.2)) then none
  else some (Config.domainSize, domainLatency Config.longestPath)
/-- What step n of bring-up does; none where it fails. -/
def bringUpDoes (n : Nat) (s : State) : Option State :=
  if !Config.stepOk n then none else
  match n with
  | 2 => if firmwareOk then some s else none
  | 3 => some { s with bar := capsReset s.bar }
  | 4 => some { s.zeroRange Base.lpddr (2 ^ 40) with lineKey := [], granKey := [] }
  | 5 => some (s.zeroRange (2 ^ 66) (2 ^ 75))
  | 7 => (formDomain s).map fun d => { s with domSize := d.1, lfab := d.2 }
  | 8 => some { s with cyc := if s.domSize ≤ 1 then 0 else Config.freeValue s.free, free := s.free + 1, frozen := 0, bankIdle := [], bankBusy := []
                       ptp := { s.ptp with cyc := 0 } }
  | _ => some s
/-- BRING_UP (R475): the step in progress is done, and the status word reads the next one; or it fails, and the word stays at 0xBAD0 + n. -/
def tryBringUp (s : State) : Option State :=
  let n := bringUpStep s
  let set (s : State) (x : Nat) : State := { s with bar := s.bar.store 0 4 x }
  event (decide (1 ≤ n) && decide (n ≤ 8)) (match bringUpDoes n s with
    | some t => set t (n + 1)
    | none => set s (0xBAD0 + n))
/-- BRING_UP: it happens where its rule lets it; elsewhere nothing happens. -/
def execBringUp (s : State) : Host.Outcome State Fault Refusal := happens s (tryBringUp s)

end Sys2Proof.Machine
end

