-- ==== Sys2Proof/Machine/Turn.lean ====
section
/-! DEFINITION. Who issues next, and when time passes (03 R81-R84, 09 R269): WAVE_ISSUE_TURN, the fetch of an instruction (R44, R48, R114,
R270), the order in which the model lets the machine's own events happen where the spec leaves it open (log entry 2), and the passing of
cycles (log entry 4). -/

namespace Sys2Proof.Machine

/-! ### Turns -/

/-- Places of a locked slice that hold a wave: (place, group, wave), ascending (R84). -/
def slicePlaces (s : State) (lid cl sl : Nat) : List (Nat × Nat × Nat) :=
  let here := s.groups.filter fun e => e.2.launch == lid && e.2.kind == .lane && e.2.cluster == cl
  (here.flatMap fun e => (e.2.waves.zipIdx.filter fun w => !w.1.ended && !w.1.leaving && !w.1.trapped && (e.2.s0 + w.2) % 32 == sl).map fun w =>
    (e.2.index * 32 + w.2, e.1, w.2)).mergeSort fun a b => decide (a.1 ≤ b.1)

/-- The wave that has the present turn of a locked slice (R84). -/
def placeAtTurn (ps : List (Nat × Nat × Nat)) (t : Turn) : Option (Nat × Nat × Nat) :=
  match t.last with
  | none => ps.head?
  | some k => (ps.find? fun p => decide (k < p.1)).orElse fun _ => ps.head?

/-- A party may issue at this cycle as far as its launch, its group and its clock are concerned. -/
def partyRuns (s : State) (c : Ctx) : Bool :=
  c.l.status == .running && c.grp.status == .resident && !c.w.ended && !c.w.leaving && !c.w.trapped &&
  (c.isCore || !c.l.committing) &&
  -- R416: the table store is loaded first
  (c.locked || storeReady s c.lid c.l c.grp.cluster) &&
  (!c.locked || (!s.scyStands c.l && (match c.l.haltAt with | some h => decide (s.cyc < h) | none => true) &&
    decide (c.l.start.getD 0 ≤ s.cyc)))
/-- A locked party has its turn at this cycle (R84, R269). -/
def lockedTurn (s : State) (c : Ctx) : Bool :=
  if c.isCore then decide (c.w.nextIssue ≤ s.scy c.l)
  else
    let t := (mget (c.grp.cluster * 32 + c.slice) c.l.turns).getD { scy := 0, last := none }
    decide (t.scy ≤ s.scy c.l) &&
      ((placeAtTurn (slicePlaces s c.lid c.grp.cluster c.slice) t).map fun p => p.2) == some (c.g, c.wi)
/-- The party takes the turn (R81-R84): not while a result is late or its fret is over, outside the locked regime. -/
def turnReady (s : State) (g w : Nat) : Bool :=
  match s.ctxOf g w with
  | none => false
  | some c => partyRuns s c && (if c.locked then lockedTurn s c else !c.w.late && !(c.ordered && c.w.fretEnded))

/-- WAVE_ISSUE_TURN (R81, R83, R84, R269): a ready wave or control core takes the turn; the next step runs its instruction. -/
def tryWaveIssueTurn (g w : Nat) (s : State) : Option State :=
  event (s.turn.isNone && turnReady s g w) { s with turn := some (g, w) }
/-- WAVE_ISSUE_TURN: it happens where its rule lets it; elsewhere nothing happens. -/
def execWaveIssueTurn (g w : Nat) (s : State) : Host.Outcome State Fault Refusal := happens s (tryWaveIssueTurn g w s)

/-- Parties of running launches, by group and wave. -/
def partiesOf (s : State) (p : Launch → Bool) : List (Nat × Nat) :=
  s.groups.flatMap fun e => if ((mget e.2.launch s.launches).map p).getD false then
    (List.range e.2.waves.length).map fun w => (e.1, w) else []
/-- The issue port of a party: its slice, or the control core of its cluster (R81). -/
def portOf (c : Ctx) : Nat := c.grp.cluster * 64 + if c.isCore then 32 else c.slice
/-- The next of the parties outside the locked regime: of a port that is not held, in turns (R24, R81). -/
def elasticNext (s : State) : Option (Nat × Nat) :=
  let ready := (partiesOf s fun l => l.card.regime != 2).filterMap fun e =>
    match s.ctxOf e.1 e.2 with
    | some c => if decide ((dget (0, 0) (portOf c) s.sliceHeld).1 ≤ s.cyc) && turnReady s e.1 e.2 then some (portOf c, e) else none
    | none => none
  match ready with
  | [] => none
  | (port, _) :: _ =>
    let mine := (ready.filter fun r => r.1 == port).map (·.2)
    (mine.find? fun e => decide ((dget (0, 0) port s.sliceHeld).2 ≤ e.1 * 32 + e.2)).orElse fun _ => mine.head?

/-! ### Fetch -/

/-- A fetched word decoded (R46). -/
def decoded (x : Nat) : Instr ⊕ TrapInfo :=
  match decode (BitVec.ofNat 32 x) with
  | .ok i => .inl i
  | .error _ => .inr (trapUdf x)
/-- The fetch of a locked control core, from its loaded stream cache (R270). -/
def fetchStream (s : State) (c : Ctx) : (Instr ⊕ TrapInfo) × State :=
  let pc := c.w.pc.toNat
  if pc < c.card.controlEntry ∨ c.card.controlEntry + 16384 ≤ pc then (.inr (trapTiming 0x11), s)
  else
    match s.readMem (Base.stream c.grp.cluster + (pc - c.card.controlEntry)) 4 c.who with
    | (_, some h, s) => (.inr (trapEcc h), s)
    | (bs, none, s) => (decoded (ofBytes bs), s)
/-- What the fetch of the turn's instruction answers: the instruction, or the trap it raises before any effect; none where the word's granule is
being scrubbed, and the fetch waits (R445). A control core outside the locked regime holds what it fetches in its stream cache (R270; log
entry 106). -/
def fetch (s : State) (c : Ctx) : Option (Instr ⊕ TrapInfo) × State :=
  let pc := c.w.pc.toNat
  if c.locked && c.isCore then (some (fetchStream s c).1, (fetchStream s c).2) else
  match s.xlate c.part c.l.ctx pc .fetch (State.engineOf c.grp.cluster 4) with
  | (.pa a, s) =>
    if s.mainPoison a 4 ≠ 0 then (some (.inr (trapEcc (mainEcc pc))), s) else
    let x := s.mainLoad c.part a 4
    (some (decoded x), if c.isCore then s.copyRead (Base.stream c.grp.cluster + pc % 16384) c.who else s)
  | (.wait, s) => (none, s)
  | (_, s) => (some (.inr (trapXlate pc)), s)

/-- A trap that the fetch or a comparator raises; what is due at the party's slot comes first (R106, R110). -/
def fetchTrap (s : State) (ti : TrapInfo) : Host.Outcome State Fault Refusal :=
  s.issue { ins := .unop, who := .both, whenEmpty := true } fun _ _ => .trap ti

/-- A party whose fetch waits is not ready (R82, R445). -/
def fetchWait (s : State) : Host.Outcome State Fault Refusal :=
  s.issue { ins := .unop, who := .both, whenEmpty := true } fun s c => .wait s c.w 2

/-- The comparator that fires on this issue (R114, R116). -/
def comparatorFires (s : State) (c : Ctx) : Option Nat := if c.w.skip then none else s.comparatorAt c

/-- The party has not issued: it waits, and nothing trapped (R82). -/
def stillWaits (s t : State) (c : Ctx) : Bool :=
  (match t.wave c.g c.wi with | some w => w.slot == c.w.slot && !w.ended | none => false) &&
    (t.heldOf (2 + c.part)).length == (s.heldOf (2 + c.part)).length

/-! ### The passing of cycles (log entry 4) -/

/-- CYCs at which something of the module's own comes, beside its locked launches. -/
def dueTimes (s : State) : List Nat :=
  let stop : Option (Nat × Nat) → List Nat := fun o => match o with
    | some (f, n) => [f, f + n]
    | none => []
  List.flatten (α := Nat) [
    stop s.hold,
    s.holds.map (·.1),
    s.holdSince.toList.map (· + 256),
    s.insertions.map fun e => e.1 + e.2,
    s.ptpNext.map (·.1),
    match s.ckpt with | some (f, n, _) => [f, f + n] | none => [],
    if s.scrubs = [] then [] else [s.scrubStart + scrubCycles],
    s.parts.filterMap fun e => (e.2.teardown.bind List.head?).map fun c => c + 2 ^ 15,
    s.rings.flatMap fun e => if !ringEn s e.1 then [] else
      let d := s.stripDue e.1 e.2.frame (ringNext s e.1)
      d :: (d + 1) :: (if e.1 < 4 then [s.scanCyc e.1 e.2.nextFrame e.2.nextLine - 4096] else []),
    s.launches.filterMap fun e => e.2.closeAt,
    s.launches.flatMap fun e =>
      let l := e.2
      if !State.alive l then [] else
      let t (x : Nat) : List Nat := if x = 0 then [] else [s.cycOfPtp x]
      t l.card.startTime ++ t l.card.deadline ++ (match l.start with | some x => [x] | none => []) ++ (match l.haltAt with | some x => [x] | none => [])]
/-- A locked launch runs, or something of one is still under way. -/
def lockedWork (s : State) : Bool :=
  (s.launches.any fun e => e.2.card.regime == 2 && e.2.status == .running) || (s.reqs.any fun r => r.due.isSome) ||
    (s.rels.any fun r => r.due.isSome) || s.sends != [] || s.padded != [] || (s.copies.any fun e => e.2.start.isSome) ||
    s.clusters.any fun e => e.2.cmds.any fun m => m.stamp.isSome
/-- Cycles that pass in one go: no time of the module's own is passed over, the work of a locked launch is stepped cycle by cycle, and while
lane code or a control stream is resident at most 16 cycles pass before its parties and their accesses are looked at again (R24). -/
def cap (s : State) (n : Nat) : Nat :=
  let n := if s.groups.any fun e => e.2.status == .resident then min n 16 else n
  if lockedWork s then min n 1
  else match ((dueTimes s).filter fun t => decide (s.cyc < t)).min? with
    | some t => min n (t - s.cyc)
    | none => n
/-- A hold or an insertion is under way: no bank's idle count advances (R189). -/
def clocksStand (s : State) : Bool :=
  s.underWay s.hold || s.launches.any fun e => State.alive e.2 && s.underWay e.2.tune
/-- Cycles pass; the master announces what changes in the corrections (R258). -/
def tick (s : State) (n : Nat) : State :=
  announceCorrections
    { s with cyc := s.cyc + cap s n, owed := s.owed - cap s n, frozen := if clocksStand s then s.frozen + cap s n else s.frozen }
/-- The next entry of the model's own list of cycles. -/
def takeElapse (s : State) (dflt : Nat) : State := { s with owed := s.elapse.headD dflt, elapse := s.elapse.tail }

/-! ### Events that the machine may have now (log entry 2) -/

/-- The halts of locked launches (R284). In a domain of one a launch halts in the cycle of its trap, once the parties that trap in it have. -/
def haltEvents (s : State) : List Instr :=
  s.launches.flatMap fun e => if e.2.haltAt.isNone && e.2.closeAt.isNone then [] else [.lockedHalt e.1, .receiveWindowClose e.1]
/-- The pieces of a locked copy. -/
def pieceEvents (e : Nat × Copy) : List Instr :=
  if e.2.start.isSome then (List.range e.2.pieceCount).map fun n => .copyPieceTransfer e.1 n else []
/-- A locked copy has not started before this cycle. -/
def startsNow (s : State) (k : Copy) : Bool :=
  match mget k.launch s.launches with
  | some l => decide (s.scy l ≤ k.start.getD 0)
  | none => false
/-- Events at fixed cycles, and those of locked launches, but for what starts. A tile is written before the lanes' reads of its completion cycle (R301). -/
def timedEvents (s : State) : List Instr :=
  List.flatten (α := Instr) [
    [.mappingUpdate, .holdEnd, .checkpointEnd, .holdStart],
    if s.lfab = 0 then [] else haltEvents s,
    s.padded.filterMap fun f => if f.arrival ≤ s.cyc then some (.flitLanding f) else none,
    s.clusters.flatMap fun e => e.2.cmds.filterMap fun m => if m.stamp.isSome then some (.matrixCommandCompletion e.1 m.num) else none,
    s.reqs.filterMap fun r => match r.due with
      | some t => if t ≤ s.cyc then some (if r.local_ then .localStoreRequest r.id else .bankRequest r.id) else none
      | none => none,
    s.rels.filterMap fun r => match r.due with
      | some t => if t ≤ s.cyc then some (.relIncrement r.id) else none
      | none => none,
    s.launches.flatMap fun e => if !State.alive e.2 then [] else
      [Instr.launchStartCycle e.1, Instr.deadlineEvent e.1, Instr.tuneInsertionEnd e.1] ++ (if e.2.card.isStrip then [Instr.stripStart e.1] else []),
    s.sends.flatMap fun e => (List.range (min 128 (e.2.count - e.2.next))).map fun i => Instr.flitSourceRead e.1 (e.2.next + i),
    s.rings.flatMap fun e => if !ringEn s e.1 then [] else
      -- a card may still claim the open entry at its deadline
      (if s.stripDue e.1 e.2.frame (ringNext s e.1) < s.cyc then [Instr.entrySkip e.1] else []) ++
      (if e.1 < 4 then [Instr.displayLineFetch e.1] else []),
    s.encs.map fun e => .encoderStripCopy e.1,
    match s.holdSince with | some t => if t + 256 ≤ s.cyc then [.holdAnnounce] else [] | none => [],
    s.copies.flatMap fun e => if startsNow s e.2 then [] else pieceEvents e]
/-- What a launch starts in this cycle, and the flits that it sends: none at its halt (R284). -/
def startEvents (s : State) : List Instr :=
  List.flatten (α := Instr) [
    s.clusters.flatMap fun e => e.2.cmds.filterMap fun m => if m.stamp.isSome then some (.stampedCommandStart e.1 m.num) else none,
    s.copies.flatMap fun e => if startsNow s e.2 then pieceEvents e else [],
    s.sends.map fun e => .flitSend e.1 e.2.next]

/-- Events at the end of a cycle: a claim in the cycle of the deadline stands (R430). -/
def lateEvents (s : State) : List Instr :=
  s.launches.filterMap fun e => if State.alive e.2 && e.2.card.isStrip then some (.stripDeadline e.1) else none

/-- The raster engine's events of a launch. -/
def rasterEvents (s : State) (lid : Nat) (l : Launch) : List Instr :=
  if !s.rasterCard l.part l.card then [] else
  match l.raster with
  | none => if l.card.isStrip then [] else [Instr.tileStart lid 0]
  | some j =>
    Instr.binningPrimitive lid :: (j.tiles.flatMap fun t => [Instr.primaryRayTrace lid t.1, Instr.tileVisibilityFinal lid t.1]) ++
    ((List.range (max 1 (headerTiles j.header))).filter fun t => (mget t j.tiles).isNone).map fun t => Instr.tileStart lid t
/-- The events of heads with an encoder. -/
def encoderEvents (s : State) : List Instr :=
  s.encs.flatMap fun e =>
    let samples := rowSamples (ringFmt s e.1) (s.barBits (encOff e.1) 160 160) (e.2.lines.take 64)
    if rowReady s e.1 e.2 then [Instr.tileRowCode e.1 (codeRow (codeParams s e.1 e.2) (e.2.coded == 0) (keyFrame e.2) samples)] else []
/-- The events of what serves the module as a whole. -/
def serviceEvents (s : State) : List Instr :=
  List.flatten (α := Instr) [
    if s.doorbell.isNone then [] else
      [.regrd, .regwr, .attest, .locate, .grpctlResume, .killgroup, .killcard, .preempt, .dplink, .memwr, .memrd],
    (s.scrubs.take 1).map .scrubComplete,
    s.invals.map fun v => .tlbinvComplete (bits v 61 56),
    s.parts.filterMap fun e => if e.2.teardown.isSome then some (.teardownComplete e.1) else none,
    s.launches.filterMap fun e => if e.2.tunes = [] ∧ e.2.reports = [] then none else some (.tuneMismatch e.2.tag),
    s.abroad.filterMap fun a => if a.reports = [] then none else some (.tuneMismatch a.tag),
    [.holdAnnounce, .checkpoint, .recovery, .throttleRestore, .bringUp],
    s.bankIdle.filterMap fun e => if e.1 < 2 ^ 20 ∧ !dget false e.1 s.bankAsleep then some (.bankRetentionEntry (e.1 / 16) (e.1 % 16)) else none]

/-- Events without a fixed cycle. -/
def freeEvents (s : State) : List Instr :=
  List.flatten (α := Instr) [
    serviceEvents s,
    encoderEvents s,
    s.rays.filterMap fun r => if r.2.status = 15 ∧ r.2.fault.isNone then some (.rayRest r.1) else none,
    s.launches.flatMap fun e => rasterEvents s e.1 e.2 ++
      (if State.alive e.2 ∧ e.2.card.donate then (tryOrder s e.2).map fun cl => Instr.stealRequest e.1 cl else []),
    s.groups.flatMap fun e => e.2.waves.zipIdx.flatMap fun w =>
      ((w.1.pend.filter fun p => p.waiting == 0 && !p.arrived && !p.nextFret).map fun p => Instr.resultArrival e.1 w.2 p.id) ++
      ((w.1.deferred.filter fun d => d.value.isSome && !d.arrived).map fun d => Instr.deferredResultArrival e.1 w.2 d.id) ++
      ((w.1.deferred.filter fun d => d.value.isNone && d.fault.isNone).map fun d => Instr.textureServe e.1 w.2 d.id) ++
      (match w.1.wait with | .monitor _ _ false => [Instr.mwaitWake e.1 w.2] | _ => []),
    s.reqs.map fun r => if r.local_ then .localStoreRequest r.id else .bankRequest r.id,
    s.rels.map fun r => .relIncrement r.id,
    s.writebacks.map fun w => .correctionWriteback w.1,
    s.clusters.flatMap fun e => Instr.matrixCommandStart e.1 :: (e.2.cmds.map fun m => Instr.matrixCommandCompletion e.1 m.num) ++
      (if e.2.store.holder.isSome && !e.2.store.loaded then [Instr.tableStoreLoad e.1] else []) ++
      (e.2.stealAfter.map fun x => Instr.stealRetryTimer x.1 e.1),
    s.launches.flatMap fun e => if e.2.status == .running && e.2.card.slotMask != 0 then
      ((s.cardClusters e.2.part e.2.card).filter fun cl => (s.cluster cl).store.holder.isNone).map .tableStoreLoad else [],
    s.copies.flatMap fun e => (List.range e.2.pieceCount).map fun n => .copyPieceTransfer e.1 n,
    s.parts.flatMap fun e => (if e.2.heldFaults = [] then [] else [Instr.faultRecordPost e.1]) ++
      (if e.2.intake = [] then [] else [Instr.intakeCardRead e.1]),
    s.held.map fun e => if e.1 < 2 then .hostRecordPost e.1 else .trapRecordPost (e.1 - 2),
    s.children.map fun e => .childCardRead e.1,
    s.launches.flatMap fun e => if !State.alive e.2 then [] else
      [.fretCommit e.1, .cardDispatch e.1, .terminationTokenPass e.1, .cardCompletion e.1],
    s.launches.flatMap fun e => if !State.alive e.2 then [] else
      ((match nextPlace s e.1 e.2 with | some (cl, _) => [cl] | none => []) ++
        (tryOrder s e.2).filter fun cl => !(waitingAt s cl).isEmpty).map fun cl => Instr.groupPlacement e.1 cl,
    s.groups.flatMap fun e =>
      (if e.2.status = .halted then [Instr.trapGroupSave e.1] else []) ++
      (if e.2.status = .saved then [Instr.groupRestore e.1] else []) ++ [Instr.preemption e.1]]

end Sys2Proof.Machine
end

