-- ==== Sys2Proof/Machine/Dispatch.lean ====
section
/-! DEFINITION. One arm per constructor of Instr: the direct call of its meaning. -/

namespace Sys2Proof.Machine
open Sys2Proof

/-- The meaning of an instruction or event in a state. -/
def exec (i : Instr) (s : State) : Host.Outcome State Fault Refusal :=
  match i with
  | .intArithLogic o d a b => Sys2Proof.Machine.execIntArithLogic o d a b s
  | .uintArithLogic o d a b => Sys2Proof.Machine.execUintArithLogic o d a b s
  | .divRem o d a b => Sys2Proof.Machine.execDivRem o d a b s
  | .udivRem o d a b => Sys2Proof.Machine.execUdivRem o d a b s
  | .sel d a b => Sys2Proof.Machine.execSel d a b s
  | .usel d a b => Sys2Proof.Machine.execUsel d a b s
  | .setCompare o d a b => Sys2Proof.Machine.execSetCompare o d a b s
  | .usetCompare o d a b => Sys2Proof.Machine.execUsetCompare o d a b s
  | .unary f d a => Sys2Proof.Machine.execUnary f d a s
  | .uunary f d a => Sys2Proof.Machine.execUunary f d a s
  | .shfl m d a b => Sys2Proof.Machine.execShfl m d a b s
  | .bcast d a b => Sys2Proof.Machine.execBcast d a b s
  | .vote f d a => Sys2Proof.Machine.execVote f d a s
  | .matchv wide d a => Sys2Proof.Machine.execMatchv wide d a s
  | .wred f d a => Sys2Proof.Machine.execWred f d a s
  | .wscan f d a => Sys2Proof.Machine.execWscan f d a s
  | .qswz f d a => Sys2Proof.Machine.execQswz f d a s
  | .rds d index => Sys2Proof.Machine.execRds d index s
  | .urds d index => Sys2Proof.Machine.execUrds d index s
  | .wrs a index => Sys2Proof.Machine.execWrs a index s
  | .uwrs a index => Sys2Proof.Machine.execUwrs a index s
  | .flgrd d => Sys2Proof.Machine.execFlgrd d s
  | .uflgrd d => Sys2Proof.Machine.execUflgrd d s
  | .fp32Arith o d a b => Sys2Proof.Machine.execFp32Arith o d a b s
  | .ufp32Arith o d a b => Sys2Proof.Machine.execUfp32Arith o d a b s
  | .fp64Arith o d a b => Sys2Proof.Machine.execFp64Arith o d a b s
  | .ufp64Arith o d a b => Sys2Proof.Machine.execUfp64Arith o d a b s
  | .packedHalf o d a b => Sys2Proof.Machine.execPackedHalf o d a b s
  | .dot4 f d a b => Sys2Proof.Machine.execDot4 f d a b s
  | .fpCompare wide c d a b => Sys2Proof.Machine.execFpCompare wide c d a b s
  | .ufpCompare wide c d a b => Sys2Proof.Machine.execUfpCompare wide c d a b s
  | .fp32Function f d a => Sys2Proof.Machine.execFp32Function f d a s
  | .ufp32Function f d a => Sys2Proof.Machine.execUfp32Function f d a s
  | .fp64Function f d a => Sys2Proof.Machine.execFp64Function f d a s
  | .ufp64Function f d a => Sys2Proof.Machine.execUfp64Function f d a s
  | .cvt c d a => Sys2Proof.Machine.execCvt c d a s
  | .ucvt c d a => Sys2Proof.Machine.execUcvt c d a s
  | .pack f d a b => Sys2Proof.Machine.execPack f d a b s
  | .fscl wide d a b => Sys2Proof.Machine.execFscl wide d a b s
  | .ufscl wide d a b => Sys2Proof.Machine.execUfscl wide d a b s
  | .immediate o d imm => Sys2Proof.Machine.execImmediate o d imm s
  | .uimmediate o d imm => Sys2Proof.Machine.execUimmediate o d imm s
  | .ldg wide d a off => Sys2Proof.Machine.execLdg wide d a off s
  | .uldg wide d a off => Sys2Proof.Machine.execUldg wide d a off s
  | .stg wide src a off => Sys2Proof.Machine.execStg wide src a off s
  | .ustg wide src a off => Sys2Proof.Machine.execUstg wide src a off s
  | .lds w d a off => Sys2Proof.Machine.execLds w d a off s
  | .ulds w d a off => Sys2Proof.Machine.execUlds w d a off s
  | .sts w src a off => Sys2Proof.Machine.execSts w src a off s
  | .usts w src a off => Sys2Proof.Machine.execUsts w src a off s
  | .spl d a off => Sys2Proof.Machine.execSpl d a off s
  | .uspl d a off => Sys2Proof.Machine.execUspl d a off s
  | .sps src a off => Sys2Proof.Machine.execSps src a off s
  | .usps src a off => Sys2Proof.Machine.execUsps src a off s
  | .mwait d a off => Sys2Proof.Machine.execMwait d a off s
  | .ldgxStsx o d a b => Sys2Proof.Machine.execLdgxStsx o d a b s
  | .owr k a b => Sys2Proof.Machine.execOwr k a b s
  | .ord d a b => Sys2Proof.Machine.execOrd d a b s
  | .sample d a b => Sys2Proof.Machine.execSample d a b s
  | .samplel d a b => Sys2Proof.Machine.execSamplel d a b s
  | .sampleg d a b => Sys2Proof.Machine.execSampleg d a b s
  | .gath4 d a b => Sys2Proof.Machine.execGath4 d a b s
  | .txq d a b => Sys2Proof.Machine.execTxq d a b s
  | .trace d a b => Sys2Proof.Machine.execTrace d a b s
  | .resume op a b => Sys2Proof.Machine.execResume op a b s
  | .hitr d a f => Sys2Proof.Machine.execHitr d a f s
  | .qsamp d a b => Sys2Proof.Machine.execQsamp d a b s
  | .qraw d a b => Sys2Proof.Machine.execQraw d a b s
  | .qsampd d a b => Sys2Proof.Machine.execQsampd d a b s
  | .visq d f => Sys2Proof.Machine.execVisq d f s
  | .pixw a b => Sys2Proof.Machine.execPixw a b s
  | .srate a b => Sys2Proof.Machine.execSrate a b s
  | .atom o d a b => Sys2Proof.Machine.execAtom o d a b s
  | .red o a b => Sys2Proof.Machine.execRed o a b s
  | .cas wide d a b => Sys2Proof.Machine.execCas wide d a b s
  | .tkarg d a b => Sys2Proof.Machine.execTkarg d a b s
  | .atom64 o d a b => Sys2Proof.Machine.execAtom64 o d a b s
  | .red64 o a b => Sys2Proof.Machine.execRed64 o a b s
  | .cpy a => Sys2Proof.Machine.execCpy a s
  | .cpyg a b => Sys2Proof.Machine.execCpyg a b s
  | .cpys a b => Sys2Proof.Machine.execCpys a b s
  | .close d => Sys2Proof.Machine.execClose d s
  | .waitb d b => Sys2Proof.Machine.execWaitb d b s
  | .ores k a b => Sys2Proof.Machine.execOres k a b s
  | .orel k => Sys2Proof.Machine.execOrel k s
  | .mma t a b => Sys2Proof.Machine.execMma t a b s
  | .mmac t a b => Sys2Proof.Machine.execMmac t a b s
  | .azero t => Sys2Proof.Machine.execAzero t s
  | .adrain t a b => Sys2Proof.Machine.execAdrain t a b s
  | .aload t a b => Sys2Proof.Machine.execAload t a b s
  | .msync b => Sys2Proof.Machine.execMsync b s
  | .hwait k b => Sys2Proof.Machine.execHwait k b s
  | .send d a b => Sys2Proof.Machine.execSend d a b s
  | .recv d a b => Sys2Proof.Machine.execRecv d a b s
  | .nqack a b => Sys2Proof.Machine.execNqack a b s
  | .nqrst a b => Sys2Proof.Machine.execNqrst a b s
  | .enq d a b => Sys2Proof.Machine.execEnq d a b s
  | .tkspawn d a b => Sys2Proof.Machine.execTkspawn d a b s
  | .rslot d => Sys2Proof.Machine.execRslot d s
  | .rpub => Sys2Proof.Machine.execRpub s
  | .rrel => Sys2Proof.Machine.execRrel s
  | .qtab slot a b => Sys2Proof.Machine.execQtab slot a b s
  | .qseed slot a => Sys2Proof.Machine.execQseed slot a s
  | .braBrz z a off => Sys2Proof.Machine.execBraBrz z a off s
  | .ubraUbrz z a off => Sys2Proof.Machine.execUbraUbrz z a off s
  | .jmp off => Sys2Proof.Machine.execJmp off s
  | .ujmp off => Sys2Proof.Machine.execUjmp off s
  | .call a off => Sys2Proof.Machine.execCall a off s
  | .ucall a off => Sys2Proof.Machine.execUcall a off s
  | .ret a => Sys2Proof.Machine.execRet a s
  | .uret a => Sys2Proof.Machine.execUret a s
  | .mark off => Sys2Proof.Machine.execMark off s
  | .uloop a off => Sys2Proof.Machine.execUloop a off s
  | .nop => Sys2Proof.Machine.execNop s
  | .unop => Sys2Proof.Machine.execUnop s
  | .exit => Sys2Proof.Machine.execExit s
  | .trap imm => Sys2Proof.Machine.execTrap imm s
  | .utrap imm => Sys2Proof.Machine.execUtrap imm s
  | .brk imm => Sys2Proof.Machine.execBrk imm s
  | .ubrk imm => Sys2Proof.Machine.execUbrk imm s
  | .join => Sys2Proof.Machine.execJoin s
  | .regang => Sys2Proof.Machine.execRegang s
  | .bar k => Sys2Proof.Machine.execBar k s
  | .bara k => Sys2Proof.Machine.execBara k s
  | .barw k => Sys2Proof.Machine.execBarw k s
  | .gbar => Sys2Proof.Machine.execGbar s
  | .fence sc => Sys2Proof.Machine.execFence sc s
  | .ufence sc => Sys2Proof.Machine.execUfence sc s
  | .acq p q => Sys2Proof.Machine.execAcq p q s
  | .uacq p q => Sys2Proof.Machine.execUacq p q s
  | .rel p => Sys2Proof.Machine.execRel p s
  | .urel p => Sys2Proof.Machine.execUrel p s
  | .bind p b l => Sys2Proof.Machine.execBind p b l s
  | .ubind p b l => Sys2Proof.Machine.execUbind p b l s
  | .waitt n => Sys2Proof.Machine.execWaitt n s
  | .hsig k => Sys2Proof.Machine.execHsig k s
  | .uhsig k => Sys2Proof.Machine.execUhsig k s
  | .ordb sample => Sys2Proof.Machine.execOrdb sample s
  | .orde => Sys2Proof.Machine.execOrde s
  | .frete => Sys2Proof.Machine.execFrete s
  | .halt => Sys2Proof.Machine.execHalt s
  | .at imm => Sys2Proof.Machine.execAt imm s
  | .atv n => Sys2Proof.Machine.execAtv n s
  | .waitc => Sys2Proof.Machine.execWaitc s
  | .tune imm => Sys2Proof.Machine.execTune imm s
  | .waveIssueTurn g w => Sys2Proof.Machine.execWaveIssueTurn g w s
  | .resultArrival g w k => Sys2Proof.Machine.execResultArrival g w k s
  | .deferredResultArrival g w k => Sys2Proof.Machine.execDeferredResultArrival g w k s
  | .trapGroupSave g => Sys2Proof.Machine.execTrapGroupSave g s
  | .trapRecordPost part => Sys2Proof.Machine.execTrapRecordPost part s
  | .relIncrement r => Sys2Proof.Machine.execRelIncrement r s
  | .mwaitWake g w => Sys2Proof.Machine.execMwaitWake g w s
  | .bankRequest r => Sys2Proof.Machine.execBankRequest r s
  | .localStoreRequest r => Sys2Proof.Machine.execLocalStoreRequest r s
  | .bankRetentionEntry cluster bank => Sys2Proof.Machine.execBankRetentionEntry cluster bank s
  | .correctionWriteback word => Sys2Proof.Machine.execCorrectionWriteback word s
  | .elogack inst n => Sys2Proof.Machine.execElogack inst n s
  | .einjWrite inst value => Sys2Proof.Machine.execEinjWrite inst value s
  | .fdlogack n => Sys2Proof.Machine.execFdlogack n s
  | .fretCommit launch => Sys2Proof.Machine.execFretCommit launch s
  | .hostSubmission part data => Sys2Proof.Machine.execHostSubmission part data s
  | .intakeCardRead part => Sys2Proof.Machine.execIntakeCardRead part s
  | .cardDispatch launch => Sys2Proof.Machine.execCardDispatch launch s
  | .groupPlacement launch cluster => Sys2Proof.Machine.execGroupPlacement launch cluster s
  | .stealRequest launch cluster => Sys2Proof.Machine.execStealRequest launch cluster s
  | .stealRetryTimer launch cluster => Sys2Proof.Machine.execStealRetryTimer launch cluster s
  | .terminationTokenPass launch => Sys2Proof.Machine.execTerminationTokenPass launch s
  | .cardCompletion launch => Sys2Proof.Machine.execCardCompletion launch s
  | .hostRecordPost queue => Sys2Proof.Machine.execHostRecordPost queue s
  | .deadlineEvent launch => Sys2Proof.Machine.execDeadlineEvent launch s
  | .preemption g => Sys2Proof.Machine.execPreemption g s
  | .groupRestore g => Sys2Proof.Machine.execGroupRestore g s
  | .copyPieceTransfer copy piece => Sys2Proof.Machine.execCopyPieceTransfer copy piece s
  | .faultRecordPost part => Sys2Proof.Machine.execFaultRecordPost part s
  | .fqverdRetry part seq => Sys2Proof.Machine.execFqverdRetry part seq s
  | .fqverdFail part seq => Sys2Proof.Machine.execFqverdFail part seq s
  | .translationWalk part ctx va acc => Sys2Proof.Machine.execTranslationWalk part ctx va acc s
  | .matrixCommandStart cluster => Sys2Proof.Machine.execMatrixCommandStart cluster s
  | .matrixCommandCompletion cluster num => Sys2Proof.Machine.execMatrixCommandCompletion cluster num s
  | .stampedCommandStart cluster num => Sys2Proof.Machine.execStampedCommandStart cluster num s
  | .flitSourceRead send k => Sys2Proof.Machine.execFlitSourceRead send k s
  | .flitSend send k => Sys2Proof.Machine.execFlitSend send k s
  | .flitLanding f => Sys2Proof.Machine.execFlitLanding f s
  | .collision f flits => Sys2Proof.Machine.execCollision f flits s
  | .linkError f flits => Sys2Proof.Machine.execLinkError f flits s
  | .bestEffortFlit f => Sys2Proof.Machine.execBestEffortFlit f s
  | .haltNotice m => Sys2Proof.Machine.execHaltNotice m s
  | .lockedHalt launch => Sys2Proof.Machine.execLockedHalt launch s
  | .receiveWindowClose launch => Sys2Proof.Machine.execReceiveWindowClose launch s
  | .domainControlMessage m => Sys2Proof.Machine.execDomainControlMessage m s
  | .holdRequest cycles => Sys2Proof.Machine.execHoldRequest cycles s
  | .tuneInsertionEnd launch => Sys2Proof.Machine.execTuneInsertionEnd launch s
  | .tuneMismatch tag => Sys2Proof.Machine.execTuneMismatch tag s
  | .ptpMessage m => Sys2Proof.Machine.execPtpMessage m s
  | .timebaseEvent code delta => Sys2Proof.Machine.execTimebaseEvent code delta s
  | .portFailure port => Sys2Proof.Machine.execPortFailure port s
  | .packetDelivery pk => Sys2Proof.Machine.execPacketDelivery pk s
  | .rdmaWrite pk => Sys2Proof.Machine.execRdmaWrite pk s
  | .rdmaRead pk => Sys2Proof.Machine.execRdmaRead pk s
  | .rdmaAtomicRequest pk => Sys2Proof.Machine.execRdmaAtomicRequest pk s
  | .neighbourSolicitation pk => Sys2Proof.Machine.execNeighbourSolicitation pk s
  | .qpRetryExhausted qp => Sys2Proof.Machine.execQpRetryExhausted qp s
  | .qdescStateRun q => Sys2Proof.Machine.execQdescStateRun q s
  | .qdescStateOff q => Sys2Proof.Machine.execQdescStateOff q s
  | .stripStart launch => Sys2Proof.Machine.execStripStart launch s
  | .stripDeadline launch => Sys2Proof.Machine.execStripDeadline launch s
  | .binningPrimitive launch => Sys2Proof.Machine.execBinningPrimitive launch s
  | .primaryRayTrace launch tile => Sys2Proof.Machine.execPrimaryRayTrace launch tile s
  | .tileVisibilityFinal launch tile => Sys2Proof.Machine.execTileVisibilityFinal launch tile s
  | .rayRest ray => Sys2Proof.Machine.execRayRest ray s
  | .textureServe g w k => Sys2Proof.Machine.execTextureServe g w k s
  | .tableStoreLoad cluster => Sys2Proof.Machine.execTableStoreLoad cluster s
  | .entrySkip head => Sys2Proof.Machine.execEntrySkip head s
  | .displayLineFetch display => Sys2Proof.Machine.execDisplayLineFetch display s
  | .encoderStripCopy encoder => Sys2Proof.Machine.execEncoderStripCopy encoder s
  | .tileRowCode encoder coded => Sys2Proof.Machine.execTileRowCode encoder coded s
  | .rdoffWrite encoder value => Sys2Proof.Machine.execRdoffWrite encoder value s
  | .ringcfgEnable head => Sys2Proof.Machine.execRingcfgEnable head s
  | .ringcfgDisable head => Sys2Proof.Machine.execRingcfgDisable head s
  | .qcfgEnable q => Sys2Proof.Machine.execQcfgEnable q s
  | .stplValid head => Sys2Proof.Machine.execStplValid head s
  | .stplWithdraw head => Sys2Proof.Machine.execStplWithdraw head s
  | .pcfgEnable part => Sys2Proof.Machine.execPcfgEnable part s
  | .teardown part => Sys2Proof.Machine.execTeardown part s
  | .mownWrite granule value => Sys2Proof.Machine.execMownWrite granule value s
  | .scrubComplete granule => Sys2Proof.Machine.execScrubComplete granule s
  | .tlbinv value => Sys2Proof.Machine.execTlbinv value s
  | .tlbinvComplete part => Sys2Proof.Machine.execTlbinvComplete part s
  | .tbcfgWrite value => Sys2Proof.Machine.execTbcfgWrite value s
  | .qpctxState qp state => Sys2Proof.Machine.execQpctxState qp state s
  | .channelShare part value => Sys2Proof.Machine.execChannelShare part value s
  | .registerWrite host off value => Sys2Proof.Machine.execRegisterWrite host off value s
  | .checkpointFlit f => Sys2Proof.Machine.execCheckpointFlit f s
  | .heartbeatMiss pkg => Sys2Proof.Machine.execHeartbeatMiss pkg s
  | .powerMeasurement milliwatts => Sys2Proof.Machine.execPowerMeasurement milliwatts s
  | .childCardRead child => Sys2Proof.Machine.execChildCardRead child s
  | .tileStart launch tile => Sys2Proof.Machine.execTileStart launch tile s
  | .launchStartCycle launch => Sys2Proof.Machine.execLaunchStartCycle launch s
  | .teardownComplete part => Sys2Proof.Machine.execTeardownComplete part s
  | .connectionManagementMessage pk => Sys2Proof.Machine.execConnectionManagementMessage pk s
  | .mappingUpdate => Sys2Proof.Machine.execMappingUpdate s
  | .holdAnnounce => Sys2Proof.Machine.execHoldAnnounce s
  | .holdStart => Sys2Proof.Machine.execHoldStart s
  | .holdEnd => Sys2Proof.Machine.execHoldEnd s
  | .regrd => Sys2Proof.Machine.execRegrd s
  | .regwr => Sys2Proof.Machine.execRegwr s
  | .attest => Sys2Proof.Machine.execAttest s
  | .locate => Sys2Proof.Machine.execLocate s
  | .grpctlResume => Sys2Proof.Machine.execGrpctlResume s
  | .killgroup => Sys2Proof.Machine.execKillgroup s
  | .killcard => Sys2Proof.Machine.execKillcard s
  | .preempt => Sys2Proof.Machine.execPreempt s
  | .dplink => Sys2Proof.Machine.execDplink s
  | .memwr => Sys2Proof.Machine.execMemwr s
  | .memrd => Sys2Proof.Machine.execMemrd s
  | .checkpointAnnounce => Sys2Proof.Machine.execCheckpointAnnounce s
  | .checkpoint => Sys2Proof.Machine.execCheckpoint s
  | .checkpointEnd => Sys2Proof.Machine.execCheckpointEnd s
  | .recovery => Sys2Proof.Machine.execRecovery s
  | .throttleRestore => Sys2Proof.Machine.execThrottleRestore s
  | .bringUp => Sys2Proof.Machine.execBringUp s
  | .functionLevelReset => Sys2Proof.Machine.execFunctionLevelReset s

end Sys2Proof.Machine
end

