-- ==== Sys2Proof/Machine/Run.lean ====
section
/-! DEFINITION. What a step consists of: the turn of a party (R44, R114), and without one the machine's own events and the passing of cycles. The
order among events that the spec leaves open is the model's (log entry 2); every fixed cycle comes first. -/

namespace Sys2Proof.Machine

/-- The party that holds the turn fetches and runs one instruction (R44); a comparator fires where the instruction would issue (R114), before
the traps of its decoding and execution, and after those of its fetch (log entry 96). -/
def runTurn (s : State) (c : Ctx) : Host.Outcome State Fault Refusal :=
  match fetch s c with
  | (none, t) => fetchWait t
  | (some (.inr ti), t) => fetchTrap t ti
  | (some (.inl i), t) =>
    match comparatorFires t c with
    | none => exec i t
    | some k =>
      match exec i t with
      | .next u => if stillWaits t u c then .next u else fetchTrap t { code := 12, comparator := true, index := k }
      | o => o

/-- The largest number of words, or of atomics, of one step that one local-store bank serves (R172, R194). -/
def stepDegree (atomic : Bool) (rs : List Req) : Nat :=
  let words := rs.flatMap fun r => (List.range (r.width / 4)).map fun i => (bankOf true (r.addr + 4 * i), (r.addr + 4 * i) / 4)
  let words := if atomic then words else words.eraseDups
  ((words.map fun k => (words.filter fun q => q.1 == k.1).length).max?).getD 0
/-- The cycles for which the group-memory accesses that a party has just issued hold its slice (R172, R194). -/
def gmemHold (s t : State) (c : Ctx) : Nat :=
  let new := t.reqs.filter fun r => r.group == c.g && r.wave == c.wi && decide (s.seq ≤ r.id) && r.local_
  let atomic := new.any fun r => match r.kind with | .load | .store _ | .seen _ => false | _ => true
  let d (j : Nat) : Nat := stepDegree atomic (new.filter fun r => r.step == j)
  let buffered := (((t.wave c.g c.wi).map fun w => w.buffer.drop c.w.buffer.length).getD []).filter fun b => match b with
    | .atomic _ a _ _ _ | .cas a _ _ _ _ => decide (Base.local_ 0 ≤ a)
    | _ => false
  if buffered ≠ [] then max 24 (3 * buffered.length)
  else if new = [] then 0
  else if atomic then max 24 (3 * ((List.range 8).map d).sum)
  else 8 + ((List.range 8).map fun j => d j - 1).sum
/-- Cycles of a cluster's slices as cycles of CYC: the power manager may have slowed their clock from 2.25 GHz to 1.8, 1.35 or 0.9 GHz (R24,
R471). -/
def sliceCycles (s : State) (cl n : Nat) : Nat := ceilDiv (5 * n) (5 - min 3 (dget 0 cl s.clocks))
/-- After an instruction outside the locked regime its port is held for the cycles of its accesses (R172, R194), or for the next entry of
`elapse`: 16 cycles where that is less, the longest that R81 lets an instruction without bank conflicts hold its slice, and at most 64, so that
each of the eight waves of a slice issues in 512 cycles (R24; log entry 4). -/
def afterTurn (s : State) (c : Ctx) : Host.Outcome State Fault Refusal → Host.Outcome State Fault Refusal
  | .next t => .next <| if c.locked then t else
      let n := max (min 64 (max 16 (t.elapse.headD 16))) (if c.isCore then 0 else gmemHold s t c)
      let n := if c.isCore then n else sliceCycles t c.grp.cluster n
      { t with sliceHeld := mset (portOf c) (t.cyc + n, c.g * 32 + c.wi + 1) t.sliceHeld, elapse := t.elapse.tail }
  | o => o

/-- Locked parties that must issue at this cycle. -/
def lockedReady (s : State) : List (Nat × Nat) := (partiesOf s fun l => l.card.regime == 2).filter fun e => turnReady s e.1 e.2
/-- The records of traps that a state holds. -/
def trapRecords (s : State) : Nat := ((s.held.filter fun e => decide (2 ≤ e.1)).map fun e => e.2.length).foldl (· + ·) 0
/-- The party would trap at its turn. -/
def wouldTrap (s : State) (e : Nat × Nat) : Bool :=
  match s.ctxOf e.1 e.2 with
  | some c => match runTurn { s with turn := some e } c with
    | .next t => decide (trapRecords s < trapRecords t)
    | _ => false
  | none => false
/-- In a domain of one the launch halts in the cycle of a trap (R283, R284): the next party that traps in it too. -/
def lockedTrap (s : State) : Option (Nat × Nat) :=
  let now := s.launches.map fun e => if e.2.haltAt = some s.cyc then (e.1, { e.2 with haltAt := none }) else e
  (lockedReady { s with launches := now }).find? (wouldTrap s)

/-- An event that its rule lets happen now, and the state after it; none where nothing happens. -/
def attempt (i : Instr) (s : State) : Option State :=
  match i with
  | .waveIssueTurn g w => tryWaveIssueTurn g w s
  | .resultArrival g w k => tryResultArrival g w k s
  | .deferredResultArrival g w k => tryDeferredResultArrival g w k s
  | .trapGroupSave g => tryTrapGroupSave g s
  | .trapRecordPost part => tryTrapRecordPost part s
  | .relIncrement r => tryRelIncrement r s
  | .mwaitWake g w => tryMwaitWake g w s
  | .bankRequest r => tryBankRequest r s
  | .localStoreRequest r => tryLocalStoreRequest r s
  | .bankRetentionEntry cluster bank => tryBankRetentionEntry cluster bank s
  | .correctionWriteback word => tryCorrectionWriteback word s
  | .fretCommit launch => tryFretCommit launch s
  | .intakeCardRead part => tryIntakeCardRead part s
  | .cardDispatch launch => tryCardDispatch launch s
  | .groupPlacement launch cluster => tryGroupPlacement launch cluster s
  | .stealRequest launch cluster => tryStealRequest launch cluster s
  | .stealRetryTimer launch cluster => tryStealRetryTimer launch cluster s
  | .terminationTokenPass launch => tryTerminationTokenPass launch s
  | .cardCompletion launch => tryCardCompletion launch s
  | .hostRecordPost queue => tryHostRecordPost queue s
  | .deadlineEvent launch => tryDeadlineEvent launch s
  | .preemption g => tryPreemption g s
  | .groupRestore g => tryGroupRestore g s
  | .copyPieceTransfer copy piece => tryCopyPieceTransfer copy piece s
  | .faultRecordPost part => tryFaultRecordPost part s
  | .matrixCommandStart cluster => tryMatrixCommandStart cluster s
  | .matrixCommandCompletion cluster num => tryMatrixCommandCompletion cluster num s
  | .stampedCommandStart cluster num => tryStampedCommandStart cluster num s
  | .flitSourceRead send k => tryFlitSourceRead send k s
  | .flitSend send k => tryFlitSend send k s
  | .flitLanding f => tryFlitLanding f s
  | .collision f flits => tryCollision f flits s
  | .linkError f flits => tryLinkError f flits s
  | .bestEffortFlit f => tryBestEffortFlit f s
  | .lockedHalt launch => tryLockedHalt launch s
  | .receiveWindowClose launch => tryReceiveWindowClose launch s
  | .holdRequest cycles => tryHoldRequest cycles s
  | .tuneInsertionEnd launch => tryTuneInsertionEnd launch s
  | .tuneMismatch tag => tryTuneMismatch tag s
  | .timebaseEvent code delta => tryTimebaseEvent code delta s
  | .portFailure port => tryPortFailure port s
  | .rdmaWrite pk => tryRdmaWrite pk s
  | .rdmaRead pk => tryRdmaRead pk s
  | .qpRetryExhausted qp => tryQpRetryExhausted qp s
  | .qdescStateRun q => tryQdescStateRun q s
  | .qdescStateOff q => tryQdescStateOff q s
  | .stripStart launch => tryStripStart launch s
  | .stripDeadline launch => tryStripDeadline launch s
  | .binningPrimitive launch => tryBinningPrimitive launch s
  | .primaryRayTrace launch tile => tryPrimaryRayTrace launch tile s
  | .tileVisibilityFinal launch tile => tryTileVisibilityFinal launch tile s
  | .rayRest ray => tryRayRest ray s
  | .textureServe g w k => tryTextureServe g w k s
  | .tableStoreLoad cluster => tryTableStoreLoad cluster s
  | .entrySkip head => tryEntrySkip head s
  | .displayLineFetch display => tryDisplayLineFetch display s
  | .encoderStripCopy encoder => tryEncoderStripCopy encoder s
  | .tileRowCode encoder coded => tryTileRowCode encoder coded s
  | .scrubComplete granule => tryScrubComplete granule s
  | .tlbinvComplete part => tryTlbinvComplete part s
  | .checkpointFlit f => tryCheckpointFlit f s
  | .heartbeatMiss pkg => tryHeartbeatMiss pkg s
  | .childCardRead child => tryChildCardRead child s
  | .tileStart launch tile => tryTileStart launch tile s
  | .launchStartCycle launch => tryLaunchStartCycle launch s
  | .teardownComplete part => tryTeardownComplete part s
  | .mappingUpdate => tryMappingUpdate s
  | .holdAnnounce => tryHoldAnnounce s
  | .holdStart => tryHoldStart s
  | .holdEnd => tryHoldEnd s
  | .regrd => tryRegrd s
  | .regwr => tryRegwr s
  | .attest => tryAttest s
  | .locate => tryLocate s
  | .grpctlResume => tryGrpctlResume s
  | .killgroup => tryKillgroup s
  | .killcard => tryKillcard s
  | .preempt => tryPreempt s
  | .dplink => tryDplink s
  | .memwr => tryMemwr s
  | .memrd => tryMemrd s
  | .checkpointAnnounce => tryCheckpointAnnounce s
  | .checkpoint => tryCheckpoint s
  | .checkpointEnd => tryCheckpointEnd s
  | .recovery => tryRecovery s
  | .throttleRestore => tryThrottleRestore s
  | .bringUp => tryBringUp s
  | _ =>
    match exec i s with
    | .next t => some t
    | _ => none

/-- The first event of a list that can happen now. -/
def firstEvent (s : State) (is : List Instr) : Option State := is.findSome? fun i => attempt i s

/-- An event would halt a launch by a trap. -/
def startTraps (s : State) (i : Instr) : Bool :=
  match attempt i s with
  | some t => decide (trapRecords s < trapRecords t)
  | none => false
/-- The halt of a launch in a domain of one comes after what traps in its cycle, and before what starts or issues in it (R283, R284). -/
def haltNow (s : State) : Option State :=
  if s.lfab ≠ 0 then none else
  (firstEvent s ((startEvents s).filter (startTraps s))).orElse fun _ =>
    match lockedTrap s with
    | some e => some { s with turn := some e }
    | none => firstEvent s (haltEvents s)

/-- What has a fixed cycle: the events, the halts, what starts, and the locked party whose turn it is. -/
def runTimed (s : State) : Option State :=
  (claimWaiting s).orElse fun _ => (firstEvent s (timedEvents s)).orElse fun _ => (haltNow s).orElse fun _ => (firstEvent s (startEvents s)).orElse fun _ =>
    (lockedReady s).head?.map fun e => { s with turn := some e }
/-- The machine's other events: an input that waits for a bank, and those of `freeEvents`. -/
def runOpen (s : State) : Option State := (serveInbox s).orElse fun _ => firstEvent s (freeEvents s)

/-- What the machine does before time passes: its other events, the next ready party, and what ends a cycle. -/
def runReady (s : State) : Option State :=
  (runOpen s).orElse fun _ => ((elasticNext s).map fun e => { s with turn := some e }).orElse fun _ => firstEvent s (lateEvents s)
/-- The step without a turn: fixed cycles first, then, where no cycles are owed, the inputs and orders given from outside, the machine's other
events, the next ready party, and time. -/
def runFree (s : State) : State :=
  match runTimed s with
  | some t => t
  | none =>
  match (if s.owed = 0 then s.agenda else []) with
  | i :: rest =>
    let s := takeElapse { s with agenda := rest } 0
    match exec i s with
    | .next t => t
    | _ => s
  | [] =>
  match runReady s with
  | some t => t
  | none =>
    let s := if s.owed = 0 then takeElapse s 1 else s
    tick s s.owed

end Sys2Proof.Machine
end

