-- ==== Sys2Proof/Machine/Step.lean ====
section
/-! DEFINITION. One step of the module: the instruction of the party that holds the turn, or the next of the machine's own events, or the
passing of cycles (`Run`). -/

namespace Sys2Proof.Machine

/-- One step of the module. -/
def step (s : State) : Host.Outcome State Fault Refusal :=
  match s.turn with
  | none => .next (runFree s)
  | some e =>
    match s.ctxOf e.1 e.2 with
    | none => .next { s with turn := none }
    | some c => afterTurn s c (runTurn s c)

/-! ### A machine about to run one instruction -/

/-- Where `withFetchWord` puts the instruction: a virtual address, and the physical one it is mapped to. -/
def fetchVa : Nat := 0x1000
/-- The forms that only a control core issues (Tables 02-7 and 02-12). -/
def coreOnly : Instr → Bool
  | .mma _ _ _ | .mmac _ _ _ | .azero _ | .adrain _ _ _ | .aload _ _ _ | .msync _ | .hwait _ _ | .send _ _ _ | .recv _ _ _ | .halt | .at _ | .atv _
  | .waitc | .tune _ => true
  | _ => false

/-- The machine with one running card of one group of one wave (or, for a form of the control core, one control stream) in partition 0, the
word at its pc, and its turn: the very next step runs the word (log entry 13: how a program comes to run from reset). -/
def State.withFetchWord (s : State) (_nbits w : Nat) : State :=
  let lid := mfresh s.launches
  let g := mfresh s.groups
  let core := match decode (BitVec.ofNat 32 w) with | .ok i => coreOnly i | .error _ => false
  let card : Card := { (default : Card) with laneEntry := fetchVa, controlEntry := if core then fetchVa else 0, groups := 1, wavesPerGroup := 1, regs := 128
                                             gmemKib := 64, queue := 1, head := 0xFFFF, flags := 16 }
  let l := { Launch.fresh card 0 false 0 0 0 lid none with status := .running, made := 1, streams := if core then 1 else 0 }
  let x := if core then streamGroup lid l 0 .resident else { newGroup lid l 0 0 0 0 with status := .resident }
  let entry : TlbEntry := { part := 0, ctx := 0, base := fetchVa, size := 4096, pa := fetchVa, r := true, w := true, x := true }
  { s with
    launches := mset lid l s.launches, groups := mset g x s.groups, clusters := mset 0 { s.cluster 0 with claim := some lid } s.clusters
    turn := some (g, 0), tlb := entry :: s.tlb
    mem := s.mem.store (Base.lpddr + fetchVa) 4 w
    -- partition 0 is the tile of cluster 0, with context 0 on, and owns granule 0
    bar := ((s.bar.store (pcfgOff 0) 5 (2 ^ 34 + 2 ^ 24 + 2 ^ 16)).store (ctxOff 0 0) 1 1).store (mownOff 0) 1 0x40 }

end Sys2Proof.Machine
end

