-- ==== Sys2Proof/Safety.lean ====
section
/-! DEFINITION. What counts as a safe run: the module keeps its byte arrays and its register space in the one canonical form, and no step stops. -/

namespace Sys2Proof.Safety
open Sys2Proof.Machine

/-- The arrays and BAR0 are in canonical form (equal contents are equal data). -/
def MemoryOk (s : State) : Prop := s.mem.wf = true ∧ s.bar.wf = true
/-- A step that goes on. -/
def StepOk (s : State) : Prop := ∃ t, step s = .next t
/-- A run of n steps that goes on to the end. -/
def RunOk : Nat → State → Prop
  | 0, s => MemoryOk s
  | n + 1, s => MemoryOk s ∧ ∃ t, step s = .next t ∧ RunOk n t

end Sys2Proof.Safety
end

