-- ==== Sys2Proof/Certificates/Slice0/Obligations.lean ====
section
/-! DEFINITION. The statements of the ZD8 model: what decoding, a step, each instruction and each event of the machine do, from the numbered
rules of the spec. A statement's docstring names its rules; `Rules` holds the words that several statements share. -/

open Sys2Proof Sys2Proof.Machine

namespace Sys2Proof.Rules

/-! ### The words that the statements share -/

/-- A party that may issue an instruction now: it holds the turn, no result due at its slot is faulty or missing (R106, R110), it has not ended
its fret (R232), its mask is not empty (R51), and no stored word has wrong check bits (R204). -/
structure Ready (s : State) (c : Ctx) : Prop where
  issuer : s.issuer = some c
  sound : c.w.faulty = none
  arrived : c.w.late = false
  fret : (c.ordered && c.w.fretEnded) = false
  active : c.w.active ≠ 0
  clean : s.eccBad = []

/-- Nothing that the party issued earlier in this fret stands before an instruction that waits (R232): outside the ordered regime always. -/
def FretStart (c : Ctx) : Prop := c.ordered = false ∨ c.w.retired = 0 ∨ c.w.fretChecked = true

/-- The register operands of an instruction are legal for its issuer (R49). -/
def Legal (c : Ctx) (us : List Use) : Prop :=
  ∀ u ∈ us, u.reg.toNat % u.align = 0 ∧ u.reg.toNat + u.n ≤ if c.isCore then 128 else c.card.regs

/-- The register file's injector of the issuer's cluster is not armed (R209). -/
def Unarmed (s : State) (c : Ctx) : Prop := s.barFlag (elogOff 1 c.grp.cluster + 0x410) 72 = false

/-- The instruction takes its slot (R81): the state t with the wave w goes on, after `occ` cycles of the slice in the locked regime. -/
def goesOn (t : State) (c : Ctx) (w : Wave) (occ : Nat := 8) : Host.Outcome State Fault Refusal := .next (t.retire c w occ)
/-- The instruction traps (R109). -/
def traps (s : State) (c : Ctx) (ti : TrapInfo) : Host.Outcome State Fault Refusal := .next (s.takeTrap c ti)
/-- Codes of a word that the tables of 02 assign: class, P, opcode (op7, op5 or op4) and the code in vb (Tables 02-2 to 02-12). -/
def assigned (p : Bool) (cls op vb : Nat) : Bool :=
  let within (lo hi : Nat) : Bool := decide (lo ≤ op) && decide (op ≤ hi)
  match cls with
  | 0 => within 0x00 0x1C || within 0x20 0x28 || (op == 0x30 && decide (vb ≤ 0x0D)) ||
      (op == 0x60 && decide (vb ≤ 28)) || (op == 0x61 && (vb == 17 || vb == 26 || vb == 27)) || op == 0x62 ||
      (!p && (within 0x40 0x44 || (op == 0x45 && decide (vb ≤ 2)) || within 0x46 0x47 || (within 0x48 0x49 && decide (vb ≤ 0x0B)) ||
        (op == 0x4A && decide (vb ≤ 3))))
  | 1 => within 0x00 0x08 || within 0x10 0x18 || within 0x30 0x37 || (op == 0x40 && decide (vb ≤ 0x0D)) ||
      (op == 0x41 && (decide (vb ≤ 0x04) || (decide (0x09 ≤ vb) && decide (vb ≤ 0x0D)))) ||
      (op == 0x48 && (decide (vb ≤ 0x0D) || (decide (0x10 ≤ vb) && decide (vb ≤ 0x1D)) || (decide (0x20 ≤ vb) && decide (vb ≤ 0x27)))) ||
      within 0x4D 0x4E || (!p && (within 0x20 0x28 || within 0x49 0x4C))
  | 2 => if p then
        within 0x00 0x04 || within 0x10 0x17 || op == 0x20 || within 0x28 0x2B || within 0x30 0x31 || within 0x38 0x3A || within 0x40 0x41
      else
        within 0x00 0x03 || within 0x08 0x09 || within 0x10 0x14 || within 0x18 0x19 || (op == 0x1A && decide (vb ≤ 5)) || within 0x1C 0x1E ||
          (op == 0x20 && decide (vb ≤ 4)) || within 0x21 0x22 || within 0x40 0x5E || within 0x60 0x61 || op == 0x68 || within 0x70 0x73 ||
          within 0x78 0x7B
  | 4 => decide (op ≤ 0x0C)
  | 5 => decide (op ≤ if p then 0x0B else 0x0C)
  | 6 => decide (op ≤ 4) || (op == 5 && !p) || (op == 6 && p)
  | 7 => if p then op == 0x00 || within 0x02 0x03 || (op == 0x0C && decide (vb % 8 ≤ 5)) || within 0x0D 0x0F || op == 0x11 || within 0x20 0x24
      else within 0x00 0x05 || within 0x08 0x0B || (op == 0x0C && decide (vb % 8 ≤ 5)) || within 0x0D 0x14
  | _ => false
/-- The unused bits of an assigned word, as (lowest bit, how many): R45, R53-R63 and Table 02-12. -/
def unused (p : Bool) (cls op : Nat) : List (Nat × Nat) :=
  let vd := (14, 7)
  let va := (7, 7)
  let vb := (0, 7)
  match cls, op, p with
  | 0, 0x46, _ | 0, 0x47, _ => [vb]
  | 0, 0x60, _ => [va]
  | 0, 0x61, _ => [vd]
  | 0, 0x62, _ => [va, vb]
  | 2, 0x08, false => [(18, 3)]
  | 2, 0x20, false => [va]
  | 2, 0x21, false | 2, 0x22, false => [vd]
  | 2, 0x00, true => [vd, vb]
  | 2, 0x01, true | 2, 0x02, true | 2, 0x2A, true | 2, 0x2B, true => [vd]
  | 2, 0x03, true | 2, 0x38, true => [va, vb]
  | 2, 0x04, true => [va]
  | 2, 0x10, true => [(18, 3)]
  | 2, 0x11, true => [(18, 3), va, vb]
  | 2, 0x12, true | 2, 0x13, true | 2, 0x15, true | 2, 0x16, true => [(19, 2)]
  | 2, 0x14, true => [(19, 2), va, vb]
  | 2, 0x17, true => [vd, va]
  | 2, 0x20, true => [(18, 3), va]
  | 2, 0x39, true | 2, 0x3A, true => [vd, va, vb]
  | 2, 0x40, true => [(16, 5)]
  | 2, 0x41, true => [(16, 5), vb]
  | 2, k, false => if 0x50 ≤ k ∧ k ≤ 0x5E ∨ 0x78 ≤ k ∧ k ≤ 0x7B then [vd] else []
  | 6, 0x02, _ | 6, 0x05, _ => [(17, 7)]
  | 6, 0x04, _ => [(0, 17)]
  | 7, 0x02, _ | 7, 0x03, _ | 7, 0x24, _ => [(16, 5)]
  | 7, 0x08, _ | 7, 0x09, _ | 7, 0x0A, _ | 7, 0x10, _ | 7, 0x11, _ => [(4, 17)]
  | 7, 0x0C, _ => [(3, 18)]
  | 7, 0x0D, _ => [(14, 7)]
  | 7, 0x0E, _ => [vd, vb]
  | 7, 0x0F, _ | 7, 0x21, _ => []
  | 7, 0x12, _ => [(1, 20)]
  | 7, 0x22, _ => [(7, 14)]
  | 7, _, _ => [(0, 21)]
  | _, _, _ => []

/-- The issuer's wave with a result on its way: the entry lands `dist` slots on (R103, R104). -/
def withLanding (s : State) (c : Ctx) (dist width : Nat) (mask : BitVec 32) (what : LandWhat) (flags : List (Nat × BitVec 5)) : Wave :=
  c.next.push (landing s c dist width mask what flags)

end Sys2Proof.Rules
open Sys2Proof.Rules

/-! ### Words and instructions (02) -/

/-- Words that the spec assembles decode to what it assembled them from. -/
def Obligations.WordsDecodeAsTabled : Prop :=
  decode 0x00014307#32 = .ok (.intArithLogic .add32 5 6 7) ∧
  decode 0x80014307#32 = .ok (.uintArithLogic .add32 5 6 7) ∧
  decode 0x1062858C#32 = .ok (.fp32Arith .fma 10 11 12) ∧
  decode 0x18004100#32 = .ok (.fp32Function .abs 1 2) ∧
  decode 0x4003FFFE#32 = .ok (.immediate .lim 3 0xFFFE) ∧
  decode 0x5410080A#32 = .ok (.lds .w1 8 2 10) ∧
  decode 0x6003FFFD#32 = .ok (.braBrz false 1 0x1FFFD) ∧
  decode 0x71800003#32 = .ok (.fence .die) ∧
  decode 0x70800000#32 = .ok .join ∧
  decode 0x00000000#32 = .ok (.intArithLogic .add32 0 0 0) ∧
  -- the divergence example of 03
  decode 0x65000006#32 = .ok (.mark 6) ∧ decode 0x60020003#32 = .ok (.braBrz false 1 3) ∧
  decode 0x40820064#32 = .ok (.immediate .limz 2 100) ∧ decode 0x408200C8#32 = .ok (.immediate .limz 2 200) ∧ decode 0x70000000#32 = .ok .nop ∧
  -- the kernel of R80
  decode 0x0C000001#32 = .ok (.rds 0 1) ∧ decode 0x00404000#32 = .ok (.intArithLogic .mul32 1 0 0) ∧
  decode 0x40820000#32 = .ok (.immediate .limz 2 0) ∧ decode 0x41024000#32 = .ok (.immediate .limh 2 0x4000) ∧
  decode 0x0600C000#32 = .ok (.unary .mov 3 0) ∧ decode 0x43830002#32 = .ok (.immediate .shli 3 2) ∧
  decode 0x0000C182#32 = .ok (.intArithLogic .add32 3 3 2) ∧ decode 0x55020C00#32 = .ok (.sts .w1 1 3 0) ∧ decode 0x70200000#32 = .ok .exit

/-- Decoding an instruction's word gives the instruction: no operand bit is dropped and no two encodings overlap (02 Tables 02-1 to 02-12). -/
def Obligations.DecodeInvertsEncode : Prop :=
  ∀ (i : Instr) (w : BitVec 32), i.wellFormed = true → encode i = some w → decode w = .ok i

/-- A word that decodes has 0 in every unused field (R45, R66): it is the encoding of its instruction, and the only word that decodes to it. -/
def Obligations.DecodedWordIsTheEncoding : Prop :=
  ∀ (i : Instr) (w : BitVec 32), decode w = .ok i →
    i.wellFormed = true ∧ encode i = some w ∧ ∀ v, decode v = .ok i → v = w

/-- Words of Table 02-13 that no issuer runs: class 011; every code that Tables 02-2 to 02-12 leave unassigned; every assigned word with a bit in
an unused field. -/
def Obligations.ReservedWordsAreRefused : Prop :=
  ∀ w : BitVec 32,
    let n := w.toNat
    let p := w.getLsbD 31
    let cls := n / 2 ^ 28 % 8
    let op := if cls = 4 then n / 2 ^ 23 % 32 else if cls = 5 ∨ cls = 6 then n / 2 ^ 24 % 16 else n / 2 ^ 21 % 128
    (cls = 3 → ∃ e, decode w = .error e) ∧
    (assigned p cls op (n % 128) = false → ∃ e, decode w = .error e) ∧
    ∀ f ∈ unused p cls op, n / 2 ^ f.1 % 2 ^ f.2 ≠ 0 → ∃ e, decode w = .error e

/-! ### Steps and reset -/

/-- The step of a party whose pc holds the word of i is exec of i (R44); afterwards its port is held for the cycles that the model draws (log
entry 4). A control core's fetch passes its stream cache, whose check bits the state t' holds (R270; log entry 106), and every fetch the first-level TLB of its engine (R449); the second clause is the
control core of a locked launch, which fetches from its loaded stream cache. -/
def Obligations.StepRunsDecodedInstruction : Prop :=
  ∀ (s : State) (c : Ctx) (i : Instr), s.issuer = some c →
    (∀ (t : State) (a : Nat), (c.locked && c.isCore) = false →
      s.xlate c.part c.l.ctx c.w.pc.toNat .fetch (State.engineOf c.grp.cluster 4) = (.pa a, t) → t.mainPoison a 4 = 0 →
      let t' := if c.isCore then t.copyRead (Base.stream c.grp.cluster + c.w.pc.toNat % 16384) c.who else t
      comparatorFires t' c = none → decode (BitVec.ofNat 32 (t.mainLoad c.part a 4)) = .ok i → step s = afterTurn s c (exec i t')) ∧
    ((c.locked && c.isCore) = true → c.card.controlEntry ≤ c.w.pc.toNat → c.w.pc.toNat < c.card.controlEntry + 16384 → s.eccBad = [] →
      comparatorFires s c = none →
      decode (BitVec.ofNat 32 (ofBytes (s.mem.bytes (Base.stream c.grp.cluster + (c.w.pc.toNat - c.card.controlEntry)) 4))) = .ok i →
      step s = afterTurn s c (exec i s))

/-- The machine never stops: what an instruction may not do is a trap, and a trap is taken (R66, R109). -/
def Obligations.StepNeverStops : Prop := ∀ s : State, ∃ t, step s = .next t

/-- After reset: CYC 0, no launch, group or command, bring-up status 1, PCAP 1,600, nothing enabled (R10, R26, R458, R471, R475). What the arrays
read as is the model's choice (log entry 3), as is the numbering of the status (log entry 71). That unwritten bytes read as 0, that
CAPS shows every unit enabled, and the domain of one before bring-up are the model's too (log entries 7, 9 and 86). -/
def Obligations.ResetStateIsAsSpecified : Prop :=
  State.reset.cyc = 0 ∧ State.reset.turn = none ∧ State.reset.launches = [] ∧ State.reset.groups = [] ∧ State.reset.copies = [] ∧
  State.reset.mem = [] ∧ State.reset.eccBad = [] ∧ State.reset.tlb = [] ∧
  State.reset.bar.load 0 4 = 1 ∧ State.reset.bar.load 0x119000 2 = 1600 ∧
  (∀ p < 64, State.reset.partEn p = false) ∧ (∀ p < 64, ∀ k < 16, State.reset.barFlag (ctxOff p k) 0 = false) ∧
  (∀ q < 1024, State.reset.barFlag (qcfgOff q) 6 = false) ∧ (∀ n < 256, queueState State.reset n = 0) ∧
  (∀ h < 132, ringEn State.reset h = false) ∧ (∀ n < 1024, pairState State.reset n = 0)

/-- The invariant of `StepKeepsMemoryCanonical` holds at reset. The one list of arrays, and what an unlisted byte reads as, are the model's (log
entries 1 and 7). -/
def Obligations.ResetMemoryIsCanonical : Prop := Safety.MemoryOk State.reset

namespace Sys2Proof.Rules

/-! ### Lane forms and uniform forms that only write registers (R50) -/

/-- A register-writing form: its operands, destination and words, landing distance (Table 04-3), cycles of the slice (R81), and the value and
flags it gives in a thread. -/
structure Row where
  uses : List Use
  d : Reg
  words : Nat
  dist : Nat
  occ : Nat
  value : Ctx → Nat → Nat × FFlags

/-- Landing distance of a function of F 40 (Table 04-3). -/
def functionSlots (f : FpFn) (short long : Nat) : Nat := if f ∈ [.sqrt, .rcp, .rsq, .exp2, .log2, .sin, .cos] then long else short
/-- The rows that have a lane form and a uniform form. -/
def commonRow : Instr → Option Row
  | .intArithLogic o d a b | .uintArithLogic o d a b =>
    some ⟨intUses o d a b, d, intWords o, if o = .mul64 then 2 else 1, 8, intResult o d a b⟩
  | .divRem o d a b | .udivRem o d a b => some ⟨[w1 d, r1 a, r1 b], d, 1, 6, 8, divResult o a b⟩
  | .sel d a b | .usel d a b => some ⟨[r1 d, r1 a, r1 b], d, 1, 1, 8, selResult d a b⟩
  | .setCompare o d a b | .usetCompare o d a b => some ⟨cmpUses o d a b, d, 1, 1, 8, cmpResult o a b⟩
  | .unary f d a | .uunary f d a => some ⟨unaryUses f d a, d, if f = .mov64 ∨ f = .neg64 then 2 else 1, 1, 8, unaryResult f a⟩
  | .fp32Arith o d a b | .ufp32Arith o d a b =>
    some ⟨[{ reg := d, src := isFma o }, r1 a, r1 b], d, 1, if o = .div then 3 else 1, 8, fp32Result o d a b⟩
  | .fp64Arith o d a b | .ufp64Arith o d a b =>
    some ⟨[{ reg := d, n := 2, align := 2, src := isFma o }, r2 a, r2 b], d, 2, if o = .div then 6 else 2, 16, fp64Result o d a b⟩
  | .fpCompare wide k d a b | .ufpCompare wide k d a b =>
    some ⟨fpCmpUses wide d a b, d, 1, if wide then 2 else 1, if wide then 16 else 8, fpCmpResult wide k a b⟩
  | .fp32Function f d a | .ufp32Function f d a => some ⟨[w1 d, r1 a], d, 1, functionSlots f 1 3, 8, fn32Result f a⟩
  | .fp64Function f d a | .ufp64Function f d a =>
    some ⟨fn64Uses f d a, d, if f = .fclass then 1 else 2, if f ∈ [.sqrt, .rcp, .rsq] then 6 else 2, 16, fn64Result f a⟩
  | .cvt k d a | .ucvt k d a => some ⟨cvtUses k d a, d, CvtFmt.words k.dst, 2, if k.src = .f64 ∨ k.dst = .f64 then 16 else 8, cvtResult k a⟩
  | .fscl wide d a b | .ufscl wide d a b =>
    some ⟨fsclUses wide d a b, d, if wide then 2 else 1, if wide then 2 else 1, if wide then 16 else 8, fsclResult wide a b⟩
  | .immediate o d i | .uimmediate o d i => some ⟨[{ reg := d, src := ImmOp.readsOld o }], d, 1, 1, 8, immResult o d i⟩
  | _ => none
/-- The instruction is a uniform form of such a row. -/
def isUniform : Instr → Bool
  | .uintArithLogic _ _ _ _ | .udivRem _ _ _ _ | .usel _ _ _ | .usetCompare _ _ _ _ | .uunary _ _ _ | .ufp32Arith _ _ _ _
  | .ufp64Arith _ _ _ _ | .ufpCompare _ _ _ _ _ | .ufp32Function _ _ _ | .ufp64Function _ _ _ | .ucvt _ _ _ | .ufscl _ _ _ _
  | .uimmediate _ _ _ => true
  | _ => false
/-- The difference of a quad's two threads, as FSUB.f32 (R144). -/
def quadDifference (f : QswzFn) (a : Reg) (c : Ctx) (t : Nat) : Nat × FFlags :=
  Fp.sub Fp.f32 (env32 c.w) (c.w.reg (quadPair f t).1 a.toNat).toNat (c.w.reg (quadPair f t).2 a.toNat).toNat
/-- WSCAN of a thread (R146) with the flags of the tree and of every active thread's combinations (R147). -/
def scanOf (f : WaveFn) (a : Reg) (c : Ctx) (t : Nat) : Nat × FFlags :=
  ((scanResult f c (waveTree f a c).1 t).1, (waveTree f a c).2 ||| orFlags (c.active.map fun u => (scanResult f c (waveTree f a c).1 u).2))
/-- The rows that exist only as lane forms. -/
def laneRow : Instr → Option Row
  | .shfl m d a b => some ⟨[w1 d, r1 a, r1 b], d, 1, 2, 8, fun c t =>
      ((c.w.reg (shflSource m t ((c.w.reg t b.toNat).toNat % 32)) a.toNat).toNat, 0)⟩
  | .bcast d a b => some ⟨[w1 d, r1 a, r1 b], d, 1, 2, 8, fun c _ => ((c.w.reg ((c.w.reg c.leader b.toNat).toNat % 32) a.toNat).toNat, 0)⟩
  | .vote f d a => some ⟨[w1 d, r1 a], d, 1, 2, 8, fun c _ => (voteResult f a c, 0)⟩
  | .matchv wide d a => some ⟨[w1 d, if wide then r2 a else r1 a], d, 1, 2, 8, fun c t =>
      ((maskOf ((contributors c).filter fun u => operand c.w u a (if wide then 2 else 1) == operand c.w t a (if wide then 2 else 1))).toNat, 0)⟩
  | .wred f d a => some ⟨waveUses f d a, d, WaveFn.words f, 3, 8, fun c _ => wredResult f a c⟩
  | .wscan f d a => some ⟨waveUses f d a, d, WaveFn.words f, 3, 8, scanOf f a⟩
  | .qswz f d a => some ⟨[w1 d, r1 a], d, 1, 3, 8, quadDifference f a⟩
  | .packedHalf o d a b => some ⟨[{ reg := d, src := HalfOp.readsOld o }, r1 a, r1 b], d, 1, 2, 8, halfResult o d a b⟩
  | .dot4 f d a b => some ⟨[r1 d, r1 a, r1 b], d, 1, 2, 8, dot4Result f d a b⟩
  | .pack f d a b => some ⟨[{ reg := d, src := PackFmt.readsOld f }, r1 a, r1 b], d, 1, 2, 8, packResult f d a b⟩
  | i => if isUniform i then none else commonRow i
/-- The rows of the uniform forms. -/
def uniformRow (i : Instr) : Option Row := if isUniform i then commonRow i else none

/-- The words of a lane form's result: each active thread's own (R50). -/
def laneWords (c : Ctx) (r : Row) : List (Nat × Word) := c.active.flatMap fun t => resultWords r.d.toNat r.words t (r.value c t).1
/-- The flags of a lane form's result: those of the active threads that raised any (R128). -/
def laneFlags (c : Ctx) (r : Row) : List (Nat × BitVec 5) := (c.active.filter fun t => (r.value c t).2 != 0).map fun t => (t, (r.value c t).2)
/-- The words of a uniform form's result: the leader's, in every thread (R50). -/
def uniformWords (c : Ctx) (r : Row) : List (Nat × Word) := c.all.flatMap fun t => resultWords r.d.toNat r.words t (r.value c c.leader).1
/-- The flags of a uniform form, raised in every thread. -/
def uniformFlags (c : Ctx) (r : Row) : List (Nat × BitVec 5) :=
  if (r.value c c.leader).2 = 0 then [] else c.all.map fun t => (t, (r.value c c.leader).2)

/-- How an instruction may issue (R49, R58, R63, R66, R67): a lane form, which only a wave issues; a form that only a control core issues; its
register operands; and that a wave of a locked launch may not issue it. -/
structure Shape where
  lane : Bool
  core : Bool
  uses : List Use
  regime : Bool
/-- A register, a pair, or four of them. -/
def operandOf (words : Nat) (r : Reg) : Use := { reg := r, n := words, align := words }
/-- Words of an atomic's operand (Table 06-1). -/
def atomWords (o : AtomOp) : Nat :=
  if o ∈ [.add64, .addf64, .fmin64, .fmax64, .min64, .max64, .minu64, .maxu64] then 2 else 1
/-- Words of a scratchpad access (Table 05-2). -/
def accessWords : MemWidth → Nat
  | .w1 => 1 | .w2 => 2 | .w4 => 4
/-- Lane forms beside those of `laneRow`. -/
def laneShape (i : Instr) : Option Shape :=
  let lane (us : List Use) : Option Shape := some ⟨true, false, us, false⟩
  let barred (us : List Use) : Option Shape := some ⟨true, false, us, true⟩
  let texture (n align : Nat) (d a b : Reg) : Option Shape :=
    barred [{ reg := d, n := 5, align := 4 }, { reg := a, n := n, align := align }, r2 b]
  match i with
  | .nop | .exit | .trap _ | .brk _ | .join | .regang | .bar _ | .bara _ | .barw _ | .gbar | .fence _ | .waitt _ | .hsig _ | .ordb _ | .orde
  | .frete | .jmp _ | .mark _ => lane []
  | .rds a _ | .wrs a _ | .flgrd a | .braBrz _ a _ | .call a _ | .ret a | .rel a => lane [r1 a]
  | .acq a b | .spl a b _ | .sps a b _ | .owr _ a b | .pixw a b | .srate a b => lane [r1 a, r1 b]
  | .bind a b d | .ldgxStsx _ d a b | .ord d a b | .qsamp d a b | .qraw d a b => lane [r1 d, r1 a, r1 b]
  | .qsampd d a b | .tkarg d a b => lane [r2 d, r1 a, r1 b]
  | .visq d _ => lane [r2 d]
  | .ldg wide d a _ | .stg wide d a _ => lane [operandOf (if wide then 2 else 1) d, r1 a]
  | .lds w d a _ | .sts w d a _ => lane [operandOf (accessWords w) d, r1 a]
  | .atom o d a b | .atom64 o d a b => lane [operandOf (atomWords o) d, r1 a, operandOf (atomWords o) b]
  | .red o a b | .red64 o a b => lane [r1 a, operandOf (atomWords o) b]
  | .cas wide d a b => lane [operandOf (if wide then 2 else 1) d, r1 a, operandOf (if wide then 2 else 1) b]
  | .mwait d a _ => barred [r1 d, r1 a]
  | .trace d a b => barred [r2 d, { reg := a, n := 12, align := 4 }, r2 b]
  | .hitr d a _ => barred [r2 d, r1 a]
  | .resume d a b => barred [r1 d, r1 a, r1 b]
  | .sample d a b => texture 3 4 d a b
  | .samplel d a b | .gath4 d a b => texture 4 4 d a b
  | .sampleg d a b => texture 7 4 d a b
  | .txq d a b => texture 1 1 d a b
  | _ => none
/-- Uniform forms beside those of `uniformRow`, which waves and control cores issue. -/
def uniformShape (i : Instr) : Option Shape :=
  let both (us : List Use) : Option Shape := some ⟨false, false, us, false⟩
  let eight (r : Reg) : Use := operandOf 8 r
  match i with
  | .unop | .utrap _ | .ubrk _ | .ufence _ | .uhsig _ | .ujmp _ | .rpub | .rrel => both []
  | .urds a _ | .uwrs a _ | .uflgrd a | .ubraUbrz _ a _ | .ucall a _ | .uret a | .uloop a _ | .urel a | .close a | .hwait _ a | .qseed _ a => both [r1 a]
  | .uacq a b | .uspl a b _ | .usps a b _ | .waitb a b | .nqack a b | .nqrst a b => both [r1 a, r1 b]
  | .ubind a b d => both [r1 d, r1 a, r1 b]
  | .uldg wide d a _ | .ustg wide d a _ => both [operandOf (if wide then 2 else 1) d, r1 a]
  | .ulds w d a _ | .usts w d a _ => both [operandOf (accessWords w) d, r1 a]
  | .cpy a => both [eight a]
  | .cpyg a b | .cpys a b => both [eight a, r1 b]
  | .tkspawn d a b => both [r1 d, r2 a, r1 b]
  | .enq d a b => some ⟨false, false, [r1 d, r2 a, r1 b], true⟩
  | .rslot d => both [r2 d]
  | .qtab _ a b => both [r2 a, r1 b]
  | _ => none
/-- The forms of a control core. -/
def coreShape (i : Instr) : Option Shape :=
  let core (us : List Use) : Option Shape := some ⟨false, true, us, false⟩
  match i with
  | .orel _ | .azero _ | .halt | .at _ | .waitc | .tune _ => core []
  | .msync a => core [r1 a]
  | .atv a => core [r2 a]
  | .ores _ a b | .mma _ a b | .mmac _ a b | .adrain _ a b | .aload _ a b => core [r1 a, r1 b]
  | .send d a b | .recv d a b => core [r1 d, r1 a, r1 b]
  | _ => none
/-- The shape of an instruction; an event has none. -/
def shape (i : Instr) : Option Shape :=
  ((((laneRow i).map fun r => (⟨true, false, r.uses, false⟩ : Shape)).orElse fun _ =>
    (uniformRow i).map fun r => (⟨false, false, r.uses, false⟩ : Shape)).orElse fun _ => laneShape i).orElse fun _ =>
    (uniformShape i).orElse fun _ => coreShape i
/-- A party at the issue of an instruction, whatever its mask: it holds the turn, no result due at its slot is faulty or missing, and its fret has
not ended (R106, R110, R232). -/
structure AtIssue (s : State) (c : Ctx) : Prop where
  issuer : s.issuer = some c
  sound : c.w.faulty = none
  arrived : c.w.late = false
  fret : (c.ordered && c.w.fretEnded) = false

/-- What a register-writing instruction leaves alone: every array and register outside the issuer's wave, every other wave and group, and in
the wave its masks, stack and FP modes. Its group's gang records and its launch's slice turns are bookkeeping of the issue itself. -/
structure KeepsOutside (s t : State) (c : Ctx) : Prop where
  memory : ∀ a, t.mem.byte a = s.mem.byte a
  registers : t.bar = s.bar
  units : t.clusters = s.clusters ∧ t.parts = s.parts ∧ t.copies = s.copies ∧ t.reqs = s.reqs ∧ t.rels = s.rels ∧ t.rays = s.rays ∧
    t.rings = s.rings ∧ t.sends = s.sends ∧ t.windows = s.windows ∧ t.tlb = s.tlb ∧ t.tlb1 = s.tlb1 ∧ t.inbox = s.inbox ∧
    t.held = s.held ∧ t.out = s.out ∧ t.cyc = s.cyc
  groups : ∀ g, g ≠ c.g → mget g t.groups = mget g s.groups
  waves : ∀ wi, wi ≠ c.wi → t.wave c.g wi = s.wave c.g wi
  launches : ∀ l, (mget l t.launches).map (fun x : Launch => { x with turns := [] }) = (mget l s.launches).map fun x : Launch => { x with turns := [] }
  masks : ∀ w, t.wave c.g c.wi = some w → w.active = c.w.active ∧ w.live = c.w.live ∧ w.helper = c.w.helper ∧ w.stack = c.w.stack ∧
    w.rmode = c.w.rmode ∧ w.ftz = c.w.ftz ∧ w.deferred = c.w.deferred ∧ w.tickets = c.w.tickets ∧ w.buffer = c.w.buffer ∧
    w.batch = c.w.batch ∧ w.tokens = c.w.tokens ∧ w.epoch = c.w.epoch

end Sys2Proof.Rules

/-! ### Lane arithmetic (04) -/

/-- Completion of the 23 lane forms of `laneRow`: intArithLogic, divRem, sel, setCompare, unary, shfl, bcast, vote, matchv, wred, wscan, qswz,
fp32Arith, fp64Arith, packedHalf, dot4, fpCompare, fp32Function, fp64Function, cvt, pack, fscl, immediate (R50, R103, R104, R133-R160). -/
def Obligations.LaneFormsComplete : Prop :=
  ∀ (i : Instr) (r : Row) (s : State) (c : Ctx), laneRow i = some r → Ready s c → c.isCore = false → Legal c r.uses →
    exec i s = goesOn s.fresh c (withLanding s c r.dist (32 * r.words) c.w.active (.regs (laneWords c r)) (laneFlags c r)) r.occ

/-- Completion of the 13 uniform forms of `uniformRow`: uintArithLogic, udivRem, usel, usetCompare, uunary, ufp32Arith, ufp64Arith, ufpCompare,
ufp32Function, ufp64Function, ucvt, ufscl, uimmediate (R50, R81). -/
def Obligations.UniformFormsComplete : Prop :=
  ∀ (i : Instr) (r : Row) (s : State) (c : Ctx), uniformRow i = some r → Ready s c → Legal c r.uses →
    exec i s = goesOn s.fresh c (withLanding s c r.dist (32 * r.words) (maskOf c.all) (.regs (uniformWords c r)) (uniformFlags c r))

/-- Result and frame of a lane form of distance 1 (R103): the new value of every register and flag of the wave, and what stays. -/
def Obligations.ShortResultsAreVisibleNext : Prop :=
  ∀ (i : Instr) (r : Row) (s : State) (c : Ctx), laneRow i = some r → r.dist = 1 → Ready s c → Unarmed s c → c.isCore = false → Legal c r.uses →
    c.ordered = false → c.w.pend = [] →
    ∃ t w, exec i s = .next t ∧ t.wave c.g c.wi = some w ∧ w.pc = c.w.pc + 4 ∧ w.pend = [] ∧ w.slot = c.w.slot + 1 ∧
      (∀ th n, th < 32 → w.reg th n =
        if th ∈ c.active ∧ r.d.toNat ≤ n ∧ n < r.d.toNat + r.words then BitVec.ofNat 32 ((r.value c th).1 / 2 ^ (32 * (n - r.d.toNat)))
        else c.w.reg th n) ∧
      (∀ th, th < 32 → w.flags th = if th ∈ c.active then c.w.flags th ||| (r.value c th).2 else c.w.flags th) ∧
      KeepsOutside s t c

/-- The frame of the 36 forms of `laneRow` and `uniformRow`: a register changes only if a landing entry, the instruction's own or one still
pending, names it (R50, R104). -/
def Obligations.RegisterFormsKeepTheRest : Prop :=
  ∀ (i : Instr) (r : Row) (s t : State) (c : Ctx), laneRow i = some r ∨ uniformRow i = some r → Ready s c → Unarmed s c → Legal c r.uses →
    (laneRow i = some r → c.isCore = false) → (∀ e ∈ c.w.pend, ∃ v, e.what = .regs v) → exec i s = .next t →
    KeepsOutside s t c ∧
    ∀ w, t.wave c.g c.wi = some w → w.pc = c.w.pc + 4 ∧ ∀ th n, th < 32 →
      (∀ e ∈ c.w.pend, ∀ v, e.what = .regs v → ∀ x, (n * 32 + th, x) ∉ v) →
      ¬(r.d.toNat ≤ n ∧ n < r.d.toNat + r.words ∧ (th ∈ c.active ∨ laneRow i = none)) → w.reg th n = c.w.reg th n

/-- Landings (R103, R104, R106): one that is due is written, one that is not yet due waits; of two at one slot the later-issued stands; one that
has not arrived keeps those behind it back. -/
def Obligations.LandingsComeInOrder : Prop :=
  ∀ (w : Wave) (e f : Landing) (v u : List (Nat × Word)),
    (e.what = .regs v ∧ e.raise = [] ∧ e.nextFret = false ∧ e.ecc = none ∧ e.acqFail = none) →
    (f.what = .regs u ∧ f.raise = [] ∧ f.nextFret = false ∧ f.ecc = none ∧ f.acqFail = none) → e.id ≠ f.id →
    (w.pend = [e] → e.arrived = true → w.slot < e.slot → w.settle = w) ∧
    (w.pend = [e] → e.arrived = true → e.slot ≤ w.slot →
      w.settle = { w with pend := [], regs := v.foldl (fun r x => dset 0#32 x.1 x.2 r) w.regs }) ∧
    (w.pend = [e, f] → e.arrived = true → f.arrived = true → e.slot = f.slot → e.slot ≤ w.slot →
      w.settle = { w with pend := [], regs := u.foldl (fun r x => dset 0#32 x.1 x.2 r) (v.foldl (fun r x => dset 0#32 x.1 x.2 r) w.regs) }) ∧
    (w.pend = [e, f] → e.arrived = false → e.slot ≤ f.slot → e.slot ≤ w.slot → w.settle = w)

namespace Sys2Proof.Rules

/-! ### The values of the integer instructions, in numbers -/

/-- A 32-bit number's signed value. -/
def signed (x : Nat) : Int := sext x 32
/-- Table 04-5 on numbers below 2^32: a, b and the old destination c. -/
def intTable (o : IntOp) (a b c : Nat) : Nat :=
  let n := b % 64
  let off := b % 32
  let width := if b / 256 % 32 = 0 then 32 else b / 256 % 32
  let e := min width (32 - off)
  let m := (2 ^ e - 1) * 2 ^ off
  match o with
  | .add32 => (a + b) % 2 ^ 32
  | .sub32 => (a + (2 ^ 32 - b)) % 2 ^ 32
  | .mul32 => a * b % 2 ^ 32
  | .mulh32 => wrapInt 32 (signed a * signed b / 2 ^ 32)
  | .mulhu32 => a * b / 2 ^ 32
  | .mad32 => (a * b + c) % 2 ^ 32
  | .min32 => if signed a ≤ signed b then a else b
  | .max32 => if signed a ≤ signed b then b else a
  | .minu32 => min a b
  | .maxu32 => max a b
  | .and => Nat.land a b
  | .or => Nat.lor a b
  | .xor => Nat.xor a b
  | .andn => Nat.land a (2 ^ 32 - 1 - b)
  | .shl => if 32 ≤ n then 0 else a * 2 ^ n % 2 ^ 32
  | .shr => if 32 ≤ n then 0 else a / 2 ^ n
  | .sar => wrapInt 32 (signed a / 2 ^ n)
  | .rotl => (a * 2 ^ off + a / 2 ^ (32 - off)) % 2 ^ 32
  | .bfx => a / 2 ^ off % 2 ^ e
  | .bfxs => wrapInt 32 (sext (a / 2 ^ off) e)
  | .bfi => Nat.lor (Nat.land c (2 ^ 32 - 1 - m)) (Nat.land (a * 2 ^ off % 2 ^ 32) m)
  | .add64 => (a + b) % 2 ^ 64
  | .sub64 => (a + (2 ^ 64 - b)) % 2 ^ 64
  | .mul64 => a * b % 2 ^ 64
/-- Table 04-6 on numbers: the old destination c and the 16-bit immediate i. -/
def immTable (o : ImmOp) (c i : Nat) : Nat :=
  let n := i % 64
  match o with
  | .lim => wrapInt 32 (sext i 16)
  | .limz => i
  | .limh => i * 2 ^ 16 + c % 2 ^ 16
  | .addi => wrapInt 32 (c + sext i 16)
  | .andi => Nat.land c i
  | .ori => Nat.lor c i
  | .xori => Nat.xor c i
  | .shli => if 32 ≤ n then 0 else c * 2 ^ n % 2 ^ 32
  | .shri => if 32 ≤ n then 0 else c / 2 ^ n
  | .sari => wrapInt 32 (signed c / 2 ^ n)
  | .slti => if signed c < sext i 16 then 1 else 0
  | .limf => i * 2 ^ 16
  | .muli => wrapInt 32 (c * sext i 16)
/-- The relations of R136 on numbers. -/
def compareTable (o : CmpOp) (a b : Nat) : Bool :=
  match o with
  | .seq | .seq64 => a == b
  | .sne => a != b
  | .slt => decide (signed a < signed b)
  | .sle => decide (signed a ≤ signed b)
  | .sltu | .sltu64 => decide (a < b)
  | .sleu => decide (a ≤ b)
  | .slt64 => decide (sext a 64 < sext b 64)
/-- The number of one bits among the low n. -/
def onesBelow (x : Nat) : Nat → Nat
  | 0 => 0
  | n + 1 => onesBelow x n + x / 2 ^ n % 2

end Sys2Proof.Rules

/-- Table 04-5 and R134 (R133): the word, or pair of words, of every operation on the operands of a thread, and no flag. -/
def Obligations.IntegerResultsAreTabled : Prop :=
  ∀ (o : IntOp) (d a b : Reg) (c : Ctx) (t : Nat),
    let n := if o = .add64 ∨ o = .sub64 ∨ o = .mul64 then 2 else 1
    intResult o d a b c t = (intTable o (operand c.w t a n) (operand c.w t b n) (operand c.w t d n), 0) ∧ intWords o = n

/-- R135, whole: quotient and remainder, signed and unsigned, the two fixed cases, and that DIV_REM goes on with no flag raised. -/
def Obligations.DivisionTruncatesTowardZero : Prop :=
  (∀ a b : Word, b ≠ 0 → ¬(a = 0x80000000#32 ∧ b = 0xFFFFFFFF#32) →
    (divOp .div a b).toInt = a.toInt.tdiv b.toInt ∧ (divOp .rem a b).toInt = a.toInt - (divOp .div a b).toInt * b.toInt) ∧
  (∀ a b : Word, b ≠ 0 →
    (divOp .divu a b).toNat = a.toNat / b.toNat ∧ (divOp .remu a b).toNat = a.toNat - (divOp .divu a b).toNat * b.toNat) ∧
  (∀ a : Word, divOp .div a 0 = 0xFFFFFFFF#32 ∧ divOp .divu a 0 = 0xFFFFFFFF#32 ∧ divOp .rem a 0 = a ∧ divOp .remu a 0 = a) ∧
  divOp .div 0x80000000#32 0xFFFFFFFF#32 = 0x80000000#32 ∧ divOp .rem 0x80000000#32 0xFFFFFFFF#32 = 0#32 ∧
  ∀ (o : DivOp) (d a b : Reg) (s : State) (c : Ctx), Ready s c → c.isCore = false → Legal c [w1 d, r1 a, r1 b] →
    exec (.divRem o d a b) s = goesOn s.fresh c (withLanding s c 6 32 c.w.active (.regs (c.active.map fun t =>
      (d.toNat * 32 + t, divOp o (c.w.reg t a.toNat) (c.w.reg t b.toNat)))) [])

/-- R136 and R137, whole: the relation on the operands, read as pairs for .i64 and .n64, lands as 1 or 0 in one register; SEL takes each thread's
choice from the old destination, USEL the leader's for every thread. No flag is raised and no trap taken. -/
def Obligations.ComparesAndSelectionAreAsStated : Prop :=
  ∀ (o : CmpOp) (d a b : Reg) (s : State) (c : Ctx), Ready s c →
    let n := if o = .seq64 ∨ o = .slt64 ∨ o = .sltu64 then 2 else 1
    let holds (t : Nat) : Word := if compareTable o (operand c.w t a n) (operand c.w t b n) then 1 else 0
    let pick (t : Nat) : Word := if c.w.reg t d.toNat ≠ 0 then c.w.reg t a.toNat else c.w.reg t b.toNat
    (Legal c [w1 d, { reg := a, n := n, align := n }, { reg := b, n := n, align := n }] →
      (c.isCore = false → exec (.setCompare o d a b) s = goesOn s.fresh c (withLanding s c 1 32 c.w.active (.regs (c.active.map fun t => (d.toNat * 32 + t, holds t))) [])) ∧
      exec (.usetCompare o d a b) s = goesOn s.fresh c (withLanding s c 1 32 (maskOf c.all) (.regs (c.all.map fun t => (d.toNat * 32 + t, holds c.leader))) [])) ∧
    (Legal c [r1 d, r1 a, r1 b] →
      (c.isCore = false → exec (.sel d a b) s = goesOn s.fresh c (withLanding s c 1 32 c.w.active (.regs (c.active.map fun t => (d.toNat * 32 + t, pick t))) [])) ∧
      exec (.usel d a b) s = goesOn s.fresh c (withLanding s c 1 32 (maskOf c.all) (.regs (c.all.map fun t => (d.toNat * 32 + t, pick c.leader))) [])) ∧
    ∃ w, encode (.sel d a b) = some w ∧ w.toNat / 2 ^ 21 % 128 = 0x1C

/-- R138 on numbers: x is the register's word, d the pair's number. -/
def Obligations.UnaryResultsAreAsStated : Prop :=
  ∀ (a : Reg) (c : Ctx) (t : Nat),
    let x := operand c.w t a 1
    let d := operand c.w t a 2
    (∀ f, (unaryResult f a c t).2 = 0) ∧
    (unaryResult .mov a c t).1 = x ∧ (unaryResult .not a c t).1 = 2 ^ 32 - 1 - x ∧ (unaryResult .neg a c t).1 = (2 ^ 32 - x) % 2 ^ 32 ∧
    (unaryResult .abs a c t).1 = (signed x).natAbs ∧
    (x = 0 → (unaryResult .clz a c t).1 = 32 ∧ (unaryResult .ctz a c t).1 = 32) ∧
    (x ≠ 0 → 2 ^ (31 - (unaryResult .clz a c t).1) ≤ x ∧ x < 2 ^ (32 - (unaryResult .clz a c t).1) ∧
      x % 2 ^ (unaryResult .ctz a c t).1 = 0 ∧ x / 2 ^ (unaryResult .ctz a c t).1 % 2 = 1) ∧
    (unaryResult .popc a c t).1 = onesBelow x 32 ∧
    (∀ i, i < 32 → (unaryResult .brev a c t).1 / 2 ^ i % 2 = x / 2 ^ (31 - i) % 2) ∧ (unaryResult .brev a c t).1 < 2 ^ 32 ∧
    (unaryResult .sext8 a c t).1 = wrapInt 32 (sext x 8) ∧ (unaryResult .sext16 a c t).1 = wrapInt 32 (sext x 16) ∧
    (unaryResult .zext8 a c t).1 = x % 2 ^ 8 ∧ (unaryResult .zext16 a c t).1 = x % 2 ^ 16 ∧
    (unaryResult .mov64 a c t).1 = d ∧ (unaryResult .neg64 a c t).1 = (2 ^ 64 - d) % 2 ^ 64

/-- Table 04-6 (R139) on the old destination and the immediate. -/
def Obligations.ImmediateResultsAreTabled : Prop :=
  ∀ (o : ImmOp) (d : Reg) (i : BitVec 16) (c : Ctx) (t : Nat), immResult o d i c t = (immTable o (operand c.w t d 1) i.toNat, 0)

/-- R145 and R146 for ADD.i32: the fixed tree and the blocks of the scan add up each contributor once. -/
def Obligations.ReductionsSumTheContributors : Prop :=
  ∀ (a : Reg) (c : Ctx) (i : Nat), i < 32 →
    let part (n : Nat) : Nat := (((contributors c).filter fun t => decide (t < n)).map fun t => (c.w.reg t a.toNat).toNat).sum
    wredResult .addI a c = (part 32 % 2 ^ 32, 0) ∧ scanOf .addI a c i = (part (i + 1) % 2 ^ 32, 0)

/-- R142 over the contributors, and the source threads of R140. -/
def Obligations.VotesAndExchangesAreAsStated : Prop :=
  (∀ (a : Reg) (c : Ctx),
    let holds (t : Nat) : Prop := t < 32 ∧ c.w.active.getLsbD t = true ∧ c.w.helper.getLsbD t = false ∧ c.w.reg t a.toNat ≠ 0
    let misses (t : Nat) : Prop := t < 32 ∧ c.w.active.getLsbD t = true ∧ c.w.helper.getLsbD t = false ∧ c.w.reg t a.toNat = 0
    (voteResult .all a c = 1 ↔ ∀ t, ¬misses t) ∧ voteResult .all a c ≤ 1 ∧
    (voteResult .any a c = 1 ↔ ∃ t, holds t) ∧ voteResult .any a c ≤ 1 ∧
    voteResult .ballot a c < 2 ^ 32 ∧ ∀ t, t < 32 → (voteResult .ballot a c / 2 ^ t % 2 = 1 ↔ holds t)) ∧
  ∀ t n, t < 32 → n < 32 →
    shflSource .idx t n = n ∧ shflSource .xor t n = Nat.xor t n ∧ shflSource .up t n = (if t < n then t else t - n) ∧
    shflSource .down t n = (if 31 < t + n then t else t + n) ∧ ∀ m, shflSource m t n < 32

namespace Sys2Proof.Rules

/-! ### Rounding, said of the numbers (R122, R125-R127, R131) -/

/-- 2^k. -/
def two (k : Int) : Rat := if 0 ≤ k then ((2 ^ k.toNat : Nat) : Rat) else 1 / ((2 ^ (-k).toNat : Nat) : Rat)
/-- The number of a finite encoding without its sign (R122): with exponent field E and fraction M, 2^(E - bias)·(1 + M/2^m), and
2^(1 - bias)·M/2^m where E is 0. -/
def magnitude (f : Fp.Fmt) (n : Nat) : Rat :=
  if n / 2 ^ f.mbits = 0 then (n : Rat) * two (1 - f.bias - f.mbits)
  else ((2 ^ f.mbits + n % 2 ^ f.mbits : Nat) : Rat) * two ((n / 2 ^ f.mbits : Nat) - (f.bias : Int) - f.mbits)
/-- The sign bit of an encoding, the rest, and the bits of zero or its negative. -/
def negative (f : Fp.Fmt) (x : Nat) : Bool := decide (f.signBit ≤ x)
def signOf (f : Fp.Fmt) (neg : Bool) : Nat := if neg then f.signBit else 0
/-- Finite encodings. -/
def Finite (f : Fp.Fmt) (x : Nat) : Prop := x < 2 * f.signBit ∧ x % f.signBit ≤ f.maxBits
/-- NaNs; of E4M3 the one code of each sign (Table 04-1). -/
def IsNan (f : Fp.Fmt) (x : Nat) : Prop := x < 2 * f.signBit ∧ if f.hasInf then f.infBits < x % f.signBit else x % f.signBit = f.nanBits
/-- A subnormal magnitude. -/
def subnormal (f : Fp.Fmt) (n : Nat) : Bool := decide (0 < n) && decide (n < 2 ^ f.mbits)
/-- A source operand after the input flush (R127). -/
def flushed (f : Fp.Fmt) (ftz : Bool) (x : Nat) : Nat := if ftz && subnormal f (x % f.signBit) then signOf f (negative f x) else x
/-- The number of a finite source operand after the input flush. -/
def number (f : Fp.Fmt) (ftz : Bool) (x : Nat) : Rat :=
  let y := flushed f ftz x
  if negative f y then -magnitude f (y % f.signBit) else magnitude f (y % f.signBit)
/-- A directed mode rounds a number of this sign away from zero. -/
def away (rm : Fp.RMode) (neg : Bool) : Bool := (rm == .up && !neg) || (rm == .down && neg)
/-- n encodes the magnitude to which x > 0 rounds among the finite magnitudes of a format (R125). -/
def Nearest (f : Fp.Fmt) (rm : Fp.RMode) (neg : Bool) (x : Rat) (n : Nat) : Prop :=
  let off (k : Nat) : Rat := if magnitude f k ≤ x then x - magnitude f k else magnitude f k - x
  n ≤ f.maxBits ∧
  if rm = .nearest then ∀ k ≤ f.maxBits, k ≠ n → off n < off k ∨ (off n = off k ∧ n % 2 = 0)
  else if away rm neg then x ≤ magnitude f n ∧ ∀ k < n, magnitude f k < x
  else magnitude f n ≤ x ∧ ∀ k ≤ f.maxBits, n < k → x < magnitude f k
/-- Rounded as if the exponent range were unbounded, x > 0 lies above the largest finite magnitude (R125, R126): u is that one's last place. -/
def Overflows (f : Fp.Fmt) (rm : Fp.RMode) (neg : Bool) (x : Rat) : Prop :=
  let m := magnitude f f.maxBits
  let u := m - magnitude f (f.maxBits - 1)
  if rm = .nearest then m + u / 2 < x ∨ (x = m + u / 2 ∧ f.maxBits % 2 = 1) else if away rm neg then m < x else m + u ≤ x
/-- Rounded as if the exponent range were unbounded, x > 0 lies below the smallest normal magnitude (R126). -/
def Tiny (f : Fp.Fmt) (rm : Fp.RMode) (neg : Bool) (x : Rat) : Prop :=
  let normal := magnitude f (2 ^ f.mbits)
  let least := magnitude f 1
  if rm = .nearest then x < normal - least / 4 else if away rm neg then x ≤ normal - least / 2 else x < normal
/-- The result of the one rounding of an exact number that is not 0 (R125-R127): `big` is what stands for IEEE 754's infinity (R158). -/
def RoundsTo (f : Fp.Fmt) (rm : Fp.RMode) (ftz : Bool) (big : Nat) (x : Rat) (r : Nat × FFlags) : Prop :=
  let neg := decide (x < 0)
  let y := if x < 0 then -x else x
  (Overflows f rm neg y → r.2 = Fp.overflow ||| Fp.inexact ∧
    r.1 = (let n := if rm = .nearest ∨ away rm neg = true then big else f.maxBits
      if n = f.nanBits then n else signOf f neg + n)) ∧
  (¬Overflows f rm neg y → ∃ n, Nearest f rm neg y n ∧
    if ftz && subnormal f n then r = (signOf f neg, Fp.underflow ||| Fp.inexact)
    else r.1 = signOf f neg + n ∧ (magnitude f n = y → r.2 = 0) ∧
      (magnitude f n ≠ y → (Tiny f rm neg y → r.2 = Fp.inexact ||| Fp.underflow) ∧ (¬Tiny f rm neg y → r.2 = Fp.inexact)))
/-- A sum of terms, each with the sign that it has as a zero: rounded once, or a zero by the zero rule (R125, R131). -/
def SumsTo (f : Fp.Fmt) (e : Fp.Env) (terms : List (Bool × Rat)) (r : Nat × FFlags) : Prop :=
  let x := (terms.map (·.2)).foldl (· + ·) 0
  (x ≠ 0 → RoundsTo f e.rm e.ftzOut f.infBits x r) ∧
  (x = 0 → r = (signOf f (!terms.isEmpty && terms.all fun t => t.1 && decide (t.2 = 0)), 0))
/-- A finite operand, and the exact product of two, as terms. -/
def term (f : Fp.Fmt) (e : Fp.Env) (x : Nat) : Bool × Rat := (negative f x, number f e.ftzIn x)
def product (f : Fp.Fmt) (e : Fp.Env) (x y : Nat) : Bool × Rat := (negative f x != negative f y, number f e.ftzIn x * number f e.ftzIn y)

/-- FADD, FSUB, FMUL, FMA and FDIV of finite operands (R125-R127, R131, R148, R149). -/
def ArithmeticRounds : Prop :=
  ∀ (f : Fp.Fmt) (e : Fp.Env) (a b d : Nat), f ∈ [Fp.f32, Fp.f64] → Finite f a → Finite f b → Finite f d →
    let x := number f e.ftzIn a
    let y := number f e.ftzIn b
    let neg := negative f a != negative f b
    SumsTo f e [term f e a, term f e b] (Fp.arith f e .add a b d) ∧
    SumsTo f e [term f e a, (!negative f b, -y)] (Fp.arith f e .sub a b d) ∧
    SumsTo f e [product f e a b, term f e d] (Fp.arith f e .fma a b d) ∧
    (x * y ≠ 0 → RoundsTo f e.rm e.ftzOut f.infBits (x * y) (Fp.arith f e .mul a b d)) ∧
    (x * y = 0 → Fp.arith f e .mul a b d = (signOf f neg, 0)) ∧
    (y ≠ 0 → x ≠ 0 → RoundsTo f e.rm e.ftzOut f.infBits (x / y) (Fp.arith f e .div a b d)) ∧
    (y ≠ 0 → x = 0 → Fp.arith f e .div a b d = (signOf f neg, 0)) ∧
    (y = 0 → x ≠ 0 → Fp.arith f e .div a b d = (signOf f neg + f.infBits, Fp.divzero)) ∧
    (y = 0 → x = 0 → Fp.arith f e .div a b d = (f.nanBits, Fp.invalid))
/-- FMIN, FMAX, FMINN and FMAXN (R130): without NaNs the lesser or greater in the order of the encodings, -0 below +0; with one NaN the other
operand or the canonical NaN. A subnormal result is flushed where the option says so (R127). -/
def MinMaxChoose : Prop :=
  ∀ (f : Fp.Fmt) (e : Fp.Env) (a b d : Nat), f ∈ [Fp.f32, Fp.f64] → a < 2 * f.signBit → b < 2 * f.signBit →
    let x := flushed f e.ftzIn a
    let y := flushed f e.ftzIn b
    let key (z : Nat) : Int := if negative f z then -((z % f.signBit : Nat) : Int) - 1 else ((z % f.signBit : Nat) : Int)
    let written (z : Nat) (r : Nat × FFlags) : Prop :=
      if e.ftzOut && subnormal f (z % f.signBit) then r.1 = signOf f (negative f z) ∧ r.2 &&& ~~~Fp.invalid = Fp.underflow ||| Fp.inexact
      else r.1 = z ∧ r.2 &&& ~~~Fp.invalid = 0
    (¬IsNan f a → ¬IsNan f b →
      ∀ o ∈ [FpOp.min, .minn, .max, .maxn],
        written (if o ∈ [FpOp.min, .minn] then (if key x ≤ key y then x else y) else (if key x ≤ key y then y else x)) (Fp.arith f e o a b d) ∧
        (Fp.arith f e o a b d).2 &&& Fp.invalid = 0) ∧
    (IsNan f a ∨ IsNan f b → (Fp.arith f e .min a b d).1 = f.nanBits ∧ (Fp.arith f e .max a b d).1 = f.nanBits) ∧
    (IsNan f a → IsNan f b → (Fp.arith f e .minn a b d).1 = f.nanBits ∧ (Fp.arith f e .maxn a b d).1 = f.nanBits) ∧
    (IsNan f a → ¬IsNan f b → written y (Fp.arith f e .minn a b d) ∧ written y (Fp.arith f e .maxn a b d)) ∧
    (¬IsNan f a → IsNan f b → written x (Fp.arith f e .minn a b d) ∧ written x (Fp.arith f e .maxn a b d))
/-- A floating-point value of finite operands written in another format (R157, R158), and a scaling by 2^n (R160). -/
def ConversionsRound : Prop :=
  (∀ (src dst : CvtFmt) (f g : Fp.Fmt) (sat : Bool) (w : Wave) (x : Nat), CvtFmt.fp src = some f → CvtFmt.fp dst = some g → Finite f x →
    let v := number f (cvtIn w src) x
    let big := if sat then g.maxBits else if g.hasInf then g.infBits else g.nanBits
    (v ≠ 0 → RoundsTo g (rmodeOf w) (cvtOut w dst) big v (convertBits ⟨dst, src, sat⟩ w x)) ∧
    (v = 0 → convertBits ⟨dst, src, sat⟩ w x = (signOf g (negative f x), 0))) ∧
  (∀ (src dst : CvtFmt) (g : Fp.Fmt) (w : Wave) (x : Nat), src ∈ [.i32, .n32, .i64, .n64] → CvtFmt.fp dst = some g → dst ∈ [.f32, .f64] →
    x < 2 ^ CvtFmt.width src →
    let v : Int := if src ∈ [.i32, .i64] then sext x (CvtFmt.width src) else x
    (v ≠ 0 → RoundsTo g (rmodeOf w) false g.infBits v (convertBits ⟨dst, src, false⟩ w x)) ∧ (v = 0 → convertBits ⟨dst, src, false⟩ w x = (0, 0))) ∧
  (∀ (src dst : CvtFmt) (f : Fp.Fmt) (rz : Bool) (w : Wave) (x : Nat), CvtFmt.fp src = some f → dst ∈ [.i32, .n32, .i64, .n64] → Finite f x →
    let v := number f (cvtIn w src) x
    let rm := if rz then Fp.RMode.zero else rmodeOf w
    let k := CvtFmt.width dst
    let lo : Int := if dst ∈ [.i32, .i64] then -(2 ^ (k - 1)) else 0
    let hi : Int := if dst ∈ [.i32, .i64] then 2 ^ (k - 1) - 1 else 2 ^ k - 1
    -- the integral value that the source rounds to (R157)
    ∃ n : Int, (if rm = .nearest then (2 * ((n : Rat) - v) < 1 ∧ 2 * (v - n) < 1) ∨ ((2 * ((n : Rat) - v) = 1 ∨ 2 * (v - n) = 1) ∧ n % 2 = 0)
        else if rm = .up then v ≤ n ∧ (n : Rat) < v + 1
        else if rm = .down then (n : Rat) ≤ v ∧ v < n + 1
        else if v < 0 then v ≤ n ∧ (n : Rat) < v + 1 else (n : Rat) ≤ v ∧ v < n + 1) ∧
      convertBits ⟨dst, src, rz⟩ w x = if n < lo then (wrapInt k lo, Fp.invalid) else if hi < n then (wrapInt k hi, Fp.invalid)
        else (wrapInt k n, if (n : Rat) = v then 0 else Fp.inexact)) ∧
  ∀ (f : Fp.Fmt) (e : Fp.Env) (a : Nat) (n : Int), f ∈ [Fp.f32, Fp.f64] → Finite f a →
    let v := number f e.ftzIn a
    (v ≠ 0 → RoundsTo f e.rm e.ftzOut f.infBits (v * two n) (Fp.scale f e a n)) ∧ (v = 0 → Fp.scale f e a n = (signOf f (negative f a), 0))
/-- Each half of the packed operations, and the four products of DOT4, rounded once into their format (R154, R155, R159). -/
def PackedFormsRound : Prop :=
  (∀ (rm : Fp.RMode) (f : Fp.Fmt) (a b d : Nat), Finite f a → Finite f b → Finite f d →
    let e : Fp.Env := { rm := rm }
    let forms (add mul fma : HalfOp) : Prop :=
      SumsTo f e [term f e a, term f e b] (Fp.half add rm a b d) ∧ SumsTo f e [product f e a b, term f e d] (Fp.half fma rm a b d) ∧
      let x := number f false a * number f false b
      (x ≠ 0 → RoundsTo f rm false f.infBits x (Fp.half mul rm a b d)) ∧
      (x = 0 → Fp.half mul rm a b d = (signOf f (negative f a != negative f b), 0))
    (f = Fp.f16 → forms .hadd .hmul .hfma) ∧ (f = Fp.bf16 → forms .badd .bmul .bfma)) ∧
  (∀ (o : HalfOp) (d a b : Reg) (c : Ctx) (t : Nat),
    let h (r : Reg) (j : Nat) : Nat := (c.w.reg t r.toNat).toNat / 2 ^ (16 * j) % 2 ^ 16
    let half (j : Nat) : Nat × FFlags := Fp.half o (rmodeOf c.w) (h a j) (h b j) (h d j)
    halfResult o d a b c t = ((half 0).1 + 2 ^ 16 * (half 1).1, (half 0).2 ||| (half 1).2)) ∧
  (∀ (f : Fp.Fmt) (e : Fp.Env) (a b d : Nat), f ∈ [Fp.e4m3, Fp.e5m2] → Finite Fp.f32 d →
    let byte (x i : Nat) : Nat := x / 2 ^ (8 * i) % 2 ^ 8
    (∀ i < 4, Finite f (byte a i) ∧ Finite f (byte b i)) →
    let p (i : Nat) : Bool × Rat := (negative f (byte a i) != negative f (byte b i), number f false (byte a i) * number f false (byte b i))
    SumsTo Fp.f32 e [p 0, p 1, p 2, p 3, term Fp.f32 e d] (Fp.dot4 f e a b d)) ∧
  (∀ (d a b : Reg) (c : Ctx) (t : Nat),
    let byte (r : Reg) (i : Nat) : Int := sext ((c.w.reg t r.toNat).toNat / 2 ^ (8 * i) % 2 ^ 8) 8
    dot4Result .i8 d a b c t = (wrapInt 32 ((c.w.reg t d.toNat).toNat + byte a 0 * byte b 0 + byte a 1 * byte b 1 + byte a 2 * byte b 2 + byte a 3 * byte b 3), 0)) ∧
  ∀ (p : PackFmt) (d a b : Reg) (c : Ctx) (t : Nat),
    let code : CvtCode := match p with
      | .half => ⟨.f16, .f32, false⟩ | .bfloat => ⟨.bf16, .f32, false⟩ | .e4m3 => ⟨.e4m3, .f32, true⟩ | .e5m2 => ⟨.e5m2, .f32, true⟩
    let x := cvtResult code a c t
    let y := cvtResult code b c t
    packResult p d a b c t = (if p = .half ∨ p = .bfloat then x.1 + 2 ^ 16 * y.1
      else 2 ^ 24 * y.1 + 2 ^ 16 * x.1 + (c.w.reg t d.toNat).toNat / 2 ^ 16, x.2 ||| y.2)
/-- Comparisons (R150), the sign functions (R129, R151) and FCLASS (R153) of FP32 and FP64. -/
def ComparisonsAndClasses : Prop :=
  ∀ (f : Fp.Fmt) (e : Fp.Env) (a b : Nat), f ∈ [Fp.f32, Fp.f64] → a < 2 * f.signBit → b < 2 * f.signBit →
    (IsNan f a ∨ IsNan f b →
      (∀ o ∈ [FpOp.add, .sub, .mul, .div, .fma], ∀ d, (Fp.arith f e o a b d).1 = f.nanBits) ∧
      (Fp.compare f e .eq a b).1 = false ∧ (Fp.compare f e .lt a b).1 = false ∧ (Fp.compare f e .le a b).1 = false ∧
      (Fp.compare f e .un a b).1 = true) ∧
    (Finite f a → Finite f b →
      let x := number f e.ftzIn a
      let y := number f e.ftzIn b
      Fp.compare f e .eq a b = (decide (x = y), 0) ∧ Fp.compare f e .lt a b = (decide (x < y), 0) ∧
      Fp.compare f e .le a b = (decide (x ≤ y), 0) ∧ Fp.compare f e .un a b = (false, 0)) ∧
    Fp.function f e .abs a = (a % f.signBit, 0) ∧ Fp.function f e .neg a = ((a + f.signBit) % (2 * f.signBit), 0) ∧
    (Fp.function f e .fclass a).2 = 0 ∧
    let n := a % f.signBit
    let quiet := f.infBits + 2 ^ (f.mbits - 1)
    (Fp.function f e .fclass a).1 = 2 ^ (if f.infBits < n then (if n < quiet then 8 else 9)
      else
        let k := if n = f.infBits then 0 else if n = 0 then 3 else if n < 2 ^ f.mbits then 2 else 1
        if negative f a then k else 7 - k)

end Sys2Proof.Rules

/-- The rules that every floating-point instruction shares, on the bits and the numbers of its operands (R122, R125-R131, R148-R160). -/
def Obligations.FloatResultsObeyTheCommonRules : Prop :=
  ArithmeticRounds ∧ MinMaxChoose ∧ ConversionsRound ∧ PackedFormsRound ∧ ComparisonsAndClasses
/-! ### State indexes (02 R70-R73) -/

namespace Sys2Proof.Rules

/-- Table 02-15, restated: the values of indexes 0 to 28 for thread t, on a wave or on a control core. A counter's high half is the one that its
low half latched, where it did (R28). Index 4 of an ordered launch counts the groups that its frets have made active (R233; log entry 7). -/
def stateIndexes (s : State) (c : Ctx) (t : Nat) : List Nat :=
  let core := c.isCore
  let card := c.l.card
  let onWave (x : Nat) : Nat := if core then 0 else x
  let high (kept : Option Word) (now : Nat) : Nat := match kept with | some h => h.toNat | none => now / 2 ^ 32 % 2 ^ 32
  let scy := if card.regime = 2 then s.scy c.l else 0
  let arg := (card.argBase + onWave (c.grp.chunkBase * card.argBytes)) % 2 ^ 52
  [onWave (32 * c.wi + t), onWave t, onWave c.wi, if core then 0xFFFFFFFF else c.grp.index,
   if card.groups = 0 then (if card.regime = 1 then c.l.activated else c.l.made) else card.groups, c.grp.cluster,
   s.cyc % 2 ^ 32, high c.w.cycHigh s.cyc, scy % 2 ^ 32, if card.regime = 2 then high c.w.scyHigh scy else 0] ++
  [if card.regime = 1 then onWave (c.l.fret % 2 ^ 32) else 0, c.l.rank, c.l.ranks, card.head, card.strip,
   c.grp.cluster % 16 - (s.partPx c.part + card.rectX), c.grp.cluster / 16 - (s.partPy c.part + card.rectY), (c.w.flags t).toNat,
   onWave (if c.w.helper.getLsbD t then 1 else 0), if core then 1 else c.w.active.toNat] ++
  [onWave (c.grp.spillBase + card.spillBytes * c.wi), c.part, arg % 2 ^ 32, onWave c.grp.chunkBase,
   if core then card.argCount else c.grp.chunkCount, onWave card.wavesPerGroup, c.w.rmode.toNat, c.w.ftz.toNat, arg / 2 ^ 32]
/-- A read of a counter's low half latches its high half in the reader (R28). -/
def latching (s : State) (c : Ctx) (i : BitVec 7) (w : Wave) : Wave :=
  if i = 6 then { w with cycHigh := some (BitVec.ofNat 32 (s.cyc / 2 ^ 32)) }
  else if i = 8 ∧ c.l.card.regime = 2 then { w with scyHigh := some (BitVec.ofNat 32 (s.scy c.l / 2 ^ 32)) } else w

end Sys2Proof.Rules

/-- Completion of rds, urds, wrs, uwrs, flgrd and uflgrd (R70-R73): what each lands, and the latch of R28. -/
def Obligations.StateReadsComplete : Prop :=
  ∀ (d a : Reg) (i : BitVec 7) (s : State) (c : Ctx), Ready s c → Legal c [w1 d] → Legal c [r1 a] →
    let value (t : Nat) : Word := BitVec.ofNat 32 ((stateIndexes s c t).getD i.toNat 0)
    let writes (ts : List Nat) (flags : Nat → BitVec 5) : LandWhat :=
      if i = 17 then .setFlags (ts.map fun t => (t, flags t))
      else if i = 26 then .rmode ((c.w.reg c.leader a.toNat).setWidth 2) else .ftz ((c.w.reg c.leader a.toNat).setWidth 4)
    (i.toNat ≤ 28 →
      (c.isCore = false → exec (.rds d i) s = goesOn s.fresh c (latching s c i (withLanding s c 1 32 c.w.active
        (.regs (c.active.map fun t => (d.toNat * 32 + t, value t))) []))) ∧
      exec (.urds d i) s = goesOn s.fresh c (latching s c i (withLanding s c 1 32 (maskOf c.all)
        (.regs (c.all.map fun t => (d.toNat * 32 + t, value c.leader))) []))) ∧
    (i = 17 ∨ i = 26 ∨ i = 27 →
      (c.isCore = false → exec (.wrs a i) s = goesOn s.fresh c (withLanding s c 1 32 c.w.active
        (writes c.active fun t => (c.w.reg t a.toNat).setWidth 5) [])) ∧
      exec (.uwrs a i) s = goesOn s.fresh c (withLanding s c 1 32 (maskOf c.all)
        (writes c.all fun _ => (c.w.reg c.leader a.toNat).setWidth 5) [])) ∧
    (c.isCore = false → exec (.flgrd d) s = goesOn s.fresh c (withLanding s c 1 32 c.w.active (.readFlags d.toNat c.w.active) [])) ∧
    exec (.uflgrd d) s = goesOn s.fresh c (withLanding s c 1 32 (maskOf c.all) (.readFlags d.toNat (maskOf c.all)) [])

/-! ### Branches and the wave's own control (03) -/

/-- Completion of braBrz, ubraUbrz, jmp, ujmp, call, ucall, ret, uret and uloop (R92-R97). -/
def Obligations.BranchesComplete : Prop :=
  ∀ (z : Bool) (a : Reg) (off : BitVec 17) (s : State) (c : Ctx), Ready s c → Legal c [r1 a] →
    let x := c.w.reg c.leader a.toNat
    let tgt := c.w.pc + BitVec.ofInt 52 (4 * off.toInt)
    let taken := maskOf (c.active.filter fun t => if z then c.w.reg t a.toNat = 0 else c.w.reg t a.toNat ≠ 0)
    let link (ts : List Nat) : LandWhat := .regs (ts.map fun t => (a.toNat * 32 + t, (c.w.pc + 4).setWidth 32))
    let jumps (w : Wave) (pc : BitVec 52) : Wave := { w with pc := pc }
    (c.isCore = false → (taken = c.w.active → exec (.braBrz z a off) s = goesOn s c (jumps c.w tgt)) ∧
      (taken = 0 → exec (.braBrz z a off) s = goesOn s c c.next) ∧
      (taken ≠ c.w.active → taken ≠ 0 → c.w.stack.length = 32 → exec (.braBrz z a off) s = traps s c trapStack) ∧
      (taken ≠ c.w.active → taken ≠ 0 → c.w.stack.length < 32 → exec (.braBrz z a off) s = goesOn s c
        { c.next with stack := { pc := tgt, mask := taken, rejoin := false } :: c.w.stack, active := c.w.active &&& ~~~taken }) ∧
      exec (.jmp off) s = goesOn s c (jumps c.w tgt) ∧
      exec (.call a off) s = goesOn s.fresh c (jumps (withLanding s c 1 32 (maskOf c.active) (link c.active) []) tgt) ∧
      (x.toNat % 4 = 0 → exec (.ret a) s = goesOn s c (jumps c.w (BitVec.ofNat 52 (c.w.pc.toNat / 2 ^ 32 * 2 ^ 32 + x.toNat))))) ∧
    exec (.ubraUbrz z a off) s = goesOn s c (jumps c.w (if (x = 0 ↔ z = true) then tgt else c.w.pc + 4)) ∧
    exec (.ujmp off) s = goesOn s c (jumps c.w tgt) ∧
    exec (.ucall a off) s = goesOn s.fresh c (jumps (withLanding s c 1 32 (maskOf c.all) (link c.all) []) tgt) ∧
    (x.toNat % 4 = 0 → exec (.uret a) s = goesOn s c (jumps c.w (BitVec.ofNat 52 (c.w.pc.toNat / 2 ^ 32 * 2 ^ 32 + x.toNat)))) ∧
    exec (.uloop a off) s = goesOn s.fresh c (jumps (withLanding s c 1 32 (maskOf c.all) (.regs (c.all.map fun t => (a.toNat * 32 + t, x - 1))) [])
      (if x = 1 then c.w.pc + 4 else tgt))

/-- Completion of mark, join, nop, unop and exit (R89, R90, R98-R101, R399); MARK and JOIN are asked nothing of the mask. -/
def Obligations.MarkJoinNopExitComplete : Prop :=
  ∀ (off : BitVec 17) (s : State) (c : Ctx),
    (AtIssue s c → s.eccBad = [] → c.isCore = false →
      (c.w.stack.length < 32 → exec (.mark off) s = goesOn s c
        { c.next with stack := { pc := c.w.pc + BitVec.ofInt 52 (4 * off.toInt), mask := c.w.active, rejoin := true } :: c.w.stack }) ∧
      ∀ e rest, c.w.stack = e :: rest →
        let named := rest.foldl (fun m x => m ||| x.mask) e.mask
        let gone := (List.range 32).filter fun t => c.w.live.getLsbD t && !named.getLsbD t
        let r := gone.foldl (fun (x : State × Wave) t => abandonRay x.1 x.2 c.g c.wi t) (s, c.w)
        exec .join s = goesOn r.1 c { r.2 with pc := e.pc, active := e.mask, stack := rest, live := c.w.live &&& named }) ∧
    (Ready s c → exec .unop s = goesOn s c c.next ∧ (c.isCore = false → exec .nop s = goesOn s c c.next ∧
      let r := c.active.foldl (fun (x : State × Wave) t => abandonRay x.1 x.2 c.g c.wi t) (s, c.next)
      exec .exit s = goesOn r.1 c { r.2 with live := r.2.live &&& ~~~r.2.active, active := 0,
                                             stack := r.2.stack.map fun e => { e with mask := e.mask &&& ~~~r.2.active } }))

/-- The frame of braBrz, ubraUbrz, jmp, ujmp, ret, uret, mark, join, nop and unop that take their slot: nothing but pc, mask and stack moves. -/
def Obligations.ControlKeepsMemoryAndRegisters : Prop :=
  ∀ (i : Instr) (s t : State) (c : Ctx) (z : Bool) (a : Reg) (off : BitVec 17),
    i ∈ [.braBrz z a off, .ubraUbrz z a off, .jmp off, .ujmp off, .ret a, .uret a, .mark off, .join, .nop, .unop] →
    Ready s c → Unarmed s c → Legal c [r1 a] → c.isCore = false → c.w.pend = [] → c.w.stack.length < 32 → c.w.stack ≠ [] →
    (c.w.reg c.leader a.toNat).toNat % 4 = 0 → (∀ e ∈ c.w.stack, e.mask ≠ 0) → exec i s = .next t →
    (∀ x, t.mem.byte x = s.mem.byte x) ∧ t.bar = s.bar ∧ t.clusters = s.clusters ∧ t.parts = s.parts ∧ t.reqs = s.reqs ∧ t.copies = s.copies ∧
    (i ≠ .join → t.rays = s.rays) ∧ t.held = s.held ∧ (∀ g, g ≠ c.g → mget g t.groups = mget g s.groups) ∧ (∀ wi, wi ≠ c.wi → t.wave c.g wi = s.wave c.g wi) ∧
    ∃ w, t.wave c.g c.wi = some w ∧ w.regs = c.w.regs ∧ w.fflags = c.w.fflags ∧ w.rmode = c.w.rmode ∧ w.ftz = c.w.ftz ∧
      (i ≠ .join → w.live = c.w.live) ∧ w.live &&& ~~~c.w.live = 0 ∧ w.helper = c.w.helper ∧
      (i ≠ .join ∨ c.w.deferred = [] → w.deferred = c.w.deferred) ∧ w.pend = [] ∧ w.slot = c.w.slot + 1

/-- R51 and R90, for every form that a wave issues, with an empty mask: the pc advances, and that is all. -/
def Obligations.EmptyMaskOnlyTakesASlot : Prop :=
  ∀ (i : Instr) (r : Shape) (s : State) (c : Ctx), shape i = some r → r.core = false → (∀ off, i ≠ .mark off) → i ≠ .join →
    AtIssue s c → c.isCore = false → c.w.active = 0 → Legal c r.uses → (c.locked = true → r.regime = false) →
    exec i s = goesOn s c c.next

/-! ### Traps (03 R102, R109-R113) -/

/-- R102, whole: the effect of trap, utrap, brk and ubrk is the trap that they take; with an empty mask the lane forms only take their slot. -/
def Obligations.SoftwareTrapsTakeTheTrap : Prop :=
  ∀ (imm : BitVec 16) (s : State) (c : Ctx),
    encode (.trap imm) = some (0x70400000#32 ||| imm.setWidth 32) ∧ encode (.utrap imm) = some (0xF0400000#32 ||| imm.setWidth 32) ∧
    encode (.brk imm) = some (0x70600000#32 ||| imm.setWidth 32) ∧ encode (.ubrk imm) = some (0xF0600000#32 ||| imm.setWidth 32) ∧
    (Ready s c →
      exec (.utrap imm) s = traps s c { code := 11, imm := imm.toNat } ∧ exec (.ubrk imm) s = traps s c { code := 12, imm := imm.toNat } ∧
      (c.isCore = false → exec (.trap imm) s = traps s c { code := 11, imm := imm.toNat } ∧ exec (.brk imm) s = traps s c { code := 12, imm := imm.toNat })) ∧
    (s.issuer = some c → c.w.faulty = none → c.w.late = false → (c.ordered && c.w.fretEnded) = false → c.isCore = false → c.w.active = 0 →
      exec (.trap imm) s = goesOn s c c.next ∧ exec (.brk imm) s = goesOn s c c.next)

/-- R109, R111 and R113 for waves and control streams of elastic and ordered cards, and R283, R284 for the parties of a locked launch. The record
stands after those held before it, but before one of its group and cycle whose wave is higher (R112). -/
def Obligations.TrapHaltsTheGroupAndPostsARecord : Prop :=
  ∀ (s : State) (c : Ctx) (ti : TrapInfo), s.issuer = some c →
    let t := s.takeTrap c ti
    let q := 2 + c.part
    let resumed (trapped : Bool) : Wave := { c.w with
      pc := if ti.comparator = false ∧ (ti.code = 11 ∨ ti.code = 12) then c.w.pc + 4 else c.w.pc
      skip := ti.comparator || c.w.skip
      trapped := c.w.trapped || trapped }
    -- the record's group and cycle are its bytes 32 to 51, its wave stands in byte 5 (Table 03-4)
    let r := s.trapRecord c ti
    let later (x : List Byte) : Prop := (x.drop 32).take 20 = (r.drop 32).take 20 ∧ ofBytes ((r.drop 5).take 1) % 32 < ofBytes ((x.drop 5).take 1) % 32
    let recorded : Prop := (∃ before after, s.heldOf q = before ++ after ∧ t.heldOf q = before ++ r :: after ∧ (∀ x ∈ before, ¬later x) ∧
      ∀ x, after.head? = some x → later x) ∧ ∀ p, p ≠ q → t.heldOf p = s.heldOf p
    let kept : Prop := (∀ wi, wi ≠ c.wi → t.wave c.g wi = s.wave c.g wi) ∧ t.mem = s.mem ∧ t.eccBad = s.eccBad ∧ t.bar = s.bar ∧
      t.clusters = s.clusters ∧ t.copies = s.copies ∧ t.reqs = s.reqs ∧ t.rels = s.rels ∧ t.rays = s.rays ∧ t.cyc = s.cyc
    t.turn = none ∧
    (c.locked = false → c.isCore = false →
      recorded ∧ kept ∧ t.launches = s.launches ∧ t.out = s.out ∧ t.wave c.g c.wi = some (resumed false) ∧
      (∃ g, mget c.g t.groups = some g ∧ g.status = .halted ∧ g.trapped = true ∧ g.gmemBase = c.grp.gmemBase ∧ g.barPhase = c.grp.barPhase ∧
        g.barCount = c.grp.barCount) ∧
      ∀ g, g ≠ c.g → mget g t.groups = mget g s.groups) ∧
    (c.locked = false → c.isCore = true →
      recorded ∧ kept ∧ t.out = s.out ∧ t.wave c.g c.wi = some (resumed false) ∧
      (∃ g, mget c.g t.groups = some g ∧ g.trapped = true) ∧
      mget c.lid t.launches = some { c.l with status := .halted } ∧ (∀ l, l ≠ c.lid → mget l t.launches = mget l s.launches) ∧
      ∀ g x, mget g s.groups = some x →
        (x.launch ≠ c.lid → mget g t.groups = some x) ∧
        (x.launch = c.lid → ∃ y, mget g t.groups = some y ∧ y.waves.length = x.waves.length ∧ y.gmemBase = x.gmemBase ∧ y.cluster = x.cluster ∧
          y.status = if x.status = .resident ∨ x.status = .stopping ∨ x.status = .suspended then .halted else x.status)) ∧
    (c.locked = true → s.pastHalt c = false →
      recorded ∧ kept ∧ t.wave c.g c.wi = some (resumed true) ∧
      (∃ g, mget c.g t.groups = some g ∧ g.status = c.grp.status ∧ g.gmemBase = c.grp.gmemBase) ∧
      (∀ g, g ≠ c.g → mget g t.groups = mget g s.groups) ∧
      mget c.lid t.launches = some { c.l with haltAt := some (min (s.cyc + s.lfab) (c.l.haltAt.getD (s.cyc + s.lfab))), recorded := true } ∧
      (∀ l, l ≠ c.lid → mget l t.launches = mget l s.launches) ∧
      t.out = s.out ++ (if 1 < s.domSize ∧ (∀ h, c.l.haltAt = some h → s.cyc + s.lfab < h) then
        [{ port := "halt-notice", cyc := s.cyc, words := [c.l.tag, s.cyc + s.lfab, ti.code] }] else [])) ∧
    (c.locked = true → s.pastHalt c = true → t = { s with turn := none })

/-- The fields of Table 03-4, for a record whose own fields fit their widths. -/
def Obligations.TrapRecordIsTabled : Prop :=
  ∀ (s : State) (c : Ctx) (ti : TrapInfo), ti.code < 16 → ti.index < 16 → ti.imm < 2 ^ 16 → ti.addr < 2 ^ 64 → ti.detail < 2 ^ 32 →
    ti.causePc.getD c.w.pc.toNat < 2 ^ 64 → c.l.ctx < 16 → c.part < 64 → c.card.regime < 3 → c.grp.cluster < 256 → c.wi < 32 → s.cyc < 2 ^ 64 → c.l.cardVa < 2 ^ 64 →
    c.grp.index < 2 ^ 32 →
    let x := ofBytes (s.trapRecord c ti)
    (s.trapRecord c ti).length = 64 ∧ bits x 7 0 = ti.code ∧ bit x 8 = c.isCore ∧ bit x 9 = ti.landing ∧ bit x 10 = ti.comparator ∧
    bits x 15 11 = 0 ∧ bits x 19 16 = ti.index ∧ bits x 23 20 = c.l.ctx ∧ bits x 29 24 = c.part ∧ bits x 31 30 = c.card.regime ∧
    bits x 39 32 = c.grp.cluster ∧ bits x 44 40 = (if c.isCore then 0 else c.wi) ∧ bits x 47 45 = 0 ∧ bits x 63 48 = ti.imm ∧
    bits x 127 64 = c.w.pc.toNat ∧ bits x 191 128 = ti.causePc.getD c.w.pc.toNat ∧ bits x 255 192 = ti.addr ∧ bits x 319 256 = s.cyc ∧
    bits x 383 320 = c.l.cardVa ∧ bits x 415 384 = (if c.isCore then 0xFFFFFFFF else c.grp.index) ∧ bits x 447 416 = c.w.active.toNat ∧
    bits x 479 448 = ti.detail

/-- The traps of Table 02-13 at issue, for every form, in their order, and those of the control instructions; the trapping form has no other
effect. -/
def Obligations.IllegalFormsTrapAtDecode : Prop :=
  ∀ (s : State) (c : Ctx), AtIssue s c →
    (∀ (i : Instr) (r : Shape) (w : BitVec 32), shape i = some r → encode i = some w →
      let udf := (c.isCore = true ∧ r.lane = true) ∨ (c.isCore = false ∧ r.core = true)
      (udf → exec i s = traps s c (trapUdf w.toNat)) ∧
      (¬udf → ¬Legal c r.uses → exec i s = traps s c (trapIllop w.toNat)) ∧
      (¬udf → Legal c r.uses → c.isCore = false → c.locked = true → r.regime = true → exec i s = traps s c (trapRegime w.toNat))) ∧
    ∀ (a : Reg) (off : BitVec 17), c.isCore = false → s.eccBad = [] →
      (c.w.stack.length = 32 → exec (.mark off) s = traps s c trapStack) ∧
      (c.w.stack = [] → exec .join s = traps s c trapStack) ∧
      (c.w.active ≠ 0 → Legal c [r1 a] → (c.w.reg c.leader a.toNat).toNat % 4 ≠ 0 →
        exec (.ret a) s = traps s c (trapAlign (c.w.reg c.leader a.toNat).toNat))
namespace Sys2Proof.Rules

/-! ### Accesses (05 R161-R174, 06 R192-R201) -/

/-- Every thread's access is aligned, lies at the given place, and meets no watchpoint (R169). -/
def Reaches (s : State) (c : Ctx) (ad : Admit) (rd wr : Bool) (ts : List Nat) (addr : Nat → Nat) (n : Nat) (p : Nat → Place) : Prop :=
  ∀ t ∈ ts, addr t % n = 0 ∧ s.place c ad (addr t) n = some (p t) ∧ s.watchAt c (addr t) n rd wr = none
/-- The accesses of the threads at their places. -/
def at_ (ts : List Nat) (addr : Nat → Nat) (p : Nat → Place) : List (Nat × Nat × Place) := ts.map fun t => (t, addr t, p t)
/-- A locked instruction presents no bank with two distinct words in one step (R174, R194). -/
def Spread (c : Ctx) (atomic uniform : Bool) (ts : List Nat) (p : Nat → Place) (n : Nat) : Prop :=
  c.locked = true → State.overloaded atomic uniform (ts.map fun t => (t, p t)) n = false
/-- v[va] + off10·w modulo 2^32 in thread t (R47). -/
def mem (c : Ctx) (t : Nat) (a : Reg) (off : BitVec 10) (w : Nat) : Nat := ((c.w.reg t a.toNat).toNat + off.toNat * w) % 2 ^ 32
/-- Threads that a store or an atomic acts for: active and no helpers (R121). -/
def doers (c : Ctx) : List Nat := c.active.filter fun t => !c.isHelper t

/-- A load goes on: its accesses are issued for the threads and their targets, and its landing entry `dist` slots on is queued. -/
def loads (s : State) (c : Ctx) (ts : List Nat) (targets : Nat → List Nat) (addr : Nat → Nat) (p : Nat → Place) (n : Nat) (d : Reg) (dist : Nat)
    (uniform : Bool) : Host.Outcome State Fault Refusal :=
  let r := s.issueLoad c (ts.map fun t => { t := t, onDie := addr t, place := p t, targets := targets t }) n d.toNat dist uniform
  goesOn r.1 c { r.2 with pc := r.2.pc + 4 }
/-- A store goes on: its accesses are issued, each with its thread's words from v[src] upward. -/
def stores (s : State) (c : Ctx) (ts : List Nat) (addr : Nat → Nat) (p : Nat → Place) (n : Nat) (src : Reg) (uniform : Bool) :
    Host.Outcome State Fault Refusal :=
  let r := s.issueStore c c.next (ts.map fun t => (t, addr t, p t, storeData c.w t src n)) n uniform
  goesOn r.1 c r.2

/-- The accesses of a form (R168, R169, R196): its operands, where they may go, whether they read and write, the threads that make them, each
thread's address, and their bytes. -/
structure AccessRow where
  uses : List Use
  admits : Admit
  reads : Bool
  writes : Bool
  threads : Ctx → List Nat
  addr : Ctx → Nat → Nat
  bytes : Nat
def accessRow (i : Instr) : Option AccessRow :=
  let lead (c : Ctx) : List Nat := [c.leader]
  let indexed (a b : Reg) (c : Ctx) (t : Nat) : Nat := ((c.w.reg t a.toNat).toNat + (c.w.reg t b.toNat).toNat) % 2 ^ 32
  let direct (a : Reg) (c : Ctx) (t : Nat) : Nat := (c.w.reg t a.toNat).toNat
  let offset (a : Reg) (off : BitVec 10) (w : Nat) (c : Ctx) (t : Nat) : Nat := mem c t a off w
  match i with
  | .ldg wide d a off => let n := if wide then 8 else 4; some ⟨[operandOf (n / 4) d, r1 a], .group, true, false, Ctx.active, offset a off n, n⟩
  | .uldg wide d a off => let n := if wide then 8 else 4; some ⟨[operandOf (n / 4) d, r1 a], .group, true, false, lead, offset a off n, n⟩
  | .stg wide d a off => let n := if wide then 8 else 4; some ⟨[operandOf (n / 4) d, r1 a], .group, false, true, doers, offset a off n, n⟩
  | .ustg wide d a off => let n := if wide then 8 else 4; some ⟨[operandOf (n / 4) d, r1 a], .group, false, true, lead, offset a off n, n⟩
  | .lds w d a off => let n := 4 * accessWords w; some ⟨[operandOf (n / 4) d, r1 a], .windowOrGeometry, true, false, Ctx.active, offset a off n, n⟩
  | .ulds w d a off => let n := 4 * accessWords w; some ⟨[operandOf (n / 4) d, r1 a], .windowOrGeometry, true, false, lead, offset a off n, n⟩
  | .sts w d a off => let n := 4 * accessWords w; some ⟨[operandOf (n / 4) d, r1 a], .window, false, true, doers, offset a off n, n⟩
  | .usts w d a off => let n := 4 * accessWords w; some ⟨[operandOf (n / 4) d, r1 a], .window, false, true, lead, offset a off n, n⟩
  | .ldgxStsx .ldgx d a b => some ⟨[r1 d, r1 a, r1 b], .group, true, false, Ctx.active, indexed a b, 4⟩
  | .ldgxStsx .stgx d a b => some ⟨[r1 d, r1 a, r1 b], .group, false, true, doers, indexed a b, 4⟩
  | .ldgxStsx .ldsx d a b => some ⟨[r1 d, r1 a, r1 b], .windowOrGeometry, true, false, Ctx.active, indexed a b, 4⟩
  | .ldgxStsx .stsx d a b => some ⟨[r1 d, r1 a, r1 b], .window, false, true, doers, indexed a b, 4⟩
  | .atom o d a b | .atom64 o d a b =>
    some ⟨[operandOf (atomWords o) d, r1 a, operandOf (atomWords o) b], .groupOrWindow, true, true, doers, direct a, 4 * atomWords o⟩
  | .red o a b | .red64 o a b => some ⟨[r1 a, operandOf (atomWords o) b], .groupOrWindow, true, true, doers, direct a, 4 * atomWords o⟩
  | .cas wide d a b =>
    let n := if wide then 8 else 4
    some ⟨[operandOf (n / 4) d, r1 a, operandOf (n / 4) b], .groupOrWindow, true, true, doers, direct a, n⟩
  | _ => none
/-- Only its ULDS and USTS forms of any width reach anything from a control core (R168). -/
def CoreReaches (i : Instr) : Prop := ∃ w d a off, i = .ulds w d a off ∨ i = .usts w d a off

/-- No word of any array is under an armed injector (R209). -/
def NoInjection (s : State) : Prop := ∀ w, s.injectorFor w = none

end Sys2Proof.Rules

/-- Completion of ldg, uldg, lds, ulds and of ldgxStsx's loads (R168, R169): all three regimes. -/
def Obligations.LoadsComplete : Prop :=
  ∀ (wide : Bool) (w : MemWidth) (d a b : Reg) (off : BitVec 10) (s : State) (c : Ctx) (p : Nat → Place), Ready s c → Legal c [r1 a, r1 b] →
    let n := if wide then 8 else 4
    let m := MemWidth.bytes w
    let x (t : Nat) : Nat := ((c.w.reg t a.toNat).toNat + (c.w.reg t b.toNat).toNat) % 2 ^ 32
    let own (t : Nat) : List Nat := [t]
    let leader := [c.leader]
    (c.isCore = false → Legal c [gUse wide d false] → Reaches s c .group true false c.active (mem c · a off n) n p → Spread c false false c.active p n →
      exec (.ldg wide d a off) s = loads s c c.active own (mem c · a off n) p n d 3 false) ∧
    (c.isCore = false → Legal c [gUse wide d false] → Reaches s c .group true false leader (mem c · a off n) n p → Spread c false true leader p n →
      exec (.uldg wide d a off) s = loads s c leader (fun _ => c.all) (mem c · a off n) p n d 3 true) ∧
    (c.isCore = false → Legal c [sUse w d false] → Reaches s c .windowOrGeometry true false c.active (mem c · a off m) m p →
      Spread c false false c.active p m → exec (.lds w d a off) s = loads s c c.active own (mem c · a off m) p m d 12 false) ∧
    (Legal c [sUse w d false] → Reaches s c .windowOrGeometry true false leader (mem c · a off m) m p → Spread c false true leader p m →
      exec (.ulds w d a off) s = loads s c leader (fun _ => c.all) (mem c · a off m) p m d 12 true) ∧
    (c.isCore = false → Legal c [w1 d] → Reaches s c .group true false c.active x 4 p → Spread c false false c.active p 4 →
      exec (.ldgxStsx .ldgx d a b) s = loads s c c.active own x p 4 d 3 false) ∧
    (c.isCore = false → Legal c [w1 d] → Reaches s c .windowOrGeometry true false c.active x 4 p → Spread c false false c.active p 4 →
      exec (.ldgxStsx .ldsx d a b) s = loads s c c.active own x p 4 d 12 false)

/-- Completion of stg, ustg, sts, usts and of ldgxStsx's stores (R168, R169): all three regimes. -/
def Obligations.StoresComplete : Prop :=
  ∀ (wide : Bool) (w : MemWidth) (d a b : Reg) (off : BitVec 10) (s : State) (c : Ctx) (p : Nat → Place), Ready s c → Legal c [r1 a, r1 b] →
    let n := if wide then 8 else 4
    let m := MemWidth.bytes w
    let x (t : Nat) : Nat := ((c.w.reg t a.toNat).toNat + (c.w.reg t b.toNat).toNat) % 2 ^ 32
    let leader := [c.leader]
    (c.isCore = false → Legal c [gUse wide d true] → Reaches s c .group false true (doers c) (mem c · a off n) n p → Spread c false false (doers c) p n →
      exec (.stg wide d a off) s = stores s c (doers c) (mem c · a off n) p n d false) ∧
    (c.isCore = false → Legal c [gUse wide d true] → Reaches s c .group false true leader (mem c · a off n) n p → Spread c false true leader p n →
      exec (.ustg wide d a off) s = stores s c leader (mem c · a off n) p n d true) ∧
    (c.isCore = false → Legal c [sUse w d true] → Reaches s c .window false true (doers c) (mem c · a off m) m p → Spread c false false (doers c) p m →
      exec (.sts w d a off) s = stores s c (doers c) (mem c · a off m) p m d false) ∧
    (Legal c [sUse w d true] → Reaches s c .window false true leader (mem c · a off m) m p → Spread c false true leader p m →
      exec (.usts w d a off) s = stores s c leader (mem c · a off m) p m d true) ∧
    (c.isCore = false → Legal c [r1 d] → Reaches s c .group false true (doers c) x 4 p → Spread c false false (doers c) p 4 →
      exec (.ldgxStsx .stgx d a b) s = stores s c (doers c) x p 4 d false) ∧
    (c.isCore = false → Legal c [r1 d] → Reaches s c .window false true (doers c) x 4 p → Spread c false false (doers c) p 4 →
      exec (.ldgxStsx .stsx d a b) s = stores s c (doers c) x p 4 d false)

/-- The requests and the frame of a load's and a store's issue (R172, R185, R211, R229, R230). That no fret keeps back a spill access is the
model's reading of R171 (log entry 126). -/
def Obligations.AccessesAreAskedOfTheBanks : Prop :=
  ∀ (s : State) (c : Ctx) (n reg dist : Nat) (uniform spill : Bool),
    let keeps := c.ordered && !spill
    (∀ accs : List State.LoadAcc, (∀ a ∈ accs, ∀ o, a.place ≠ .geometry o) →
      (keeps = true → s.eccBad = [] ∧ ∀ x, c.l.snap = some x → x.bad = []) →
      let r := s.issueLoad c accs n reg dist uniform spill
      let start (loc : Bool) : Mem := match c.l.snap with | some x => if loc then s.mem else x.mem | none => s.mem
      let seen (q : Piece) : Nat := ofBytes ((List.range q.width).map fun k =>
        (State.bufferedByte c.w (q.addr + k)).getD ((start q.local_).byte (q.addr + k)))
      r.1.mem = s.mem ∧ r.1.groups = s.groups ∧ r.1.bar = s.bar ∧ ∃ new e, r.1.reqs = s.reqs ++ new ∧ r.2 = c.w.push e ∧
        e.id = s.seq ∧ e.slot = c.w.slot + dist ∧ e.waiting = new.length ∧ e.what = .regs [] ∧ e.ecc = none ∧
        new.map (fun q => (q.group, q.wave, q.kind, q.local_, q.addr, q.width, q.targets, q.land)) =
          accs.flatMap fun a => (pieces a.place n).map fun q =>
            (c.g, c.wi, if keeps then ReqKind.seen (seen q) else .load, q.local_, q.addr, q.width, a.targets,
              some (s.seq, reg + q.off / 4, q.width / 4))) ∧
    (∀ accs : List (Nat × Nat × Place × Nat), keeps = false →
      let r := s.issueStore c c.next accs n uniform spill
      r.1.mem = s.mem ∧ r.1.groups = s.groups ∧ r.1.bar = s.bar ∧ r.2 = c.next ∧ ∃ new, r.1.reqs = s.reqs ++ new ∧
        new.map (fun q => (q.group, q.wave, q.kind, q.local_, q.addr, q.width, q.land)) =
          accs.flatMap fun a => (pieces a.2.2.1 n).map fun q =>
            (c.g, c.wi, ReqKind.store (a.2.2.2 / 256 ^ q.off % 256 ^ q.width), q.local_, q.addr, q.width, none)) ∧
    ∀ accs : List (Nat × Nat × Place × Nat), keeps = true →
      let r := s.issueStore c c.next accs n uniform spill
      let kept := accs.flatMap fun a => (pieces a.2.2.1 n).map fun q => BufWrite.store q.addr q.width (a.2.2.2 / 256 ^ q.off % 256 ^ q.width)
      r.1 = s ∧ r.2 = { c.next with buffer := c.w.buffer ++ kept }

/-- The checks of R169 in order, for every form of `accessRow`. -/
def Obligations.AccessTrapsComeInOrder : Prop :=
  (∀ (i : Instr) (r : AccessRow) (s : State) (c : Ctx) (t : Nat) (before after : List Nat), accessRow i = some r → Ready s c → Legal c r.uses →
    (c.isCore = true → CoreReaches i) → r.threads c = before ++ t :: after →
    Reaches s c r.admits r.reads r.writes before (r.addr c) r.bytes (fun u => (s.place c r.admits (r.addr c u) r.bytes).getD (.group 0)) →
    let x := r.addr c t
    (x % r.bytes ≠ 0 → exec i s = traps s c (trapAlign x)) ∧
    (x % r.bytes = 0 → s.place c r.admits x r.bytes = none → exec i s = traps s c (trapBounds x)) ∧
    (∀ p k, x % r.bytes = 0 → s.place c r.admits x r.bytes = some p → s.watchAt c x r.bytes r.reads r.writes = some k →
      exec i s = traps s c (trapWatch k x))) ∧
  ∀ (wide : Bool) (d a : Reg) (off : BitVec 10) (s : State) (c : Ctx), Ready s c → Legal c [operandOf (if wide then 2 else 1) d, r1 a] → c.isCore = true →
    let x := mem c c.leader a off (if wide then 8 else 4)
    exec (.uldg wide d a off) s = traps s c (trapBounds x) ∧ exec (.ustg wide d a off) s = traps s c (trapBounds x)

/-- Completion of spl, uspl, sps and usps (R166), and their traps. That ALIGN stands before STACK, and that no fret keeps a spill access back, are
the model's (log entries 99 and 126). What the requests are is `AccessesAreAskedOfTheBanks`. -/
def Obligations.SpillAccessesComplete : Prop :=
  ∀ (d a : Reg) (off : BitVec 10) (s : State) (c : Ctx), Ready s c → Legal c [r1 d, r1 a] →
    let o (t : Nat) : Nat := mem c t a off 4
    let rows := c.card.spillBytes / 128
    let inside (t : Nat) : Prop := o t % 4 = 0 ∧ o t / 4 < rows
    let place (t row : Nat) : Nat := Base.local_ c.grp.cluster + c.grp.spillBase + c.card.spillBytes * c.wi + 128 * (row / 4) + 4 * t
    let reads (uniform : Bool) (accs : List State.LoadAcc) : Host.Outcome State Fault Refusal :=
      let r := s.issueLoad c accs 4 d.toNat 3 uniform true
      goesOn r.1 c { r.2 with pc := r.2.pc + 4 }
    let writes (uniform : Bool) (accs : List (Nat × Nat × Place × Nat)) : Host.Outcome State Fault Refusal :=
      let r := s.issueStore c c.next accs 4 uniform true
      goesOn r.1 c r.2
    (c.isCore = true → exec (.uspl d a off) s = traps s c trapStack ∧ exec (.usps d a off) s = traps s c trapStack) ∧
    (c.isCore = false →
      ((∀ t ∈ c.active, inside t) →
        exec (.spl d a off) s = reads false (c.active.map fun t => { t := t, onDie := 0, place := .group (place t (o t)), targets := [t] })) ∧
      (inside c.leader →
        exec (.uspl d a off) s = reads true [{ t := c.leader, onDie := 0, place := .group (place c.leader (o c.leader)), targets := c.all }]) ∧
      ((∀ t ∈ doers c, inside t) →
        exec (.sps d a off) s = writes false ((doers c).map fun t => (t, 0, .group (place t (o t)), (c.w.reg t d.toNat).toNat))) ∧
      (inside c.leader →
        exec (.usps d a off) s = writes true (c.all.map fun t => (t, 0, .group (place t (o c.leader)), (c.w.reg c.leader d.toNat).toNat))) ∧
      (∀ t before after, (∀ u ∈ before, inside u) →
        (c.active = before ++ t :: after → (o t % 4 ≠ 0 → exec (.spl d a off) s = traps s c (trapAlign (o t))) ∧
          (o t % 4 = 0 → rows ≤ o t / 4 → exec (.spl d a off) s = traps s c trapStack)) ∧
        (doers c = before ++ t :: after → (o t % 4 ≠ 0 → exec (.sps d a off) s = traps s c (trapAlign (o t))) ∧
          (o t % 4 = 0 → rows ≤ o t / 4 → exec (.sps d a off) s = traps s c trapStack))) ∧
      (o c.leader % 4 ≠ 0 → exec (.uspl d a off) s = traps s c (trapAlign (o c.leader)) ∧ exec (.usps d a off) s = traps s c (trapAlign (o c.leader))) ∧
      (o c.leader % 4 = 0 → rows ≤ o c.leader / 4 → exec (.uspl d a off) s = traps s c trapStack ∧ exec (.usps d a off) s = traps s c trapStack))

/-- Completion of atom, red, atom64, red64 and cas (R196-R201). -/
def Obligations.AtomicsComplete : Prop :=
  ∀ (o : AtomOp) (wide : Bool) (d a b : Reg) (s : State) (c : Ctx) (p : Nat → Nat) (l : Nat → Bool), Ready s c → Unarmed s c → c.isCore = false →
    (∀ e ∈ c.w.pend, e.id ≠ s.seq) →
    let ad (t : Nat) : Nat := (c.w.reg t a.toNat).toNat
    let place (t : Nat) : Place := if l t then .group (p t) else .window (p t)
    let answers (i : Instr) (returns : Bool) (n : Nat) (kind : Nat → ReqKind) (buf : Nat → Option (Nat × Nat × Nat) → BufWrite) : Prop :=
      ∃ t w, exec i s = .next t ∧ t.mem = s.mem ∧ t.bar = s.bar ∧ t.wave c.g c.wi = some w ∧ w.pc = c.w.pc + 4 ∧
        (c.ordered = true → t.reqs = s.reqs ∧ w.buffer = c.w.buffer ++ (doers c).map fun u => buf u (if returns then some (s.seq, d.toNat, u) else none)) ∧
        (c.ordered = false → w.buffer = c.w.buffer ∧ ∃ new, t.reqs = s.reqs ++ new ∧
          new.map (fun q => (q.group, q.wave, q.kind, q.local_, q.addr, q.width, q.targets, q.land)) = (doers c).map fun u =>
            (c.g, c.wi, kind u, l u, p u, n, [u], if returns then some (s.seq, d.toNat, n / 4) else none)) ∧
        (returns = true → ∃ e, e ∈ w.pend ∧ e.id = s.seq ∧ e.slot = c.w.slot + 12 ∧
          e.what = .regs ((c.active.filter fun u => c.isHelper u).flatMap fun u => resultWords d.toNat (n / 4) u 0) ∧
          e.nextFret = c.ordered ∧ (c.ordered = false → e.waiting = (doers c).length))
    let ok (n : Nat) : Prop := Reaches s c .groupOrWindow true true (doers c) ad n place ∧ Spread c true false (doers c) place n
    let n := AtomOp.width o
    let k := if wide then 8 else 4
    (Legal c [atomUse o d false, r1 a, atomUse o b true] → ok n →
      answers (.atom o d a b) true n (fun u => .atomic o (operand c.w u b (n / 4))) (fun u r => .atomic o (p u) n (operand c.w u b (n / 4)) r) ∧
      answers (.atom64 o d a b) true n (fun u => .atomic o (operand c.w u b (n / 4))) (fun u r => .atomic o (p u) n (operand c.w u b (n / 4)) r)) ∧
    (Legal c [r1 a, atomUse o b true] → ok n →
      answers (.red o a b) false n (fun u => .atomic o (operand c.w u b (n / 4))) (fun u r => .atomic o (p u) n (operand c.w u b (n / 4)) r) ∧
      answers (.red64 o a b) false n (fun u => .atomic o (operand c.w u b (n / 4))) (fun u r => .atomic o (p u) n (operand c.w u b (n / 4)) r)) ∧
    (Legal c [gUse wide d true, r1 a, gUse wide b true] → ok k →
      answers (.cas wide d a b) true k (fun u => .cas (operand c.w u d (k / 4)) (operand c.w u b (k / 4)))
        (fun u r => .cas (p u) k (operand c.w u d (k / 4)) (operand c.w u b (k / 4)) (r.getD (0, 0, 0))))

/-! ### Banks, barriers and ordering (05 R173, R176-R184; 06 R193-R201; 07 R216-R221) -/

namespace Sys2Proof.Rules

/-- What a request writes at its bank over the old value (R193, R198, R201, R220): none writes nothing. -/
def written (k : ReqKind) (old : Nat) : Option Nat :=
  match k with
  | .store x => some x
  | .atomic o x => some (atomicNew o old x)
  | .cas e x => if old = e then some x else none
  | .pegAdd => some (old + 1)
  | _ => none
/-- A load, a load of the ordered regime whose value its issue fixed, a store, an atomic, a CAS or a REL's increment. -/
def plainKind (k : ReqKind) : Prop :=
  match k with
  | .load | .seen _ | .store _ | .atomic _ _ | .cas _ _ | .pegAdd => True
  | _ => False
/-- The request's turn at its banks has come, and they are awake: it has reached them, they are free, and it comes first in its party's order
and in that of the banks (R186, R193, R213, R216); or in the locked regime its cycle has come, and the banks are free and hold nothing else (R188,
R235). -/
def Served (s : State) (r : Req) : Prop :=
  r.banks.any (asleep s) = false ∧
  match r.due with
  | none => r.arrive ≤ s.cyc ∧ s.mayServe r = true ∧ behind s r = false ∧ (s.banksBusy r.banks = true → merged s r = true)
  | some t => t ≤ s.cyc ∧ bankTaken s r = false
/-- Nothing waits for an access of the wave to be performed: it has threads, and no full barrier of its group, nor the grid barrier, stands
behind the group's writes (R101, R178, R180). -/
def NothingWaits (s : State) (g wi : Nat) : Prop :=
  (∀ w, s.wave g wi = some w → w.leaving = false) ∧
  ∀ x, mget g s.groups = some x → x.barAfter = [] ∧ ∀ l, mget x.launch s.launches = some l → l.gbarAfter = none
/-- Banks that would serve an access of n bytes now (R186, R190, R193): free, awake, and with no request waiting at them. -/
def Idle (s : State) (loc : Bool) (a n : Nat) : Prop :=
  bankWaits s (banksOf loc a n) = false ∧ (banksOf loc a n).any (asleep s) = false

/-- Nothing that the issuer has issued is still to be performed. -/
def Quiet (s : State) (c : Ctx) : Prop :=
  (∀ r ∈ s.reqs, r.group = c.g → r.wave ≠ c.wi) ∧ ∀ r ∈ s.rels, r.group = c.g → r.wave ≠ c.wi
/-- No locked phase of the group is due (R178): outside the locked regime always. -/
def NoPhaseDue (s : State) (c : Ctx) : Prop := c.locked = true → ∀ e ∈ c.grp.barDue, s.scy c.l < e.2
/-- The phase of barrier k. -/
def phase (c : Ctx) (k : BitVec 4) : Nat := dget 0 k.toNat c.grp.barPhase
/-- arrive(k) of R176 by the issuer, without a completion; its bindings may pass the barrier (R219). -/
def arrived (s : State) (c : Ctx) (k : BitVec 4) : State :=
  (s.updGroup c.g fun g => { g with barCount := dset 0 k.toNat (dget 0 k.toNat c.grp.barCount + 1) c.grp.barCount,
                                    waves := g.waves.modify c.wi fun w => { w with tickets := mset k.toNat (phase c k) w.tickets } }).bindArrive
    c.lid c.g c.wi k.toNat
/-- The leader's value of a register. -/
def val (c : Ctx) (r : Reg) : Nat := (c.w.reg c.leader r.toNat).toNat
/-- The peg that a register names: aligned, in the window, and not watched (R220, R221). -/
def PegOk (s : State) (c : Ctx) (p : Reg) (rd wr : Bool) : Prop :=
  val c p % 8 = 0 ∧ s.inWindow c.part (val c p) 8 = true ∧ s.watchAt c (val c p) 8 rd wr = none

end Sys2Proof.Rules

/-- BANK_REQUEST and LOCAL_STORE_REQUEST (R172, R193, R197, R201, R220), with the bytes they leave, where nothing waits for the access; what does
is `BarrierPhasesComplete`. The canonical form of memory is the premise; `StepKeepsMemoryCanonical` states that steps keep it. -/
def Obligations.BankRequestsPerform : Prop :=
  ∀ (s : State) (r : Req), s.reqs.find? (fun q => q.id == r.id) = some r →
    let ran : Host.Outcome State Fault Refusal := exec (if r.local_ then .localStoreRequest r.id else .bankRequest r.id) s
    (Served s r → NothingWaits s r.group r.wave → plainKind r.kind → (r.kind = .pegAdd → r.width = 8) → s.eccBad = [] → NoInjection s →
      Safety.MemoryOk s → arrayOf (r.addr / 8 * 8) ≠ none → 0 < r.width → r.addr % 8 + r.width ≤ 8 →
      ∃ t, ran = .next t ∧ t.reqs = s.reqs.filter (fun q => q.id != r.id) ∧
        let old := s.mem.load r.addr r.width
        (∀ k < r.width, t.mem.byte (r.addr + k) = match written r.kind old with
          | some y => BitVec.ofNat 8 (y / 256 ^ k)
          | none => s.mem.byte (r.addr + k)) ∧
        (∀ a, a < r.addr ∨ r.addr + r.width ≤ a → t.mem.byte a = s.mem.byte a) ∧
        t.groups = match r.kind with
          | .store _ | .pegAdd => s.groups
          | .seen x => (s.deliver r (toBytes x r.width) none).groups
          | _ => (s.deliver r (toBytes old r.width) none).groups) ∧
    (r.due = none → r.arrive ≤ s.cyc → s.mayServe r = true → behind s r = false → s.banksBusy r.banks = false →
      r.banks.any (asleep s) = true → ran = .next (s.occupy r.banks 24))

/-- Table 06-2 (R198), the sums of R199 and the choices of R200. -/
def Obligations.AtomicsWriteTheTabledValue : Prop :=
  (∀ old x : BitVec 32,
    atomicNew .add32 old.toNat x.toNat = (old + x).toNat ∧
    atomicNew .min32 old.toNat x.toNat = (if x.slt old then x else old).toNat ∧
    atomicNew .max32 old.toNat x.toNat = (if old.slt x then x else old).toNat ∧
    atomicNew .minu32 old.toNat x.toNat = (if x.ult old then x else old).toNat ∧
    atomicNew .maxu32 old.toNat x.toNat = (if old.ult x then x else old).toNat ∧
    atomicNew .and old.toNat x.toNat = (old &&& x).toNat ∧ atomicNew .or old.toNat x.toNat = (old ||| x).toNat ∧
    atomicNew .xor old.toNat x.toNat = (old ^^^ x).toNat ∧ atomicNew .exch old.toNat x.toNat = x.toNat) ∧
  (∀ old x : BitVec 64,
    atomicNew .add64 old.toNat x.toNat = (old + x).toNat ∧
    atomicNew .min64 old.toNat x.toNat = (if x.slt old then x else old).toNat ∧
    atomicNew .max64 old.toNat x.toNat = (if old.slt x then x else old).toNat ∧
    atomicNew .minu64 old.toNat x.toNat = (if x.ult old then x else old).toNat ∧
    atomicNew .maxu64 old.toNat x.toNat = (if old.ult x then x else old).toNat) ∧
  let float (f : Fp.Fmt) (add min max : AtomOp) : Prop := ∀ old x : Nat, old < 2 * f.signBit → x < 2 * f.signBit →
    let key (z : Nat) : Int := if negative f z then -((z % f.signBit : Nat) : Int) - 1 else ((z % f.signBit : Nat) : Int)
    (IsNan f old ∨ IsNan f x → atomicNew add old x = f.nanBits ∧ atomicNew min old x = f.nanBits ∧ atomicNew max old x = f.nanBits) ∧
    (Finite f old → Finite f x → ∃ flags, SumsTo f {} [term f {} old, term f {} x] (atomicNew add old x, flags)) ∧
    (∀ y : Bool, old = signOf f y + f.infBits → (Finite f x ∨ x = old → atomicNew add old x = old ∧ atomicNew add x old = old) ∧
      (x = signOf f (!y) + f.infBits → atomicNew add old x = f.nanBits)) ∧
    (¬IsNan f old → ¬IsNan f x →
      atomicNew min old x = (if key old ≤ key x then old else x) ∧ atomicNew max old x = (if key old ≤ key x then x else old))
  float Fp.f32 .addf32 .fmin32 .fmax32 ∧ float Fp.f64 .addf64 .fmin64 .fmax64 ∧ Fp.f32.nanBits = 0x7FC00000 ∧ Fp.f64.nanBits = 0x7FF8000000000000

/-- Completion, waiting and SYNC of the barriers (R176, R180), and completion of regang, waitt and mwait (R87, R108, R182, R183). When the gang
counts as parted is the model's (log entry 20). What an ordered wait looks at before the first
commit, an MWAIT of an uncorrectable word, and a third arrival at a full phase are the model's readings (log entries 111, 112 and 114). -/
def Obligations.BarrierInstructionsComplete : Prop :=
  ∀ (k n : BitVec 4) (d a : Reg) (off : BitVec 10) (s : State) (c : Ctx), Ready s c → c.isCore = false → FretStart c →
    let ticket := mget k.toNat c.w.tickets
    let left := { c.next with tickets := mdel k.toNat c.w.tickets }
    let grid := match (if c.ordered then c.l.snap else none) with | some x => x.gbar | none => c.l.gbarPhase
    (NoPhaseDue s c →
      (∀ p, ticket = some p → phase c k ≠ p → exec (.barw k) s = goesOn s c left ∧ (c.w.wait = .bar k.toNat → exec (.bar k) s = goesOn s c left)) ∧
      (ticket = none → exec (.barw k) s = traps s c trapSync) ∧
      (ticket = some (phase c k) → c.ordered = false → exec (.bara k) s = traps s c trapSync ∧
        (c.w.wait ≠ .bar k.toNat → exec (.bar k) s = traps s c trapSync)) ∧
      (ticket ≠ some (phase c k) → c.ordered = false → dget 0 k.toNat c.grp.barCount + 1 ≠ State.liveWaves c.grp →
        exec (.bara k) s = goesOn (arrived s c k) c { c.next with tickets := mset k.toNat (phase c k) c.w.tickets } ∧
        (c.w.wait ≠ .bar k.toNat → exec (.bar k) s =
          .next ((arrived s c k).notReady c { c.w with tickets := mset k.toNat (phase c k) c.w.tickets, wait := .bar k.toNat } 2)))) ∧
    (c.ordered = true → exec (.bara k) s = goesOn s c { c.next with buffer := c.w.buffer ++ [.bara k.toNat] }) ∧
    (c.card.coop = 0 → exec .gbar s = traps s c trapSync) ∧
    (∀ p, c.card.coop ≠ 0 → c.w.wait = .gbar p → c.l.gbarDue = none → grid ≠ p → exec .gbar s = goesOn s c c.next) ∧
    ((c.locked = true ∨ (State.isParted c = false ∧ State.gangDiffers c = false)) → exec .regang s = goesOn s c c.next) ∧
    (let cov := c.w.deferred.take (c.w.deferred.length - n.toNat)
     (∀ e ∈ cov, e.arrived = true ∧ e.ecc = none ∧ e.failed = none) →
      exec (.waitt n) s = goesOn s c { c.next with deferred := c.w.deferred.drop cov.length, pend := c.w.pend ++ cov.map (deferredLanding c 1) }) ∧
    (∀ (p : Nat) (l : Bool), c.locked = false → Quiet s c → Idle s l p 4 → Legal c [r1 d, r1 a] →
      (∀ m x b, c.w.wait ≠ .monitor m x b) → (∀ m x, c.w.wait ≠ .look m x) → mem c c.leader a off 4 % 4 = 0 →
      s.place c .groupOrWindow (mem c c.leader a off 4) 4 = some (if l then .group p else .window p) →
      s.watchAt c (mem c c.leader a off 4) 4 true false = none →
      let u := s.occupy (banksOf l p 4) 1
      let r := u.readJudged c l p 4
      (c.ordered = false → r = (s.mem.bytes p 4, none, u)) ∧
        (r.2.1 = none → ofBytes r.1 ≠ val c d → exec (.mwait d a off) s = goesOn r.2.2 c c.next) ∧
        (r.2.1 = none → ofBytes r.1 = val c d → exec (.mwait d a off) s = .next (r.2.2.notReady c { c.w with
          wait := .monitor (mem c c.leader a off 4) (c.w.reg c.leader d.toNat) false, fretEnded := c.w.fretEnded || c.ordered } 2)))

/-- complete(k) of R176, and the memory order of R178, in the elastic regime. That a full phase waits for the writes issued before it is the
model's way to that order (log entry 114). When an access reaches its bank is open (log entry 18). -/
def Obligations.BarrierPhasesComplete : Prop :=
  (∀ (k : BitVec 4) (s : State) (c : Ctx), Ready s c → c.isCore = false → c.locked = false → c.ordered = false →
    rising c.grp.barPhase = true → rising c.grp.barCount = true →
    mget k.toNat c.w.tickets ≠ some (phase c k) → dget 0 k.toNat c.grp.barCount + 1 = State.liveWaves c.grp →
    ∃ t x, exec (.bara k) s = .next t ∧ mget c.g t.groups = some x ∧
      (∀ j, j ≠ k.toNat → dget 0 j x.barPhase = dget 0 j c.grp.barPhase ∧ dget 0 j x.barCount = dget 0 j c.grp.barCount) ∧
      (s.writesBefore c.g s.seq = false → dget 0 k.toNat x.barPhase = (phase c k + 1) % 2 ^ 32 ∧ dget 0 k.toNat x.barCount = 0) ∧
      (s.writesBefore c.g s.seq = true → dget 0 k.toNat x.barPhase = phase c k ∧ dget 0 k.toNat x.barCount = State.liveWaves c.grp ∧
        mget k.toNat x.barAfter = some s.seq)) ∧
  ∀ (s : State) (r : Req) (x : Group) (k n : Nat), s.reqs.find? (fun q => q.id == r.id) = some r → Served s r → plainKind r.kind →
    mget r.group s.groups = some x → x.barAfter = [(k, n)] → rising x.barPhase = true →
    (∀ w, s.wave r.group r.wave = some w → w.leaving = false) → (∀ l, mget x.launch s.launches = some l → l.gbarAfter = none) →
    (s.serve r).writesBefore r.group n = false →
    ∃ t y, exec (if r.local_ then .localStoreRequest r.id else .bankRequest r.id) s = .next t ∧ mget r.group t.groups = some y ∧
      dget 0 k y.barPhase = (dget 0 k x.barPhase + 1) % 2 ^ 32 ∧ y.barAfter = [] ∧ ∀ j, j ≠ k → dget 0 j y.barPhase = dget 0 j x.barPhase

/-- Completion of fence, ufence, rel, urel, acq, uacq, bind, ubind and frete (R216, R219-R221, R228), each with its next state, and their traps. Which instructions
acquire is the model's reading (log entry 17), and when an access is performed is open (log entry 18). -/
def Obligations.OrderingInstructionsComplete : Prop :=
  ∀ (sc : Scope) (p q b l : Reg) (s : State) (c : Ctx), Ready s c →
    let a := s.windowAddr c.part (val c p)
    let fenced := { c.next with epoch := c.w.epoch + if c.locked || c.ordered then 0 else 1 }
    exec (.ufence sc) s = .next (s.retire c fenced 8) ∧
    (c.isCore = false → exec (.fence sc) s = .next (s.retire c fenced 8)) ∧
    (c.isCore = false → exec .frete s = .next (s.retire c { c.next with fretEnded := c.ordered } 8)) ∧
    -- REL and UREL
    (Legal c [r1 p] →
      (PegOk s c p false true →
        (c.ordered = true → c.isCore = false →
          exec (.urel p) s = .next (s.retire c { c.next with buffer := c.w.buffer ++ [.peg a] } 8) ∧
          exec (.rel p) s = .next (s.retire c { c.next with buffer := c.w.buffer ++ [.peg a] } 8)) ∧
        (c.locked = true →
          exec (.urel p) s = .next ((s.request c ⟨false, a, 0, 8⟩ (val c p) c.leader [] none true .pegAdd).retire c c.next 8) ∧
          (c.isCore = false →
            exec (.rel p) s = .next ((s.request c ⟨false, a, 0, 8⟩ (val c p) c.leader [] none false .pegAdd).retire c c.next 8))) ∧
        (c.ordered = false → c.locked = false →
          let r : RelWait := { id := s.seq, group := c.g, wave := c.wi, epoch := c.w.epoch, target := .peg a, covers := relCovers s c (val c p), due := none }
          exec (.urel p) s = .next (State.retire { s.fresh with rels := s.rels ++ [r] } c c.next 8) ∧
          (c.isCore = false → exec (.rel p) s = .next (State.retire { s.fresh with rels := s.rels ++ [r] } c c.next 8)))) ∧
      (val c p % 8 ≠ 0 → exec (.urel p) s = traps s c (trapAlign (val c p)) ∧ (c.isCore = false → exec (.rel p) s = traps s c (trapAlign (val c p)))) ∧
      (val c p % 8 = 0 → s.inWindow c.part (val c p) 8 = false →
        exec (.urel p) s = traps s c (trapBounds (val c p)) ∧ (c.isCore = false → exec (.rel p) s = traps s c (trapBounds (val c p))))) ∧
    -- ACQ and UACQ
    (FretStart c → Legal c [r1 p, r1 q] →
      (PegOk s c p true false → c.locked = false → Quiet s c → Idle s false a 8 →
        let u := s.occupy (banksOf false a 8) 1
        let r := u.readJudged c false a 8
        let waits := { c.w with wait := .condition, fretEnded := c.w.fretEnded || c.ordered }
        let looked := if c.w.wait = .condition then s else r.2.2
        (c.ordered = false → r = (s.mem.bytes a 8, none, u)) ∧
        (r.2.1 = none → val c q ≤ ofBytes r.1 → exec (.uacq p q) s = .next ((r.2.2.acquired c).retire c c.next 8) ∧
          (c.isCore = false → exec (.acq p q) s = .next ((r.2.2.acquired c).retire c c.next 8))) ∧
        (r.2.1 = none → ofBytes r.1 < val c q → exec (.uacq p q) s = .next (looked.notReady c waits 2) ∧
          (c.isCore = false → exec (.acq p q) s = .next (looked.notReady c waits 2)))) ∧
      (PegOk s c p true false → c.locked = true →
        ∃ e, e.id = s.seq ∧ e.slot = c.w.slot + 12 ∧ e.waiting = 1 ∧ e.arrived = false ∧ e.what = .regs [] ∧
          let asked (uniform : Bool) : State :=
            (s.acquired c).fresh.request c ⟨false, a, 0, 8⟩ (val c p) c.leader [] (some (s.seq, 0, 0)) uniform (.pegRead (val c q))
          exec (.uacq p q) s = .next ((asked true).retire c (c.next.push e) 8) ∧
          (c.isCore = false → exec (.acq p q) s = .next ((asked false).retire c (c.next.push e) 8))) ∧
      (val c p % 8 ≠ 0 → exec (.uacq p q) s = traps s c (trapAlign (val c p)) ∧
        (c.isCore = false → exec (.acq p q) s = traps s c (trapAlign (val c p)))) ∧
      (val c p % 8 = 0 → s.inWindow c.part (val c p) 8 = false → exec (.uacq p q) s = traps s c (trapBounds (val c p)) ∧
        (c.isCore = false → exec (.acq p q) s = traps s c (trapBounds (val c p))))) ∧
    -- BIND and UBIND
    (Legal c [r1 p, r1 b, r1 l] →
      let pa := val c p
      let base := val c b
      let len := val c l
      let table := c.l.bindings ++ c.l.newBindings
      let other := table.any fun e => e.peg != pa && decide (base < e.base + e.len) && decide (e.base < base + len)
      let entry (owner : Option (Nat × Nat)) : PegBinding := { peg := pa, base := base, len := len, owner := owner, links := [] }
      let rest (t : List PegBinding) : List PegBinding := t.filter fun e => e.peg != pa
      let bound := s.updLaunch c.lid fun x => if c.ordered then { x with newBindings := x.newBindings ++ [entry none] }
        else { x with bindings := x.bindings ++ [entry (some (c.g, c.wi))] }
      let unbound := s.updLaunch c.lid fun x =>
        if c.ordered then { x with newBindings := rest x.newBindings ++ [{ peg := pa, base := 0, len := 0, owner := none, links := [] }] }
        else { x with bindings := rest x.bindings }
      let aligned := pa % 8 = 0 ∧ base % 8 = 0 ∧ len % 8 = 0
      let inside := aligned ∧ s.inWindow c.part pa 8 = true ∧ (len ≠ 0 → s.inWindow c.part base len = true)
      (inside → len = 0 → exec (.ubind p b l) s = .next (unbound.retire c c.next 8) ∧
        (c.isCore = false → exec (.bind p b l) s = .next (unbound.retire c c.next 8))) ∧
      (inside → len ≠ 0 → other = false → (table.filter fun e => e.len != 0).length < 16 →
        exec (.ubind p b l) s = .next (bound.retire c c.next 8) ∧ (c.isCore = false → exec (.bind p b l) s = .next (bound.retire c c.next 8))) ∧
      let stops (ti : TrapInfo) : Prop := exec (.ubind p b l) s = traps s c ti ∧ (c.isCore = false → exec (.bind p b l) s = traps s c ti)
      (pa % 8 ≠ 0 → stops (trapAlign pa)) ∧ (pa % 8 = 0 → base % 8 ≠ 0 → stops (trapAlign base)) ∧
      (pa % 8 = 0 → base % 8 = 0 → len % 8 ≠ 0 → stops (trapAlign len)) ∧
      (aligned → s.inWindow c.part pa 8 = false → stops (trapBounds pa)) ∧
      (aligned → s.inWindow c.part pa 8 = true → len ≠ 0 → s.inWindow c.part base len = false → stops (trapBounds base)) ∧
      (inside → len ≠ 0 → other = true → stops trapSync) ∧
      (inside → len ≠ 0 → 16 ≤ (table.filter fun e => e.len != 0).length → stops trapSync))
/-! ### The control core, the fabric and the units (08, 09, 10, 11, 12, 16, 17) -/

namespace Sys2Proof.Rules

/-- The instruction takes its slot and goes on at the next instruction, in a state of which P holds. -/
def Advances (i : Instr) (s : State) (c : Ctx) (P : State → Prop) : Prop := ∃ t, exec i s = goesOn t c c.next ∧ P t
/-- Groups, launches and memory are as they were. -/
def KeepsRest (s t : State) : Prop := t.groups = s.groups ∧ t.launches = s.launches ∧ t.mem = s.mem ∧ t.bar = s.bar ∧ t.reqs = s.reqs
/-- The stamp of a stamped command stands far enough ahead (R278). -/
def Stamped (s : State) (c : Ctx) (t : Nat) : Prop := ∃ x : DWord, c.w.stamp = some x ∧ x.toNat = t ∧ s.scy c.l + 128 ≤ t
/-- The cluster of the issuer. -/
def here (s : State) (c : Ctx) : Cluster := s.cluster c.grp.cluster
/-- A result in every thread that a uniform form writes, `dist` slots on. -/
def uniformLanding (s : State) (c : Ctx) (d : Reg) (dist : Nat) (x : Word) : Wave :=
  withLanding s c dist 32 (maskOf c.all) (.regs (c.all.map fun t => (d.toNat * 32 + t, x))) []
/-- The number of matrix commands that wait at the issuer's cluster. -/
def waitingCmds (s : State) (c : Ctx) : Nat := ((here s c).cmds.filter fun m => m.start.isNone).length
/-- A matrix command joins the queue (R301, R302): under the next number; in a locked launch with its stamp (R278). -/
def queues (s : State) (c : Ctx) (i : Instr) (op : MatOp) (tile : Nat) (names : List Nat) : Prop :=
  let cl := here s c
  let m : MatCmd := { num := (cl.issued + 1) % 2 ^ 32, tile := tile, op := op, names := names, pc := c.w.pc, group := c.g, stamp := none,
                      start := none, result := [], flags := 0 }
  waitingCmds s c < 16 →
    (c.locked = false → exec i s = goesOn (s.setCluster c.grp.cluster { cl with cmds := cl.cmds ++ [m], issued := m.num }) c c.next) ∧
    (∀ t, c.locked = true → Stamped s c t → cl.matEnd ≤ t → exec i s = goesOn (s.setCluster c.grp.cluster
      { cl with cmds := cl.cmds ++ [{ m with stamp := some t }], issued := m.num, matEnd := t + op.occupancy }) c c.next)
/-- The 256-bit descriptor in eight registers of the leader (Table 11-1). -/
def descriptor (c : Ctx) (a : Reg) : Nat := ((List.range 8).map fun k => (c.w.reg c.leader (a.toNat + k)).toNat * 2 ^ (32 * k)).foldl (· + ·) 0
/-- A copy joins the engine. -/
def addsCopy (s t : State) (c : Ctx) (k : Copy) : Host.Outcome State Fault Refusal :=
  goesOn { t.fresh with copies := mset s.seq k s.copies } c c.next

end Sys2Proof.Rules

/-- Completion of hsig, uhsig, hwait, halt, at, atv, waitc and tune (R257, R271-R277). What an ordered HWAIT looks at before the first commit, and the mask
that HALT leaves, are the model's (log entries 111 and 135). -/
def Obligations.CoreInstructionsComplete : Prop :=
  ∀ (k : BitVec 4) (n b : Reg) (imm : BitVec 21) (m : BitVec 16) (s : State) (c : Ctx), Ready s c →
    let both (p : Instr → Prop) : Prop := p (.uhsig k) ∧ (c.isCore = false → p (.hsig k))
    -- the counters, in the ordered regime those of the end of the last commit (R232)
    let hs := ((if c.ordered then c.l.snap else none).map fun x => dget [] c.grp.cluster x.counters).getD (here s c).h
    let reached : Prop := (dget 0#32 k.toNat hs - c.w.reg c.leader b.toNat).toNat < 2 ^ 31
    (holdsClaim s c = false → both fun i => exec i s = traps s c trapSync) ∧
    (holdsClaim s c = true → c.ordered = true → both fun i => exec i s = goesOn s c { c.next with buffer := c.w.buffer ++ [.hsig k.toNat] }) ∧
    (holdsClaim s c = true → c.ordered = false → c.locked = false → Quiet s c → both fun i => Advances i s c fun t => KeepsRest s t ∧
      t.clusters = (s.setCluster c.grp.cluster { here s c with h := dset 0#32 k.toNat (dget 0#32 k.toNat (here s c).h + 1) (here s c).h }).clusters) ∧
    (holdsClaim s c = true → c.locked = true → both fun i => Advances i s c fun t => KeepsRest s t ∧ t.clusters = s.clusters ∧
      ∃ r, t.rels = s.rels ++ [r] ∧ r.target = .handoff c.grp.cluster k.toNat ∧ r.due = some (s.cyc + 8)) ∧
    (FretStart c → Legal c [r1 b] →
      (holdsClaim s c = false → exec (.hwait k b) s = traps s c trapSync) ∧
      (holdsClaim s c = true → reached → exec (.hwait k b) s = goesOn (s.acquired c) c c.next) ∧
      (holdsClaim s c = true → ¬reached → c.locked = true → exec (.hwait k b) s = traps s c (trapTiming 0x0E))) ∧
    (c.isCore = true →
      exec .halt s = goesOn s c { c.w with pend := [], active := 0, live := 0, stack := [] } ∧
      (c.locked = false → exec (.at imm) s = goesOn s c c.next ∧ exec .waitc s = goesOn s c c.next ∧ exec (.tune m) s = goesOn s c c.next) ∧
      (c.locked = true → exec (.at imm) s = goesOn s c { c.next with stamp := some (c.w.stampBase + imm.setWidth 64) }) ∧
      (Legal c [r2 n] → exec (.atv n) s = goesOn s c (if c.locked then
        { c.next with stampBase := c.w.dreg c.leader n.toNat, stamp := some (c.w.dreg c.leader n.toNat) } else c.next)) ∧
      (c.locked = true → c.w.stamp = none → exec .waitc s = traps s c (trapTiming 0x0C)) ∧
      (∀ x, c.locked = true → c.w.stamp = some x →
        (x.toNat ≤ s.scy c.l → exec .waitc s = goesOn s c c.next) ∧
        (s.scy c.l < x.toNat → exec .waitc s = .next (s.notReady c { c.w with nextIssue := ceilTo 8 x.toNat } 0))) ∧
      (c.locked = true → Advances (.tune m) s c fun t => t.groups = s.groups ∧ t.mem = s.mem ∧ t.clusters = s.clusters ∧
        ∃ l, mget c.lid t.launches = some l ∧
          let n := min m.toNat (min (corrNow s c.l) 16384)
          (c.grp.cluster = topLeft s c.l → 0 < n → l.tune = some (s.cyc + 1, n) ∧ l.corr = corrNow s c.l - n) ∧
          (c.grp.cluster ≠ topLeft s c.l ∨ n = 0 → l.tune = c.l.tune ∧ l.corr = c.l.corr)))

/-- Completion of send and recv (R249, R250). -/
def Obligations.SendAndRecvComplete : Prop :=
  ∀ (d a b : Reg) (s : State) (c : Ctx) (t : Nat), Ready s c → c.isCore = true → Legal c [r1 d, r1 a, r1 b] →
    let x := val c b
    let port := bits x 5 0
    let m := bits x 28 16
    let y := val c d
    let from_ := bits y 5 0
    let counted := countedWindows s c.lid c.l from_ t
    (c.locked = false → exec (.send d a b) s = traps s c (trapRegime (wordOf (.send d a b))) ∧
      exec (.recv d a b) s = traps s c (trapRegime (wordOf (.recv d a b)))) ∧
    (c.locked = true → c.card.pgt ≠ 0 → Stamped s c t →
      (bits x 7 6 = 0 → bits x 31 29 = 0 → 1 ≤ m → m ≤ 4096 → bits x 15 8 < s.domSize → bit (s.barBits (pcfgOff c.part) 127 64) port = true →
        val c a % 64 = 0 → val c d % 64 = 0 → s.inWindow c.part (val c a) (64 * m) = true →
        (val c a - 0x40000000) / 2 ^ 21 = (val c a + 64 * m - 1 - 0x40000000) / 2 ^ 21 → portTaken s port (s.cycOf c.l t) m = false →
        exec (.send d a b) s = goesOn { s.fresh with sends := mset s.seq { launch := c.lid, cluster := c.grp.cluster, pc := c.w.pc, src := val c a, dst := val c d, port := port, dest := bits x 15 8, count := m, t := t, read := [], next := 0 } s.sends } c c.next) ∧
      (bits y 7 6 = 0 → bits y 31 17 = 0 → val c a % 64 = 0 → val c b % 64 = 0 →
        (s.inWindow c.part (val c a) (val c b) = false → exec (.recv d a b) s = traps s c (trapBounds (val c a))) ∧
        (val c b = 0 → s.inWindow c.part (val c a) 0 = true → exec (.recv d a b) s = goesOn { s with windows := s.windows.map fun (w : Window) => if w.launch = c.lid ∧ w.port = from_ ∧ w.base = val c a then { w with close := some (min t (w.close.getD t)) } else w } c c.next) ∧
        (val c b ≠ 0 → s.inWindow c.part (val c a) (val c b) = true →
          (∀ w ∈ counted, val c a + val c b ≤ w.base ∨ w.base + w.len ≤ val c a) → (counted.filter fun w => w.launch == c.lid).length < 16 →
          exec (.recv d a b) s = goesOn { s with windows := s.windows ++ [{ launch := c.lid, port := from_, base := val c a, len := val c b, src := bits y 15 8, any_ := bit y 16, from_ := t, close := none }] } c c.next))) ∧
    -- an overlap with a counted window, or a seventeenth window of the launch, is found before the stamp is judged
    (∀ u : DWord, c.locked = true → c.card.pgt ≠ 0 → c.w.stamp = some u → bits y 7 6 = 0 → bits y 31 17 = 0 → val c a % 64 = 0 → val c b % 64 = 0 →
      val c b ≠ 0 → s.inWindow c.part (val c a) (val c b) = true →
      ((∃ w ∈ countedWindows s c.lid c.l from_ u.toNat, w.base < val c a + val c b ∧ val c a < w.base + w.len) ∨
        16 ≤ ((countedWindows s c.lid c.l from_ u.toNat).filter fun w => w.launch == c.lid).length) →
      exec (.recv d a b) s = traps s c trapSync) ∧
    (c.locked = true → c.card.pgt ≠ 0 → c.w.stamp = none → bits y 7 6 = 0 → bits y 31 17 = 0 → val c a % 64 = 0 → val c b = 0 →
      s.inWindow c.part (val c a) 0 = true → exec (.recv d a b) s = traps s c (trapTiming 0x0C))

/-- Completion of ores, orel, mma, mmac, azero, adrain, aload, msync, owr and ord (R292-R303, R306, R307). How a value
beyond E4M3 converts is the model's reading (log entry 43). -/
def Obligations.MatrixInstructionsComplete : Prop :=
  ∀ (k : BitVec 4) (t : BitVec 5) (d a b : Reg) (s : State) (c : Ctx), Ready s c → Legal c [r1 d, r1 a, r1 b] →
    let x := val c a
    let y := val c b
    let cl := here s c
    (c.isCore = true →
      (let r : Range := { gbase := bits x 7 0, gcount := bits x 16 8, fmt := bits x 20 17, sb := bits y 15 0, ss := bits y 31 16 }
       bits x 31 21 = 0 → r.fmt ≤ 8 → 1 ≤ r.gcount → r.gcount ≤ 256 → (y = 0 ∨ r.fmt = 6) → r.gbase + r.gcount ≤ 256 →
       mget k.toNat cl.ranges = none →
       (∀ e ∈ cl.ranges, overlaps r e.2 = false) → (∀ m ∈ cl.cmds, ∀ q ∈ m.op.ranges, overlaps r q = false) →
       exec (.ores k a b) s = goesOn (s.setCluster c.grp.cluster { cl with ranges := mset k.toNat r cl.ranges }) c c.next) ∧
      (∀ r, mget k.toNat cl.ranges = some r →
        exec (.orel k) s = goesOn (s.setCluster c.grp.cluster { cl with ranges := mdel k.toNat cl.ranges }) c c.next) ∧
      (mget k.toNat cl.ranges = none → exec (.orel k) s = traps s c trapSync) ∧
      (∀ ra rb, bits x 31 20 = 0 → bits y 31 20 = 0 → mget (bits x 3 0) cl.ranges = some ra → mget (bits y 3 0) cl.ranges = some rb →
        pairs ra.fmt rb.fmt = true → (ra.fmt = 0 → t.toNat % 2 = 0) → panelIn ra (bits x 19 4) = true → panelIn rb (bits y 19 4) = true →
        queues s c (.mma t a b) (.mma ra rb (bits x 19 4) (bits y 19 4)) t.toNat [bits x 3 0, bits y 3 0]) ∧
      (∀ rb, let conv := bits x 6 5
        bits x 31 7 = 0 → bits y 31 20 = 0 → conv ≠ 3 → (conv = 2 → bits x 4 0 % 2 = 0) → mget (bits y 3 0) cl.ranges = some rb →
        pairs (if conv = 0 then 3 else if conv = 1 then 2 else 4) rb.fmt = true → panelIn rb (bits y 19 4) = true →
        queues s c (.mmac t a b) (.mmac (bits x 4 0) conv rb (bits y 19 4)) t.toNat [bits y 3 0]) ∧
      queues s c (.azero t) .azero t.toNat [] ∧
      (let pitch := bits y 15 0
       let conv := bits y 18 16
       let pr := bit y 19
       let n := rowBytes conv pr
       bits y 31 20 = 0 → (pr = true → t.toNat % 2 = 0 ∧ conv = 0) → conv ≤ 3 → n ≤ pitch → x % 128 = 0 → pitch % 128 = 0 →
       (∀ i < 64, s.inWindow c.part (x + i * pitch) n = true) →
       queues s c (.adrain t a b) (.adrain x pitch conv pr) t.toNat [] ∧
       (conv = 0 → queues s c (.aload t a b) (.aload x pitch pr) t.toNat [])) ∧
      (covered (matDone cl) y = true →
        let fs := cl.matFlags.filter fun e => covered y e.1
        exec (.msync b) s = goesOn ((s.acquired c).fresh.setCluster c.grp.cluster { cl with matFlags := cl.matFlags.filter fun e => !covered y e.1 }) c
          (withLanding s c 1 32 1#32 (.regs []) (if fs = [] then [] else [(0, orFlags (fs.map (·.2)))])))) ∧
    (c.isCore = false → holdsClaim s c = false → exec (.owr k a b) s = traps s c trapSync ∧ exec (.ord d a b) s = traps s c trapSync) ∧
    (c.isCore = false → holdsClaim s c = true →
      (let off (u : Nat) : Nat := (c.w.reg u b.toNat).toNat
       ∀ r, mget k.toNat cl.ranges = some r → (∀ u ∈ c.active, off u % 4 = 0 ∧ off u + 4 ≤ 4096 * r.gcount) →
       (c.locked = true → tileDegree (c.active.map fun u => (u, (4096 * r.gbase + off u) / 4 % 32, (4096 * r.gbase + off u) / 4)) = false) →
       let w := s.issueStore c c.next (c.active.map fun u => (u, off u, .group (Base.operand c.grp.cluster + 4096 * r.gbase + off u), if c.isHelper u then 0 else (c.w.reg u a.toNat).toNat)) 4 false
       exec (.owr k a b) s = goesOn w.1 c w.2) ∧
      (let tile (u : Nat) : Nat := (c.w.reg u a.toNat).toNat
       let elem (u : Nat) : Nat := (c.w.reg u b.toNat).toNat
       (∀ u ∈ c.active, tile u ≤ 31 ∧ elem u ≤ 4095) →
       (c.locked = true → tileDegree (c.active.map fun u => (u, elem u % 32, tile u * 4096 + elem u)) = false) →
       let w := s.issueLoad c (c.active.map fun u => { t := u, onDie := 0, place := .group (Base.accum c.grp.cluster + 16384 * tile u + 4 * elem u), targets := [u] }) 4 d.toNat 4 false
       exec (.ord d a b) s = goesOn w.1 c { w.2 with pc := w.2.pc + 4 }))

/-- Completion of cpy, cpyg, cpys, close, waitb and qtab (R315-R321, R328, R421). That WAITB acquires, and when
a locked copy reads its indexes, are the model's readings (log entries 17 and 100). -/
def Obligations.CopyInstructionsComplete : Prop :=
  ∀ (sl : BitVec 2) (d a b : Reg) (s : State) (c : Ctx), Ready s c →
    let cl := here s c
    let starts (i : Instr) (k : Copy) (quasi : Bool) (busy : Nat) (touch : Nat → Cluster) : Prop :=
      (c.locked = false → exec i s = addsCopy s s c k) ∧
      (c.locked = true → c.isCore = false → exec i s =
        addsCopy s (s.setCluster c.grp.cluster (touch (max busy (s.scy c.l + 8 + k.occupancy)))) c { k with start := some (s.scy c.l + 8) }) ∧
      ∀ t, c.locked = true → c.isCore = true → Stamped s c t → copiesWaiting s c quasi < 16 → busy ≤ t → exec i s =
        addsCopy s (s.setCluster c.grp.cluster (touch (max busy (t + k.occupancy)))) c { k with start := some t }
    let copy (i : Instr) (form idx : Nat) : Prop :=
      let k := copyOf s c form (descriptor c a) idx
      (∀ ti, copyCheck s c i k (descriptor c a) = some ti → exec i s = traps s c ti) ∧
      (copyCheck s c i k (descriptor c a) = none → starts i k false cl.copyEnd fun e => { cl with copyEnd := e })
    (Legal c [r8 a, r1 b] → copy (.cpy a) 0 0 ∧ copy (.cpyg a b) 1 (val c b) ∧ copy (.cpys a b) 2 (val c b)) ∧
    (Legal c [r1 d] → (openBatches s c.g c.wi c.w.batch).length < 64 →
      exec (.close d) s = goesOn s.fresh c { uniformLanding s c d 1 (BitVec.ofNat 32 c.w.batch) with batch := (c.w.batch + 1) % 2 ^ 32 }) ∧
    (FretStart c → Legal c [r1 d, r1 b] → covered (compOf s c.g c.wi c.w.batch) (val c b) = true →
      (∀ e ∈ c.w.batchFail, covered (val c b) e.1 = false) →
      exec (.waitb d b) s = goesOn (s.acquired c).fresh c { uniformLanding s c d 1 (BitVec.ofNat 32 (((c.w.batchBits.filter fun e => covered (val c b) e.1).map (·.2)).foldl Nat.lor 0)) with batchBits := c.w.batchBits.filter fun e => !covered (val c b) e.1 }) ∧
    (Legal c [r2 a, r1 b] →
      let src := (c.w.dreg c.leader a.toNat).toNat
      let ctl := val c b
      let i : Instr := .qtab sl a b
      let k : Copy := { copyOf s c 0 0 0 with form := 3, src := src, dst := sl.toNat * 256 + bits ctl 7 0, xb := 64, yr := 2 * bits ctl 16 8, zp := 1, sspace := if bit ctl 17 then 1 else 0, dspace := 4, srp := 64 }
      (∀ ti, qtabCheck s c i sl.toNat src ctl = some ti → exec i s = traps s c ti) ∧
      (qtabCheck s c i sl.toNat src ctl = none → starts i k true cl.store.busy fun e => { cl with store := { cl.store with busy := e } }))

/-- Completion of enq, tkspawn, tkarg, nqack, nqrst, rslot, rpub and rrel. That a locked wave may issue TKSPAWN, and what a late NQRST does, are the
model's readings (log entries 109 and 118). -/
def Obligations.TaskInstructionsComplete : Prop :=
  ∀ (d a b : Reg) (s : State) (c : Ctx), Ready s c →
    let x := (c.w.dreg c.leader a.toNat).toNat
    let f := val c b
    let status (n : Nat) : Wave := uniformLanding s c d 12 (BitVec.ofNat 32 n)
    let later : Wave := c.next.push { landing s c 12 32 (maskOf c.all) (.regs []) [] with waiting := 1, arrived := false, nextFret := true }
    (Legal c [r1 d, r2 a, r1 b] → ((c.isCore = false → c.locked = false) →
      (2 ≤ f → exec (.enq d a b) s = traps s c (trapIllop (wordOf (.enq d a b)))) ∧
      (f < 2 → x % 64 = 0 → (f = 0 → x < 2 ^ 52) → (f = 1 → x < 2 ^ 32 ∧ s.inWindow c.part x 256 = true) →
        (c.ordered = true → exec (.enq d a b) s = goesOn s.fresh c { later with buffer := c.w.buffer ++ [.enq x (f == 1) (s.seq, d.toNat)] }) ∧
        (c.ordered = false → intakeFull s c.part = true → exec (.enq d a b) s = goesOn s.fresh c (status 1)) ∧
        (c.ordered = false → intakeFull s c.part = false →
          exec (.enq d a b) s = goesOn (joinIntake s.fresh c.part x (f == 1) c.l.ctx (outstanding s c)) c (status 0)))) ∧
      -- no regime forbids TKSPAWN (R67)
      (∀ root, let ring := treeRing s c.l.root
        let own := ring.findIdx (· == c.grp.cluster)
        let tgt := if f / 2 ^ 16 = 0xFFFF then own else f / 2 ^ 16
        mget c.l.root s.launches = some root → root.card.spawn = true → f % 2 ^ 16 < 2 → tgt < ring.length → x % 64 = 0 →
        (f % 2 = 0 → x < 2 ^ 52) → (f % 2 = 1 → x < 2 ^ 32 ∧ s.inWindow c.part x 256 = true) →
        (c.ordered = true → exec (.tkspawn d a b) s = goesOn s.fresh c { later with buffer := c.w.buffer ++ [.spawn x (f % 2 == 1) tgt (s.seq, d.toNat)] }) ∧
        (c.ordered = false → 256 ≤ unreadChildren s c.l.root → exec (.tkspawn d a b) s = goesOn s.fresh c (status 1)) ∧
        (c.ordered = false → unreadChildren s c.l.root < 256 →
          exec (.tkspawn d a b) s = goesOn (spawnChild s.fresh c.l.root own tgt x (f % 2 == 1) (outstanding s c)) c (status 0)))) ∧
    (c.isCore = false → Legal c [r2 d, r1 a, r1 b] →
      (∀ t ∈ c.active, (c.w.reg t a.toNat).toNat < if c.card.groups = 0 then c.grp.chunkCount else c.card.argCount) →
      let at_ (t : Nat) : Nat := (c.card.argBase + (c.grp.chunkBase + (c.w.reg t a.toNat).toNat) * c.card.argBytes + (c.w.reg t b.toNat).toNat) % 2 ^ 52
      exec (.tkarg d a b) s = goesOn s.fresh c (withLanding s c 2 64 c.w.active (.regs (c.active.flatMap fun t =>
        [(d.toNat * 32 + t, BitVec.ofNat 32 (at_ t)), ((d.toNat + 1) * 32 + t, BitVec.ofNat 32 (at_ t / 2 ^ 32))])) [])) ∧
    (Legal c [r1 a, r1 b] →
      ((queuesOf s c.part)[val c a]? = none → exec (.nqack a b) s = traps s c trapQueue ∧ exec (.nqrst a b) s = traps s c trapQueue) ∧
      ∀ n, (queuesOf s c.part)[val c a]? = some n →
        -- packets written and not yet released: P, the value of the peg, less rd
        let fill := (s.mem.load (s.windowAddr (queueOwner s n) (queuePeg s n)) 8 + 2 ^ 32 - queueRd s n) % 2 ^ 32
        let ack := queueState s n = 1 ∧ 1 ≤ f ∧ f ≤ fill
        let rst := queueState s n = 2 ∧ (f + 2 ^ 32 - queueRd s n) % 2 ^ 32 ≤ fill
        (¬ack → exec (.nqack a b) s = traps s c { trapQueue with addr := queuePeg s n }) ∧
        (¬rst → exec (.nqrst a b) s = traps s c { trapQueue with addr := queuePeg s n }) ∧
        (c.ordered = true → ack → exec (.nqack a b) s = goesOn s c { c.next with buffer := c.w.buffer ++ [.queue n false f] }) ∧
        (c.ordered = true → rst → exec (.nqrst a b) s = goesOn s c { c.next with buffer := c.w.buffer ++ [.queue n true f] }) ∧
        (c.ordered = false → Quiet s c → ack → exec (.nqack a b) s = goesOn (s.setBar (qdescOff n) 127 96 (queueRd s n + f)) c c.next) ∧
        (c.ordered = false → Quiet s c → rst →
          exec (.nqrst a b) s = goesOn ((s.setBar (qdescOff n) 127 96 f).setBar (qdescOff n) 41 40 1) c c.next)) ∧
    (ringTrap s c = none →
      (∀ k, c.l.ring = some k →
        (FretStart c → Legal c [r2 d] → exec (.rslot d) s = goesOn (if k.high % 2 ^ 32 = 0 then s else s.acquired c).fresh c (withLanding s c 12 64 (maskOf c.all) (.regs (c.all.flatMap fun t =>
          [(d.toNat * 32 + t, BitVec.ofNat 32 k.low), ((d.toNat + 1) * 32 + t, BitVec.ofNat 32 k.high)])) [])) ∧
        (k.published = true → exec .rpub s = traps s c trapRing) ∧
        (k.published = false → c.ordered = true → exec .rpub s = goesOn (s.updLaunch c.lid fun l => { l with ring := some { k with published := true } }) c
          { c.next with buffer := c.w.buffer ++ [.publish c.lid] }) ∧
        (k.published = false → c.ordered = false → exec .rpub s = goesOn { (s.updLaunch c.lid fun l => { l with ring := some { k with published := true } }).fresh with rels := s.rels ++ [{ id := s.seq, group := c.g, wave := c.wi, epoch := c.w.epoch, target := .publish c.lid, covers := outstanding s c, due := none }] } c c.next) ∧
        (k.released = true → exec .rrel s = goesOn s c c.next) ∧
        (k.released = false → exec .rrel s = goesOn (match k.prev with
          | some p => (s.updLaunch c.lid fun l => { l with ring := some { k with released := true } }).releaseSlot c.card.head p
          | none => s.updLaunch c.lid fun l => { l with ring := some { k with released := true } }) c c.next)) ∧
      (c.l.ring = none → exec .rpub s = traps s c trapRing ∧ exec .rrel s = traps s c trapRing) ∧
      ∀ r, c.l.ring = none → FretStart c → Legal c [r2 d] → mget c.card.head s.rings = some r →
        let may := (((if c.ordered then c.l.snap else none).map (·.slot)).getD true) && mayClaim s c.card.head c.card.strip r
        (may = true → ∃ t w, exec (.rslot d) s = goesOn t c w ∧
          t.slotState c.card.head (nextSlot s c.card.head r) = 1 ∧ ∃ l k, mget c.lid t.launches = some l ∧ l.ring = some k ∧ k.slot = nextSlot s c.card.head r) ∧
        (c.locked = false → may = false →
          exec (.rslot d) s = .next (s.notReady c { c.w with wait := .slot, fretEnded := c.w.fretEnded || c.ordered } 0x10))) ∧
    ∀ ti, ringTrap s c = some ti → exec .rpub s = traps s c ti ∧ exec .rrel s = traps s c ti

/-- Completion of qsamp, qraw, qsampd and qseed (R418-R424). That a point instruction is not ready behind a fence is the model's way to R216
(log entry 127). -/
def Obligations.QuasirandomInstructionsComplete : Prop :=
  ∀ (sl : BitVec 2) (d a b : Reg) (s : State) (c : Ctx), Ready s c →
    let st := (here s c).store
    -- the store that is read: of an ordered launch as the fret found it (R230)
    let snap := if c.ordered then c.l.snap else none
    let mem_ := match snap with | some x => x.mem | none => s.mem
    let slot (t : Nat) : Nat := bits (c.w.reg t b.toNat).toNat 9 8
    let dim (t : Nat) : Nat := (c.w.reg t b.toNat).toNat % 256
    let n (t : Nat) : Nat := State.storeDim st (slot t) (dim t)
    let kept (t : Nat) : List Byte := mem_.bytes (Base.table c.grp.cluster + 128 * n t) 128
    -- a thread of step j reads at c + j + 2 in the locked regime (R424)
    let bytes (t : Nat) : List Byte := if c.locked then (lockedTable s c (slot t) (dim t) (s.scy c.l + t / 4 + 2)).getD (kept t) else kept t
    let words (t : Nat) : List Nat := (List.range 32).map fun k => ofBytes (((bytes t).drop (4 * k)).take 4)
    let queued (t : Nat) : List Nat := s.rels.filterMap fun r => match r.target, r.due with
      | .seeds cl k z, some u => if cl = c.grp.cluster ∧ k = slot t ∧ u ≤ s.cyc + t / 4 + 2 then some (State.seedOf z (dim t)) else none
      | _, _ => none
    let kseed (t : Nat) : Nat := mem_.load (Base.table c.grp.cluster + 0x8000 + 4 * n t) 4
    let seed (t : Nat) : Nat := if c.locked then (queued t).getLast?.getD (kseed t) else kseed t
    let index (t : Nat) : Nat := (c.w.reg t a.toNat).toNat
    let raw (t : Nat) : Nat := rawPoint (words t) (index t)
    let point (t : Nat) : Nat := if bit st.scr (slot t) then scramble (raw t) (seed t) else raw t
    -- points that a later QSEED may still reach
    let open_ (k form : Nat) : List PointRead := if !c.locked then [] else (c.active.filter fun t => bit st.scr (slot t)).map fun t =>
      { reg := d.toNat, words := k, form := form, thread := t, slot := slot t, dim := dim t, raw := raw t, cyc := s.cyc + t / 4 + 2 }
    let lands (k form : Nat) (f : Nat → Nat) : Host.Outcome State Fault Refusal := goesOn s.fresh c (c.next.push
      { landing s c 4 (32 * k) c.w.active (.regs (c.active.flatMap fun t => resultWords d.toNat k t (f (point t)))) [] with points := open_ k form })
    (c.isCore = false → Legal c [r1 d, r1 a, r1 b] → holdsStore s c = false →
      exec (.qsamp d a b) s = traps s c trapSync ∧ exec (.qraw d a b) s = traps s c trapSync ∧
      (Legal c [r2 d] → exec (.qsampd d a b) s = traps s c trapSync)) ∧
    (c.isCore = false → Legal c [r1 d, r1 a, r1 b] → holdsStore s c = true →
      (∀ t ∈ c.active, bit c.card.slotMask (slot t) = true ∧ dim t < st.dims.getD (slot t) 0) →
      (behindFence s c = true → exec (.qraw d a b) s = .next { s with turn := none } ∧ exec (.qsamp d a b) s = .next { s with turn := none } ∧
        (Legal c [r2 d] → exec (.qsampd d a b) s = .next { s with turn := none })) ∧
      (behindFence s c = false → (∀ x, snap = some x → x.bad = []) →
        exec (.qraw d a b) s = lands 1 0 id ∧ exec (.qsamp d a b) s = lands 1 1 point32 ∧
        (Legal c [r2 d] → exec (.qsampd d a b) s = lands 2 2 point64))) ∧
    (Legal c [r1 a] →
      (holdsStore s c = false → exec (.qseed sl a) s = traps s c trapSync) ∧
      (holdsStore s c = true → bit c.card.slotMask sl.toNat = false → exec (.qseed sl a) s = traps s c (trapBounds 0)) ∧
      (holdsStore s c = true → bit c.card.slotMask sl.toNat = true → behindFence s c = true → exec (.qseed sl a) s = .next { s with turn := none }) ∧
      (holdsStore s c = true → bit c.card.slotMask sl.toNat = true → behindFence s c = false →
        let z := c.card.seed + val c a * 2 ^ 32 + sl.toNat * 2 ^ 16
        (c.ordered = true → exec (.qseed sl a) s = goesOn s c { c.next with buffer := c.w.buffer ++ [.qseed sl.toNat (val c a)] }) ∧
        (c.ordered = false → c.locked = false → exec (.qseed sl a) s = goesOn (s.writeSeeds c.grp.cluster sl.toNat z) c c.next) ∧
        (c.locked = true → c.ordered = false → exec (.qseed sl a) s = goesOn { (reseed s c sl.toNat z).fresh with rels := s.rels ++ [{ id := s.seq, group := c.g, wave := c.wi, epoch := c.w.epoch, target := .seeds c.grp.cluster sl.toNat z, covers := [], due := some (s.cyc + 8) }] } c c.next)))
/-! ### The texture, ray and raster engines' instructions (13, 14, 15) -/

namespace Sys2Proof.Rules

/-- The wave after a deferred instruction (R107): one more counter, with nothing made yet. -/
def counts (s : State) (c : Ctx) (d : Reg) (words : Nat) (job : DefJob) : Wave :=
  let e : Deferred := { id := s.seq, pc := c.w.pc, reg := d.toNat, words := words, mask := c.w.active, job := job, value := none, arrived := false,
                        raise := [], ecc := none, got := [], fault := none, failed := none }
  { c.next with deferred := c.w.deferred ++ [e] }
/-- The operands of a texture instruction (R412): a destination of five words, a coordinate block, a binding. -/
def TextureLegal (c : Ctx) (d a b : Reg) (n align : Nat) : Prop :=
  Legal c [{ reg := d, n := 5, align := 4 }, { reg := a, n := n, align := align }, r2 b]
/-- The next ray token of a thread (R399): tokens count from 1. -/
def nextToken (w : Wave) (t : Nat) : Nat := if (dget 0 t w.tokens + 1) % 2 ^ 32 = 0 then 1 else (dget 0 t w.tokens + 1) % 2 ^ 32
/-- The words of a thread's ray record (R400). -/
def rayWords (c : Ctx) (a : Reg) (t : Nat) : List Nat := (List.range 12).map fun i => (c.w.reg t (a.toNat + i)).toNat

end Sys2Proof.Rules

/-- Completion of sample, samplel, sampleg, gath4 and txq (R107, R108, R412). -/
def Obligations.TextureInstructionsComplete : Prop :=
  ∀ (d a b : Reg) (s : State) (c : Ctx), Ready s c → c.isCore = false →
    let forms : List (Instr × Nat × Nat × Nat × (Nat → List Nat)) :=
      [(.sample d a b, 0, 3, 4, fun t => coordWords c a t 3 ++ [0] ++ quadGradients c a t), (.samplel d a b, 1, 4, 4, fun t => coordWords c a t 4),
       (.sampleg d a b, 2, 7, 4, fun t => coordWords c a t 3 ++ [0] ++ (coordWords c a t 7).drop 3), (.gath4 d a b, 3, 4, 4, fun t => coordWords c a t 4),
       (.txq d a b, 4, 1, 1, fun t => coordWords c a t 1)]
    ∀ e ∈ forms, TextureLegal c d a b e.2.2.1 e.2.2.2.1 →
      (c.locked = true → exec e.1 s = traps s c (trapRegime (wordOf e.1))) ∧
      (c.locked = false → c.w.deferred.length < 8 →
        exec e.1 s = goesOn s.fresh c (counts s c d 5 (.texture e.2.1 (c.active.map fun t => (t, (c.w.dreg t b.toNat).toNat, e.2.2.2.2 t))))) ∧
      ∀ x rest, c.locked = false → c.w.deferred = x :: rest → 8 ≤ c.w.deferred.length → x.arrived = false →
        exec e.1 s = .next (s.notReady c { c.w with wait := .condition } 1)

/-- Completion of trace, hitr and resume (R399-R403). -/
def Obligations.RayInstructionsComplete : Prop :=
  ∀ (d a b : Reg) (f : BitVec 7) (s : State) (c : Ctx), Ready s c → c.isCore = false → c.locked = false →
    let mine := doers c
    let word (t i : Nat) : Nat := (c.w.reg t (a.toNat + i)).toNat
    let v (r : Reg) (t : Nat) : Nat := (c.w.reg t r.toNat).toNat
    (Legal c [r2 d, { reg := a, n := 12, align := 4 }, r2 b] → c.w.deferred.length < 8 →
      (∀ t ∈ mine, bits (word t 11) 7 4 = 0 ∧ bits (word t 11) 31 16 = 0) →
      ∃ u w old e, exec (.trace d a b) s = goesOn u c w ∧ w.regs = c.w.regs ∧ w.pc = c.w.pc + 4 ∧ u.mem = s.mem ∧ u.groups = s.groups ∧
        w.deferred = old ++ [e] ∧ old.map (·.id) = c.w.deferred.map (·.id) ∧ e.reg = d.toNat ∧ e.words = 2 ∧ e.mask = c.w.active ∧
        e.job = .trace (mine.map fun t => (t, nextToken c.w t)) ∧
        ∀ t ∈ mine, dget 0 t w.tokens = nextToken c.w t ∧ ∃ r, mget (rayKey c.g c.wi t) u.rays = some r ∧ r.token = nextToken c.w t ∧
          r.scene = (c.w.dreg t b.toNat).toNat ∧ r.words = rayWords c a t ∧ r.status = if (rayIn (rayWords c a t)).isSome then 15 else 0) ∧
    (Legal c [r2 d, r1 a] →
      ((∃ t ∈ mine, v a t ≠ dget 0 t c.w.tokens) → exec (.hitr d a f) s = traps s c trapSync) ∧
      ((∀ t ∈ mine, v a t = dget 0 t c.w.tokens) → c.w.deferred.length < 8 →
        let got := mine.flatMap (fun t => match mget (rayKey c.g c.wi t) s.rays with
            | some r => if r.status = 15 then [] else pairWords d.toNat t (hitWords r f.toNat)
            | none => pairWords d.toNat t (0, if f = 0 then v a t else 0)) ++
          (c.active.filter c.isHelper).flatMap fun t => pairWords d.toNat t (0, 0)
        let r := addDeferred s c d.toNat 2 c.w.active (.hitr f.toNat (mine.map fun t => (t, v a t))) got c.next
        exec (.hitr d a f) s = goesOn r.1 c r.2)) ∧
    (Legal c [r1 d, r1 a, r1 b] →
      ((∀ t ∈ mine, ∃ r, mget (rayKey c.g c.wi t) s.rays = some r ∧ v a t = r.token ∧ (r.status = 2 ∨ r.status = 3) ∧ v b t < 3) →
        exec (.resume d a b) s = goesOn { s with rays := mine.foldl (fun m t => mupd (rayKey c.g c.wi t) (fun r => giveVerdict r (v b t) (v d t)) m) s.rays } c c.next) ∧
      (∀ t rest, mine = t :: rest → mget (rayKey c.g c.wi t) s.rays = none → exec (.resume d a b) s = traps s c trapSync))

/-- Completion of visq, pixw, srate, ordb and orde (R379-R385). That ORDB waits for every access of lower
layers is the model's reading (log entry 59); VISQ of a cell without a hit is free (log entry 61). -/
def Obligations.RasterInstructionsComplete : Prop :=
  ∀ (d a b : Reg) (f : BitVec 7) (sample : Bool) (s : State) (c : Ctx), Ready s c → c.isCore = false → FretStart c →
    Legal c [r2 d, r1 a, r1 b] →
    (shadeCtx c = none → ∀ i ∈ [Instr.visq d f, .pixw a b, .srate a b, .ordb sample, .orde], exec i s = traps s c trapSync) ∧
    ∀ k, shadeCtx c = some k →
      (c.w.deferred.length < 8 → ∃ t w e, exec (.visq d f) s = goesOn t c w ∧ w = { c.next with deferred := c.w.deferred ++ [e] } ∧ t.mem = s.mem ∧
        e.reg = d.toNat ∧ e.words = 2 ∧ e.mask = c.w.active ∧ (f = 0 → e.value = some (c.active.flatMap fun u =>
          pairWords d.toNat u ((cellOf c k u).x + 2 ^ 13 * (cellOf c k u).y + 2 ^ 19 * k.t.rate, k.sh.tile + 2 ^ 16 * k.sh.layer)))) ∧
      ((∀ t ∈ doers c, pixwCheck s c k (c.w.reg t b.toNat).toNat t = none) →
        let w := s.issueStore c c.next ((doers c).flatMap fun t => (maskedPixels k (cellOf c k t) (c.w.reg t b.toNat).toNat).filterMap fun p =>
          (pixelAddr s c k.j p.1 p.2).map fun q => (t, q.1, Place.window (s.windowAddr c.part q.1), (c.w.reg t a.toNat).toNat)) 4 false
        exec (.pixw a b) s = goesOn w.1 c w.2) ∧
      ((∀ t ∈ doers c, (c.w.reg t a.toNat).toNat < k.j.ntiles) → Advances (.srate a b) s c fun t => t.groups = s.groups ∧ t.mem = s.mem ∧
        ∃ l j, mget c.lid t.launches = some l ∧ l.raster = some j ∧ (rising k.j.req = true → ∀ x, dget 0 x j.req =
          if k.j.fixed x then dget 0 x k.j.req
          else ((doers c).filter fun t => (c.w.reg t a.toNat).toNat == x).foldl (fun m t => max m ((c.w.reg t b.toNat).toNat % 4)) (dget 0 x k.j.req))) ∧
      ((∀ t ∈ doers c, c.w.inSection.getLsbD t = false) →
        let stands : Prop := sample = false ∧ (tileOwes s c k = true ∨ ∃ t ∈ doers c, blocksCell s c k (cellOf c k t) = true)
        (¬stands → exec (.ordb sample) s = goesOn (s.acquired c) c { c.next with inSection := c.w.inSection ||| maskOf (doers c) }) ∧
        (stands → exec (.ordb sample) s = .next (s.notReady c { c.w with wait := .condition } 2))) ∧
      ((∃ t ∈ doers c, c.w.inSection.getLsbD t = true) → exec (.ordb sample) s = traps s c trapSync) ∧
      ((∀ t ∈ doers c, c.w.inSection.getLsbD t = true) → exec .orde s =
        goesOn s c { c.next with inSection := c.w.inSection &&& ~~~(maskOf (doers c)), leftSection := c.w.leftSection ||| maskOf (doers c) }) ∧
      ((∃ t ∈ doers c, c.w.inSection.getLsbD t = false) → exec .orde s = traps s c trapSync)
/-! ### The machine's own events (Table 02-14, part two). Each statement says under which conditions its events happen; under others nothing
happens, and the machine stays as it is. -/

namespace Sys2Proof.Rules

/-- The event happens, and leaves a state of which P holds. -/
def Occurs (i : Instr) (s : State) (P : State → Prop) : Prop := ∃ t, exec i s = .next t ∧ P t
/-- Launches and memory are as they were. -/
def Keeps (s t : State) : Prop := t.launches = s.launches ∧ t.mem = s.mem
/-- The oldest held record of queue q is in the host's memory with the write number in its last word (R456). -/
def Posted (s : State) (q : Nat) (r : List Byte) (rest : List (List Byte)) (t : State) : Prop :=
  let wr := s.barBits (qregOff q) 127 96
  let at_ := Base.host + s.barBits (qregOff q) 63 0 + 64 * (wr % s.queueSize q)
  t.mem = (s.mem.setBytes at_ (r.take 60)).store (at_ + 60) 4 wr ∧ t.held = (if rest = [] then mdel q s.held else mset q rest s.held) ∧
    t.groups = s.groups ∧ t.launches = s.launches
/-- Every access that stands before is performed (R217, R342). -/
def Performed (s : State) (covers : List Nat) : Prop := ∀ i ∈ covers, (∀ q ∈ s.reqs, q.id ≠ i) ∧ ∀ q ∈ s.rels, q.id ≠ i
/-- Banks that serve an engine's access to parts of the arrays now: free, awake, and with no request waiting at them (R186, R190). -/
def BanksFree (s : State) (parts : List (Nat × Nat)) : Prop :=
  bankWaits s (partBanks parts) = false ∧ (partBanks parts).any (asleep s) = false
/-- The launch of number `lid` stands at a status. -/
def StatusIs (t : State) (lid : Nat) (p : LaunchStatus) : Prop := ∃ l, mget lid t.launches = some l ∧ l.status = p

end Sys2Proof.Rules

/-- Completion of waveIssueTurn, resultArrival, deferredResultArrival, trapGroupSave, trapRecordPost, hostRecordPost, relIncrement, mwaitWake,
bankRetentionEntry, correctionWriteback, elogack, einjWrite and fdlogack. That a halted shading group is not saved, and when the hold-awake of a
bank ends, are the model's readings (log entries 121 and 131). -/
def Obligations.TurnsResultsAndLogsOccur : Prop :=
  ∀ (g w k part n cluster bank word inst : Nat) (x : BitVec 128) (s : State),
    (s.turn = none → turnReady s g w = true → exec (.waveIssueTurn g w) s = .next { s with turn := some (g, w) }) ∧
    (resultDone s g w k = true → Occurs (.resultArrival g w k) s fun t => Keeps s t ∧
      ∀ u v, s.wave g w = some u → t.wave g w = some v → v.pc = u.pc ∧ ∀ e ∈ v.pend, e.id = k → e.arrived = true) ∧
    (∀ v, s.wave g w = some v → (∃ d ∈ v.deferred, d.id = k ∧ d.value.isSome = true ∧ d.arrived = false) →
      exec (.deferredResultArrival g w k) s = .next (s.updWave g w fun v =>
        { v with deferred := v.deferred.map fun d => if d.id = k then { d with arrived := true } else d })) ∧
    (∀ y l t, mget g s.groups = some y → mget y.launch s.launches = some l → y.kind = .lane → y.status = .halted →
      l.card.regime ≠ 2 → y.shade = none → inFlightDone s g y = true → saveGroup s g = some t → exec (.trapGroupSave g) s = .next t) ∧
    (∀ r rest, part < 64 → s.heldOf (2 + part) = r :: rest → s.queueOpen (2 + part) = true →
      Occurs (.trapRecordPost part) s (Posted s (2 + part) r rest)) ∧
    (∀ r rest, n ≤ 1 → s.heldOf n = r :: rest → s.queueOpen n = true → Occurs (.hostRecordPost n) s (Posted s n r rest)) ∧
    (∀ q, (s.rels.find? fun q => q.id == k) = some q → relReady s q = true →
      exec (.relIncrement k) s = .next ((s.relPerform q).accessDone q.group q.wave) ∧
      (NothingWaits s q.group q.wave → exec (.relIncrement k) s = .next (s.relPerform q)) ∧
      -- a peg's increment goes to its bank (R193); a handoff counter takes it at once
      (∀ p, q.target = .peg p → ∃ r, s.relPerform q = { s with rels := s.rels.filter (fun x => x.id != q.id), reqs := s.reqs ++ [r] } ∧
        r.kind = .pegAdd ∧ r.addr = p ∧ r.width = 8 ∧ r.group = q.group ∧ r.wave = q.wave ∧ r.arrive = s.cyc) ∧
      ∀ cl h, q.target = .handoff cl h → s.relPerform q = { (s.setCluster cl { s.cluster cl with
        h := dset 0#32 h (dget 0#32 h (s.cluster cl).h + 1) (s.cluster cl).h }) with rels := s.rels.filter fun p => p.id != q.id }) ∧
    (∀ (c : Ctx) (a : Nat) (v : Word) (m : Nat) (l : Bool), s.ctxOf g w = some c → c.w.wait = .monitor a v false → c.ordered = false →
      (c.grp.status = .resident ∨ c.grp.status = .suspended) → s.eccBad = [] →
      s.place c .groupOrWindow a 4 = some (if l then .group m else .window m) →
      (s.mem.load m 4 ≠ v.toNat → exec (.mwaitWake g w) s = .next (s.updWave g w fun x => { x with wait := .monitor a v true })) ∧
      (s.mem.load m 4 = v.toNat → exec (.mwaitWake g w) s = .next s)) ∧
    (let b := cluster * 16 + bank % 16
     cluster < 256 → dget false b s.bankAsleep = false → dget 0 b s.bankIdle + 4096 ≤ s.idleClock → heldAwake s b = false →
     exec (.bankRetentionEntry cluster bank) s = .next { s with bankAsleep := mset b true s.bankAsleep }) ∧
    (let bs := banksOf (decide (Base.local_ 0 ≤ word)) word 8
     ∀ found, mget word s.writebacks = some found → rising s.writebacks = true → word < 2 ^ 72 →
      (s.banksBusy bs = false ∧ (∀ r ∈ s.reqs, r.arrive ≤ s.cyc → ∀ b ∈ r.banks, b ∉ bs)) ∨ found + 4096 ≤ s.cyc → NoInjection s →
      Occurs (.correctionWriteback word) s fun t => t.groups = s.groups ∧ t.launches = s.launches ∧ t.bar = s.bar ∧ mget word t.writebacks = none ∧
        t.mem = s.mem.store word 8 (match classify (syndromeOf (s.badAt word)) with
          | .dataBit i => Nat.xor (s.mem.load word 8) (2 ^ i)
          | _ => s.mem.load word 8)) ∧
    (s.bar.wf = true →
      (errorBlock inst = true → Occurs (.elogack inst n) s fun t => Keeps s t ∧ t.groups = s.groups ∧
        t.barBits (inst + 0x400) 5 0 = s.barBits (inst + 0x400) 5 0 - min (n % 64) (s.barBits (inst + 0x400) 5 0)) ∧
      (errorBlock inst = true → Occurs (.einjWrite inst x) s fun t => Keeps s t ∧ t.groups = s.groups ∧
        t.barBits (inst + 0x410) 74 0 = bits x.toNat 74 0 ∧ t.barBits (inst + 0x410) 119 96 = bits x.toNat 119 96) ∧
      Occurs (.fdlogack n) s fun t => Keeps s t ∧ t.groups = s.groups ∧
        t.barBits (dropLogOff + 0x400) 5 0 = s.barBits (dropLogOff + 0x400) 5 0 - min (n % 64) (s.barBits (dropLogOff + 0x400) 5 0))

/-- Completion of fretCommit, hostSubmission, intakeCardRead, cardDispatch, groupPlacement, stealRequest, stealRetryTimer,
terminationTokenPass, cardCompletion, deadlineEvent, preemption, groupRestore, childCardRead and launchStartCycle. Where the end of a wave stands
in a commit, the queues, claims and times of child cards, and a root card without groups are the model's readings (log entries 78, 91, 115 and
122). -/
def Obligations.TaskEventsOccur : Prop :=
  ∀ (lid part cluster g : Nat) (data : List Byte) (s : State),
    (let x := ofBytes data
     let good := data.length = 64 ∧ bits x 67 65 = 0 ∧ bits x 511 72 = 0 ∧ s.partEn part = true ∧ s.barFlag (ctxOff part (bits x 71 68)) 0 = true ∧
       bits x 63 0 % 64 = 0 ∧ (bit x 64 = false → bits x 63 0 < 2 ^ 52) ∧
       (bit x 64 = true → bits x 63 0 < 2 ^ 32 ∧ s.inWindow part (bits x 63 0) 256 = true) ∧ intakeFull s part = false
     (good → exec (.hostSubmission part data) s = .next (joinIntake s part (bits x 63 0) (bit x 64) (bits x 71 68) [])) ∧
     (¬good → exec (.hostSubmission part data) s = .next (s.setPart part { s.partOf part with drops := ((s.partOf part).drops + 1) % 2 ^ 32 }))) ∧
    (∀ e rest t, (s.partOf part).intake = e :: rest → (s.partOf part).teardown = none → Performed s e.covers →
      let ps := cardParts s part e.addr e.onDie
      BanksFree s ps →
      (readCard (touchBanks s ps) part e.ctx e.addr e.onDie = (some none, t) → Occurs (.intakeCardRead part) s fun _ => True) ∧
      (∀ b, readCard (touchBanks s ps) part e.ctx e.addr e.onDie = (some (some b), t) →
        let k := parseCard b
        let rej := (t.partOf part).rejected.filter fun r => decide (e.seq < r.below)
        let u := t.setPart part { t.partOf part with intake := rest, rejected := if rest = [] then [] else rej }
        let fails := ((u.cardFails part e.ctx k false).filter (·.2)).map (·.1)
        (k.pgt = 0 → fails ≠ [] → exec (.intakeCardRead part) s = .next (rejectIntake u part e.ctx e.addr (fails.headD 0) (some k))) ∧
        (∀ q, k.pgt = 0 → fails = [] → (rej.any fun r => r.queue == k.queue && edge r.footprints k.used) = false → u.findQueue part k.queue = some q →
          u.barBits (qcfgOff q) 127 96 < u.barBits (qcfgOff q) 76 64 →
          Occurs (.intakeCardRead part) s fun v => ∃ l, mget (mfresh u.launches) v.launches = some l ∧ l.card = k ∧ l.status = .queued ∧ l.hwq = some q))) ∧
    (∀ l, mget lid s.launches = some l →
      (l.status = .queued → depsMet s l = true →
        badTime l.card.startTime = true ∨ badTime l.card.deadline = true ∨
          (unitsFree s l = true ∧ (l.card.regime = 2 ∨ l.card.startTime = 0 ∨ s.cycOfPtp l.card.startTime ≤ s.cyc) ∧
            (l.card.regime = 2 → rectFree s lid l = true)) →
        (∀ code, dispatchCode s l = some code → exec (.cardDispatch lid) s = .next (rejectQueued (s.launches.length + 1) s lid code)) ∧
        (dispatchCode s l = none → l.card.regime ≠ 2 → l.card.coop ≠ 1 → exec (.cardDispatch lid) s = .next (dispatchStart s lid l)) ∧
        (∀ t, dispatchCode s l = none → l.card.regime = 2 → (loadStreams s l).isSome = true → placeAll (dispatchStart s lid l) lid (groupTotal s l) = some t →
          exec (.cardDispatch lid) s = .next t) ∧
        -- a cooperative card starts when the scheduler serves it
        (∀ t u, dispatchCode s l = none → l.card.regime ≠ 2 → l.card.coop = 1 → stripFirst s = none → chooseQueue s = some (lid, u) →
          placeAll (dispatchStart u lid l) lid (groupTotal s l) = some t → exec (.cardDispatch lid) s = .next t)) ∧
      (∀ id y r, l.status = .running → ((waitingAt s cluster).filter fun e => e.2.launch == lid).head? = some (id, y) →
        blockedFor s lid l cluster = false → roomOn s lid l cluster = some r → exec (.groupPlacement lid cluster) s = .next (becomeResident s id r)) ∧
      (∀ r, l.status = .running → (waitingAt s cluster).filter (fun e => e.2.launch == lid) = [] → nextPlace s lid l = some (cluster, r) → l.raster = none →
        (l.hwq = none → exec (.groupPlacement lid cluster) s = .next (makeGroup s lid cluster r)) ∧
        (∀ t, l.hwq.isSome = true → stripFirst s = none → chooseQueue s = some (lid, t) →
          exec (.groupPlacement lid cluster) s = .next (makeGroup t lid cluster r))) ∧
      (l.status = .running → l.card.donate = true → cluster ∈ tryOrder s l → (waitingAt s cluster).filter (fun e => e.2.launch == lid) = [] →
        (roomOn s lid l cluster).isSome = true → blockedFor s lid l cluster = false → mget lid (s.cluster cluster).stealAfter = none →
        Occurs (.stealRequest lid cluster) s fun t => Keeps s t ∧ ∀ id x, mget id s.groups = some x →
          ∃ y, mget id t.groups = some y ∧ y.waves = x.waves ∧ (y.cluster = x.cluster ∨ y.cluster = cluster)) ∧
      (∀ tr i, l.tree = some tr → tr.token = some i → tr.tokenAt ≤ s.cyc → treePassive s lid (tr.ring.getD i 0) = true → tr.clean < 2 →
        Occurs (.terminationTokenPass lid) s fun t => t.groups = s.groups ∧ ∃ k u, mget lid t.launches = some k ∧ k.tree = some u ∧ u.tokenAt = s.cyc + 2 ∧
          (i + 1 < tr.ring.length → u.token = some (i + 1) ∧ u.tokenSum = tr.tokenSum + dget 0 i tr.balance)) ∧
      (cardDone s lid l = true →
        (l.card.donePeg = 0 ∨ (bankWaits s (banksOf false (s.windowAddr l.part l.card.donePeg) 8) = false ∧
          (banksOf false (s.windowAddr l.part l.card.donePeg) 8).any (asleep s) = false)) →
        exec (.cardCompletion lid) s = .next (finishCard s lid l)) ∧
      (State.alive l = true → l.card.deadline ≠ 0 → badTime l.card.deadline = false → l.card.isStrip = false → l.deadlineDone = false →
        s.cycOfPtp l.card.deadline ≤ s.cyc → Occurs (.deadlineEvent lid) s fun t => t.groups = s.groups ∧ ∃ k, mget lid t.launches = some k ∧ k.deadlineDone = true) ∧
      -- a commit (R229): it begins; then the buffered effects one after another in (group, wave, issue) order, the copies, the next fret
      (l.committing = false → fretOver s lid l = true →
        exec (.fretCommit lid) s = .next (s.updLaunch lid fun l => { l with committing := true })) ∧
      (l.committing = true → l.status = .running →
        (∀ c b rest t, commitTurn s lid = some c → c.w.buffer = b :: rest → applyNext s c b rest = some t → exec (.fretCommit lid) s = .next t) ∧
        (∀ c a n x rest, commitTurn s lid = some c → c.w.buffer = .store a n x :: rest → c.grp.status ≠ .saved → 0 < n → a % 8 + n ≤ 8 →
          let bs := banksOf (decide (Base.local_ 0 ≤ a)) a n
          bankWaits s bs = false → bs.any (asleep s) = false → s.eccBad = [] → NoInjection s → Safety.MemoryOk s → arrayOf (a / 8 * 8) ≠ none →
          Occurs (.fretCommit lid) s fun t => (∀ k < n, t.mem.byte (a + k) = BitVec.ofNat 8 (x / 256 ^ k)) ∧
            (∀ i, i < a ∨ a + n ≤ i → t.mem.byte i = s.mem.byte i) ∧ t.wave c.g c.wi = some { c.w with buffer := rest }) ∧
        (∀ c, commitTurn s lid = some c → c.w.buffer = [] → exec (.fretCommit lid) s = .next (s.endWave c.g c.wi)) ∧
        (commitTurn s lid = none → (∃ e ∈ s.copies, e.2.launch = lid ∧ e.2.held = true) → exec (.fretCommit lid) s = .next (releaseCopies s lid)) ∧
        (commitTurn s lid = none → (∀ e ∈ s.copies, e.2.launch = lid → e.2.held = false) → commitCopies s lid = false →
          exec (.fretCommit lid) s = .next (nextFret s lid))) ∧
      (l.status = .dispatched → l.start.getD 0 ≤ s.cyc → (l.card.slotMask = 0 ∨ ∀ cl ∈ s.cardClusters l.part l.card, storeReady s lid l cl = true) →
        Occurs (.launchStartCycle lid) s fun t => t.mem = s.mem ∧ t.launches = (s.updLaunch lid fun l => { l with status := .running }).launches ∧
          t.groups = s.groups.map fun e => if e.2.launch = lid ∧ e.2.status = .waiting then (e.1, { e.2 with status := .resident }) else e)) ∧
    (∀ d, mget lid (s.cluster cluster).stealAfter = some d → d ≤ s.cyc → exec (.stealRetryTimer lid cluster) s =
      .next (s.setCluster cluster { s.cluster cluster with stealAfter := mdel lid (s.cluster cluster).stealAfter })) ∧
    (∀ x l, mget g s.groups = some x → mget x.launch s.launches = some l →
      (requestDue s g l x = true → mayPreempt l x = true → (s.freeSlot l.part).isSome = true →
        (inFlightDone s g x = false → x.status = .resident → exec (.preemption g) s = .next (s.updGroup g fun x => { x with status := .stopping })) ∧
        (∀ t, inFlightDone s g x = true → saveGroup s g = some t → exec (.preemption g) s = .next t)) ∧
      -- a group that has stopped goes on when nothing asks for its pre-emption
      (requestDue s g l x = false → turnWanted s x.launch l x = false → stripWants s g x = false → mayPreempt l x = true → x.status = .stopping →
        exec (.preemption g) s = .next (s.updGroup g s.goesOn)) ∧
      (∀ r t, wantsRestore s g x = true → l.status = .running → (l.card.isStrip = true ∨ s.inService x.cluster = false) →
        fitAt (s.rooms x.cluster) (s.servesRaster x.cluster) l.card [x.s0] = some r → restoreGroup s g r = some t →
        exec (.groupRestore g) s = .next t)) ∧
    (∀ ch root t, mget g s.children = some ch → mget ch.root s.launches = some root → Performed s ch.covers →
      (root.card.regime = 1 → ∀ e ∈ s.children, e.2.root = ch.root → g ≤ e.1) →
      let ps := cardParts s root.part ch.addr ch.onDie
      BanksFree s ps →
      (∀ m, readCard (touchBanks s ps) root.part root.ctx ch.addr ch.onDie = (some m, t) → Occurs (.childCardRead g) s fun u => u.children = mdel g t.children ∧
        (u.launches.length = t.launches.length ∨ ∃ l, mget (mfresh t.launches) u.launches = some l ∧ (l.status = .queued ∨ l.status = .running ∨ l.status = .dispatched) ∧ l.root = ch.root ∧
          l.target = some ch.target ∧ l.card.regime = root.card.regime)))

/-- Completion of copyPieceTransfer, faultRecordPost, fqverdRetry, fqverdFail, translationWalk, tlbinv, tlbinvComplete, matrixCommandStart,
matrixCommandCompletion and stampedCommandStart. When a locked copy reads its indexes, the limit of 256 pieces, the party of a wave's copy, when TLBINV takes
effect, and a fault queue in memory that is not owned are the model's readings (log entries 66, 100, 101, 102 and 113). -/
def Obligations.CopyFaultAndMatrixEventsOccur : Prop :=
  ∀ (copy piece part seq ctx va cluster num : Nat) (acc : Access) (v : BitVec 64) (s : State),
    (∀ k c r j n, mget copy s.copies = some k → s.ctxOf k.group k.wave = some c → k.held = false →
      k.next ≤ piece → piece ∉ k.ahead → piece ∉ k.remote → (∀ r ∈ s.replays, r.copy = copy → r.piece ≠ piece) → (c.locked = true ∨ Performed s k.covers) →
      c.ordered = false → (k.main = true → (s.replays.filter fun r => r.cluster == k.cluster).length < 64) →
      (c.locked = true ∨ (mget piece k.fetched).isSome = true ∨ piecesInFlight s k.cluster < 256) →
      -- the index array is read first
      (∀ k' u, k.idx = none → readIdx s c k = (.inl k', u) → (idxInGroup c k = true → inPlace c.grp = true) →
        (c.locked = true → copyDue s c k (2 ^ 64) (idxTime s c k).1 = true) →
        exec (.copyPieceTransfer copy piece) s = .next { u with copies := mset copy k' u.copies }) ∧
      (∀ t, k.idx.isSome = true → k.pieceAt piece = some (r, j, n) → (touchesGroup c k piece r j = true → inPlace c.grp = true) →
        (k.dspace = 3 → portFree s (remotePort k ((k.dstRow r + j) % 2 ^ 32)) = true) →
        (c.locked = false → readsBefore k piece r j n = false) →
        (c.locked = true → copyDue s c k piece (if (mget piece k.fetched).isSome || badIndex s c k r then (pieceTimes s c k piece r j n).2.1
          else (pieceTimes s c k piece r j n).1.1) = true) →
        stepPiece s c copy k piece r j n = some t → exec (.copyPieceTransfer copy piece) s = .next t)) ∧
    (∀ id r rest, (s.partOf part).heldFaults = (id, r) :: rest → s.faultRoom part = true → s.owned part (s.faultSlot part) ≠ some .wait →
      Occurs (.faultRecordPost part) s fun t => t.groups = s.groups ∧ t.launches = s.launches ∧ (t.partOf part).heldFaults = rest ∧
        t.faultRecs = s.faultRecs.map fun f => if f.id = id then { f with seq := some (s.barBits (pcfgOff part) 543 512) } else f) ∧
    (∀ f, heardFault s part seq = some f → exec (.fqverdRetry part seq) s = .next (retryFault s f) ∧ exec (.fqverdFail part seq) s = .next (failFault s f)) ∧
    (heardFault s part seq = none → exec (.fqverdRetry part seq) s = .next s ∧ exec (.fqverdFail part seq) s = .next s) ∧
    (Occurs (.translationWalk part ctx va acc) s fun t => t.groups = s.groups ∧ t.launches = s.launches ∧ t.mem = s.mem) ∧
    ((s.partOf (bits v.toNat 61 56)).teardown = none → Occurs (.tlbinv v) s fun t => t.groups = s.groups ∧ Keeps s t ∧ t.tlb = s.tlb ∧
      t.invals = s.invals ++ [setBits v.toNat 63 63 1]) ∧
    (∀ x, (s.invals.find? fun v => bits v 61 56 == part) = some x → Occurs (.tlbinvComplete part) s fun t => t.groups = s.groups ∧ Keeps s t ∧
      t.invals = s.invals.erase x ∧ ∀ e, e ∈ t.tlb ↔ e ∈ s.tlb ∧ invalidates x e = false) ∧
    (let cl := s.cluster cluster
     (∀ m c, (cl.cmds.find? fun m => m.start.isNone) = some m → cmdCtx s m = some c → m.stamp = none → cl.matEnd ≤ s.cyc → tilesFree cl m = true →
       exec (.matrixCommandStart cluster) s = .next (startCmd (s.setCluster cluster { cl with matEnd := s.cyc + m.op.occupancy }) cluster c m)) ∧
     (∀ m c, (cl.cmds.find? fun m => m.num == num) = some m → cmdCtx s m = some c → cmdDue s c m = true →
       (∀ r ∈ s.reqs, r.group = m.group → r.wave ≠ matWave num) →
       exec (.matrixCommandCompletion cluster num) s = .next (writeTile (s.setCluster cluster { cl with
         cmds := cl.cmds.filter fun q => q.num != num, matFlags := if m.flags = 0 then cl.matFlags else mset num m.flags cl.matFlags }) cluster m c.who)) ∧
     (∀ m c t, (cl.cmds.find? fun m => m.num == num && m.start.isNone) = some m → cmdCtx s m = some c → m.stamp = some t → c.l.status = .running →
       s.scyPast c.l t = true → (∀ h, c.l.haltAt = some h → s.cyc < h) →
       let same := (m.names.zip m.op.ranges).all fun e => mget e.1 cl.ranges == some e.2
       (same = true → tilesFree cl m = true → exec (.stampedCommandStart cluster num) s = .next (startCmd s cluster c m)) ∧
       (same = false ∨ tilesFree cl m = false → exec (.stampedCommandStart cluster num) s =
         .next (engineTrap (s.setCluster cluster { cl with cmds := cl.cmds.filter fun q => q.num != num }) (some c) m.pc 0x0A))))

/-- Completion of flitSourceRead, flitSend, flitLanding, collision, linkError, bestEffortFlit, haltNotice, lockedHalt, receiveWindowClose,
domainControlMessage, holdRequest, holdAnnounce, holdStart, holdEnd, tuneInsertionEnd, tuneMismatch, mappingUpdate, ptpMessage, timebaseEvent
and portFailure. A bank that is not ready, a port's loss, the comparison of TUNEs, the model's own messages, the PTP servo, a link error
without a card, the order of stops, and the party of a receiving-side record are the model's readings or choices (log entries 21, 53, 55, 56,
103, 104, 116, 117, 132 to 134 and 136). -/
def Obligations.FabricEventsOccur : Prop :=
  ∀ (send k lid flits cycles port code tag : Nat) (delta : Int) (f : Flit) (nt : Notice) (m : DomainMsg) (pm : PtpMsg) (s : State),
    (∀ x l, mget send s.sends = some x → mget x.launch s.launches = some l → sending s l = true →
      (k < x.count → x.next ≤ k → mget k x.read = none → s.scyPast l (x.t + k - 96) = true →
        Occurs (.flitSourceRead send k) s fun t => ∃ y b, mget send t.sends = some y ∧ y.next = x.next ∧ mget k y.read = some b) ∧
      (∀ bs p, k = x.next → mget k x.read = some (bs, p) → s.scyPast l (x.t + k) = true → Occurs (.flitSend send k) s fun t => t.groups = s.groups ∧ Keeps s t ∧
        t.out = s.out ++ [{ port := "flit", cyc := s.cyc, words := [x.port, x.dest, ownPos s, l.tag, x.dst + 64 * k, k, p,
          (k % 8 == 7 || k + 1 == x.count).toNat] ++ bs.map BitVec.toNat }] ∧ (k + 1 ≠ x.count → ∃ y, mget send t.sends = some y ∧ y.next = k + 1)) ∧
      -- while SCY stands, the flit of the SCY at which it stands is not sent (R255, R256)
      (s.scyStands l = true → s.scy l ≤ x.t + k → exec (.flitSend send k) s = .next s)) ∧
    (f.kind % 4 = 0 → f.data.length = 64 → f.addr % 64 = 0 →
      (s.cyc < f.arrival → f ∉ s.padded → exec (.flitLanding f) s = .next { s with padded := s.padded ++ [f] }) ∧
      (s.cyc = f.arrival → Occurs (.flitLanding f) s fun t => t.copies = s.copies ∧ t.windows = s.windows ∧ f ∉ t.padded) ∧
      (∀ w l, s.cyc = f.arrival → s.padded = [] → s.windows = [w] → armed s w = some l → w.port = f.port → l.tag = f.tag → w.base ≤ f.addr → f.addr + 64 ≤ w.base + w.len →
        (w.any_ = true ∨ w.src = f.src) → bankFault s [(s.windowAddr l.part f.addr, 64)] = none → bit f.kind 3 = false →
        exec (.flitLanding f) s = .next (writeParts (touchBanks s [(s.windowAddr l.part f.addr, 64)]) [(s.windowAddr l.part f.addr, 64)] f.data
          f.poison (some (l.part, l.ctx))))) ∧
    (f.kind % 4 = 0 → f.arrival ≤ s.cyc → 1 ≤ flits → flits ≤ 8 → Occurs (.collision f flits) s fun t =>
      (f.src ≠ ownPos s → f.dst ≠ ownPos s → t = s) ∧ (f.src ≠ ownPos s → f.dst = ownPos s → t = dropGroupWhole s f flits 4) ∧
      (∀ l, f.src = ownPos s → f.dst ≠ ownPos s → taggedLaunch s f.tag = some (lid, l) → t = launchTiming s lid 7 f.port f.arrival)) ∧
    (1 ≤ flits → flits ≤ 8 → (f.kind % 4 ≠ 0 → exec (.linkError f flits) s = .next s) ∧
      -- a package that runs no card with the tag tells the others
      (f.kind % 4 = 0 → taggedLaunch s f.tag = none → exec (.linkError f flits) s = .next (if 1 < s.domSize
        then (dropGroupWhole s f flits 5).send "halt-notice" [f.tag, s.cyc + s.lfab, 8] else dropGroupWhole s f flits 5)) ∧
      (∀ l, f.kind % 4 = 0 → taggedLaunch s f.tag = some (lid, l) →
        exec (.linkError f flits) s = .next (launchTiming (dropGroupWhole s f flits 5) lid 8 f.port s.cyc))) ∧
    (∀ c, bit f.kind 4 = true → mget f.seq s.copies = some c → f.addr ∈ c.remote → Occurs (.bestEffortFlit f) s fun _ => True) ∧
    (bit f.kind 4 = true → mget f.seq s.copies = none → exec (.bestEffortFlit f) s = .next s) ∧
    -- a write from elsewhere: at its banks, or behind what came before it (R186, R190, R254)
    (bit f.kind 4 = false → f.kind % 4 = 1 →
      let bs := partBanks (((bestEffortPlace s f).map (·.2)).getD [])
      let first : Prop := ∀ i ∈ s.inbox, inboxPort i ≠ some f.port
      (first → bankWaits s bs = false → bs.any (asleep s) = false → exec (.bestEffortFlit f) s = .next (landBestEffort s f)) ∧
      (¬first ∨ bankWaits s bs = true → exec (.bestEffortFlit f) s = .next { s with inbox := s.inbox ++ [.bestEffortFlit f] })) ∧
    (taggedLaunch s nt.tag = none → exec (.haltNotice nt) s = .next s) ∧
    (∀ i l, taggedLaunch s nt.tag = some (i, l) → exec (.haltNotice nt) s =
      .next (s.updLaunch i fun l => { l with haltAt := some (min nt.haltAt (l.haltAt.getD nt.haltAt)) })) ∧
    (∀ l h, mget lid s.launches = some l →
      (l.haltAt = some h → h ≤ s.cyc → (l.status = .running ∨ l.status = .dispatched) → Occurs (.lockedHalt lid) s fun t => t.turn = none ∧
        (∃ k, mget lid t.launches = some k ∧ k.status = .halted ∧ k.recorded = true ∧ k.closeAt = some (h + s.lfab)) ∧
        -- a package that recorded no trap posts one record for the launch (R285)
        (l.recorded = true → t.heldOf (2 + l.part) = s.heldOf (2 + l.part)) ∧
        (l.recorded = false → ∃ r, t.heldOf (2 + l.part) = s.heldOf (2 + l.part) ++ [r] ∧ r.length = 64 ∧
          let x := ofBytes r
          let pc := topLeftPc s lid l
          bits x 7 0 = 8 ∧ bits x 19 8 = 1 ∧ bits x 31 20 = (l.ctx + 2 ^ 4 * l.part + 2 ^ 10 * l.card.regime) % 2 ^ 12 ∧
          bits x 63 32 = topLeft s l ∧ (pc < 2 ^ 64 → bits x 127 64 = pc ∧ bits x 191 128 = pc) ∧ bits x 255 192 = 0 ∧
          (s.cyc < 2 ^ 64 → bits x 319 256 = s.cyc) ∧ (l.cardVa < 2 ^ 64 → bits x 383 320 = l.cardVa) ∧
          bits x 447 384 = 2 ^ 32 + 0xFFFFFFFF ∧ bits x 511 448 = 0x0F)) ∧
      (l.closeAt = some h → h ≤ s.cyc → exec (.receiveWindowClose lid) s =
        .next ({ s with windows := s.windows.filter fun w => w.launch != lid }.updLaunch lid fun l => { l with closeAt := none })) ∧
      (∀ n, l.tune = some (h, n) → h + n ≤ s.cyc → Occurs (.tuneInsertionEnd lid) s fun t => t.groups = s.groups ∧ t.mem = s.mem ∧
        ∃ k, mget lid t.launches = some k ∧ k.tune = none)) ∧
    (Occurs (.domainControlMessage m) s fun t => t.groups = s.groups ∧ t.mem = s.mem ∧
      (m.kind = 0 → t.ptpNext = s.ptpNext ++ [(if isMaster s then max (m.args.getD 0 0) (s.cyc + 4096) else m.args.getD 0 0,
        { cyc := m.args.getD 1 0, base := m.args.getD 2 0, delta := m.args.getD 3 0 })]) ∧
      (m.kind = 1 → isMaster s = true → ckptNear s = false → t.holdReqs = s.holdReqs ++ [m.args.getD 0 0]) ∧
      -- stops stand in the order of their starts
      (m.kind = 2 → let at_ := m.args.getD 1 0 + 4096
        t.holds = (s.holds.filter fun e => decide (e.1 ≤ at_)) ++ [(at_, m.args.getD 0 0)] ++ s.holds.filter fun e => decide (at_ < e.1)) ∧
      (m.kind = 8 → t.lost = some (m.args.getD 0 0) ∧ ∀ l, mget lid s.launches = some l → l.card.pgt ≠ 0 → l.card.regime = 2 → l.status = .running →
        ∃ k h, mget lid t.launches = some k ∧ k.haltAt = some h ∧ h ≤ s.cyc + s.lfab)) ∧
    (cycles ∈ [256, 1024, 4096, 16384] → Occurs (.holdRequest cycles) s fun t => t.groups = s.groups ∧ Keeps s t ∧
      (isMaster s = true → ckptNear s = false → t.holdReqs = s.holdReqs ++ [cycles]) ∧ (isMaster s = false → t = s.send "domain" [1, cycles])) ∧
    (isMaster s = true → s.holdReqs ≠ [] → Occurs .holdAnnounce s fun t => t.groups = s.groups ∧ Keeps s t ∧ t.holdReqs = [] ∧
      ∃ h, h ∈ s.holdReqs ∧ (∀ x ∈ s.holdReqs, x ≤ h) ∧ t.holds = (s.holds.filter fun e => decide (e.1 ≤ s.cyc + 4096)) ++ [(s.cyc + 4096, h)] ++
        s.holds.filter fun e => decide (s.cyc + 4096 < e.1)) ∧
    (∀ t h rest, s.holds = (t, h) :: rest → s.hold = none → inserting s = false → t ≤ s.cyc →
      Occurs .holdStart s fun u => u.hold = some (s.cyc, h) ∧ u.holds = rest ∧ u.powerHold = false ∧ u.groups = s.groups ∧ Keeps s u ∧
        u.reqs = (pauseAccesses s s.cyc h fun _ => true).reqs) ∧
    (∀ a n, s.hold = some (a, n) → a + n ≤ s.cyc → Occurs .holdEnd s fun t => t.hold = none ∧ t.groups = s.groups ∧ t.mem = s.mem ∧
      ∀ l c, mget lid s.launches = some l → (l.status = .running ∨ l.status = .dispatched ∨ l.status = .halted) → l.start = some c → c < a + n →
        ∃ k, mget lid t.launches = some k ∧ k.stopped = l.stopped + (a + n - max a c)) ∧
    (∀ l y n, tryTuneMismatch.taggedLaunch' s tag = some (lid, l) →
      (∀ who rest, l.tunes = (y, n, who) :: rest →
        (∀ e ∈ s.groups, e.2.launch = lid → e.2.kind = .stream → e.2.status = .resident → ∀ v ∈ e.2.waves, v.ended = true ∨ y < v.nextIssue) →
        let u := s.updLaunch lid fun l => { l with tunes := l.tunes.filter fun t => t.1 != y }
        let bad : Prop := (∃ m w, (y, m, w) ∈ rest) ∨ ∃ cl ∈ tuneCores s lid, cl ∉ who
        (bad → exec (.tuneMismatch tag) s = .next (launchTiming u lid 9 0 s.cyc)) ∧
        (¬bad → s.domSize ≤ 1 ∨ l.card.pgt = 0 → exec (.tuneMismatch tag) s = .next u) ∧
        (¬bad → 1 < s.domSize → l.card.pgt ≠ 0 → isMaster s = false → exec (.tuneMismatch tag) s = .next (u.send "domain" [4, l.tag, y, n, ownPos s])) ∧
        (¬bad → 1 < s.domSize → l.card.pgt ≠ 0 → isMaster s = true → exec (.tuneMismatch tag) s =
          .next (u.updLaunch lid fun l => { l with reports := l.reports ++ [(y, n, ownPos s, s.cyc)] }))) ∧
      (∀ src rest disagree, l.tunes = [] → l.reports = (y, n, src) :: rest → packagesAgree s l y n = some disagree →
        let u := s.updLaunch lid fun l => { l with reports := l.reports.filter fun r => r.1 != y }
        exec (.tuneMismatch tag) s = .next (if disagree then launchTiming u lid 9 0 s.cyc else u))) ∧
    -- of the updates that are due, the one stated for the earliest CYC
    ((∃ e ∈ s.ptpNext, e.1 ≤ s.cyc) → ∃ e ∈ s.ptpNext, e.1 ≤ s.cyc ∧ (∀ x ∈ s.ptpNext, e.1 ≤ x.1) ∧
      exec .mappingUpdate s = .next { s with ptp := e.2, ptpNext := s.ptpNext.erase e }) ∧
    ((∀ e ∈ s.ptpNext, s.cyc < e.1) → exec .mappingUpdate s = .next s) ∧
    (isMaster s = false ∨ s.barFlag tbcfgOff 1 = false → exec (.ptpMessage pm) s = .next s) ∧
    (isMaster s = true → s.barFlag tbcfgOff 1 = true →
      let now := (if s.ptp.cyc ≤ s.cyc then s.ptp.base + (s.cyc - s.ptp.cyc) * s.ptp.delta else s.ptp.base - (s.ptp.cyc - s.cyc) * s.ptp.delta) / 2 ^ 40
      (pm.kind = 2 ∨ pm.kind = 4 → exec (.ptpMessage pm) s = .next (s.send "ptp" [pm.kind + 1, pm.seq, now])) ∧
      (pm.kind ≠ 2 → pm.kind ≠ 4 →
        let t := s.send "ptp-servo" [pm.kind, pm.seq, now, pm.sent, wrapInt 64 pm.correction, s.barBits tbcfgOff 2 2]
        (pm.kind = 0 → exec (.ptpMessage pm) s = .next ((t.send "ptp" [2, pm.seq, now]).send "ptp" [4, pm.seq, now])) ∧ (pm.kind ≠ 0 → exec (.ptpMessage pm) s = .next t))) ∧
    (code = 1 ∨ code = 2 → exec (.timebaseEvent code delta) s = .next (s.hostError 0x73 none code 0 0 (wrapInt 64 delta))) ∧
    (port < 64 → s.barFlag capsOff (32 + port) = true → Occurs (.portFailure port) s fun t =>
      (s.domSize ≤ 1 → t = s.setBar capsOff (32 + port) (32 + port) 0) ∧ (1 < s.domSize → t.domSize = 1 ∧ t.lfab = 0 ∧ t.lost = some (ownPos s)))

/-- Completion of packetDelivery, rdmaWrite, rdmaRead, rdmaAtomicRequest, neighbourSolicitation, connectionManagementMessage, qpRetryExhausted,
qdescStateRun and qdescStateOff. The ranges and sequence numbers of RDMA and connection management are the model's readings (log entries 22 and 54). -/
def Obligations.NetworkEventsOccur : Prop :=
  ∀ (q n : Nat) (pk : Packet) (s : State),
    let s1 := acceptPsn s n
    let s2 := if pairRc s1 n then answer s1 pk 0 [] else s1
    -- no message waits for its banks before this one
    let first : Prop := ∀ i ∈ s.inbox, inboxPort i ≠ some 64
    (pairOf pk.qp = none → (first → exec (.packetDelivery pk) s = .next s) ∧ exec (.rdmaWrite pk) s = .next s ∧ exec (.rdmaRead pk) s = .next s ∧
      exec (.rdmaAtomicRequest pk) s = .next s) ∧
    (pairOf pk.qp = some n → receives s n = false → exec (.rdmaWrite pk) s = .next s ∧
      exec (.rdmaRead pk) s = .next s ∧ exec (.rdmaAtomicRequest pk) s = .next s) ∧
    (pairOf pk.qp = some n → receives s n = true →
      exec (.rdmaAtomicRequest pk) s = .next (answer s pk 1 []) ∧
      ((List.range 256).find? (fun q => s.barBits (qdescOff q) 151 128 == pk.qp) = some q → s.eccBad = [] → first →
        -- packets written and not yet released: the peg's value less rd
        let fill := (s.mem.load (s.windowAddr (queueOwner s q) (queuePeg s q)) 8 + 2 ^ 32 - queueRd s q) % 2 ^ 32
        let takes : Prop := queueState s q = 1 ∧ fill < queueSlots s q ∧ pk.data.length + 8 ≤ queueSize s q
        (queueState s q ≠ 1 → exec (.packetDelivery pk) s = .next (countDrop s2 q 192)) ∧
        (queueState s q = 1 → ¬takes → exec (.packetDelivery pk) s = .next (countDrop s2 q 160)) ∧
        (takes → bankWaits s (packetBanks s q pk) = false → (packetBanks s q pk).any (asleep s) = false →
          exec (.packetDelivery pk) s = .next (deliverPacket s2 q pk)) ∧
        (takes → bankWaits s (packetBanks s q pk) = true →
          exec (.packetDelivery pk) s = .next { s with inbox := s.inbox ++ [.packetDelivery pk] })) ∧
      (pairRc s n = true →
        (regionOf s1 n pk pk.data.length true = none → exec (.rdmaWrite pk) s = .next (answer (roceError s1 n 1 pk.qp pk.addr) pk 2 [])) ∧
        (∀ m t, regionOf s1 n pk pk.data.length true = some m →
          rangeFails s1 (s1.barBits (mrtabOff m) 133 128) (s1.barBits (mrtabOff m) 59 56) pk.addr pk.data.length .write = (none, t) →
          exec (.rdmaWrite pk) s = .next (answer (t.vwrite (s1.barBits (mrtabOff m) 133 128) (s1.barBits (mrtabOff m) 59 56) pk.addr pk.data).2 pk 0 [])) ∧
        (regionOf s1 n pk pk.len false = none → exec (.rdmaRead pk) s = .next (answer (roceError s1 n 1 pk.qp pk.addr) pk 2 [])) ∧
        (∀ m t bs poison u, regionOf s1 n pk pk.len false = some m →
          rangeFails s1 (s1.barBits (mrtabOff m) 133 128) (s1.barBits (mrtabOff m) 59 56) pk.addr pk.len .read = (none, t) →
          t.vreadP (s1.barBits (mrtabOff m) 133 128) (s1.barBits (mrtabOff m) 59 56) pk.addr pk.len = (.inl (bs, poison), u) →
          exec (.rdmaRead pk) s = .next (answer u pk 0 bs)))) ∧
    (let own := if pk.op = 0 then s.barBits portcfgOff 95 64 else s.barBits portcfgOff 255 128
     (own ≠ 0 → pk.addr = own → exec (.neighbourSolicitation pk) s = .next (s.send "neighbour" [pk.src, own, s.barBits portcfgOff 47 0])) ∧
     (own = 0 ∨ pk.addr ≠ own → exec (.neighbourSolicitation pk) s = .next s)) ∧
    (Occurs (.connectionManagementMessage pk) s fun t => t.groups = s.groups ∧ Keeps s t ∧ t.bar = s.bar) ∧
    (q < 1024 → pairRc s q = true → pairState s q = 3 → Occurs (.qpRetryExhausted q) s fun t => t.groups = s.groups ∧ t.launches = s.launches) ∧
    -- configuration is accepted from step 9 of bring-up on (R475)
    (q < 256 → (bringUpStep s = 9 → queueReady s q = true → exec (.qdescStateRun q) s = .next (s.setBar (qdescOff q) 41 40 1)) ∧
      (queueReady s q = false → exec (.qdescStateRun q) s = .next s) ∧
      (bringUpStep s = 9 → exec (.qdescStateOff q) s = .next (s.setBar (qdescOff q) 41 40 0)) ∧
      (bringUpStep s ≠ 9 → exec (.qdescStateRun q) s = .next s ∧ exec (.qdescStateOff q) s = .next s))

/-- Completion of stripStart, stripDeadline, tileStart, binningPrimitive, primaryRayTrace, tileVisibilityFinal, rayRest, textureServe and
tableStoreLoad. Strip headers and draws that cannot be read, the space of a header, the primitive-id store, a card between draws, and the bins of
ray-space draws are the model's readings (log entries 26, 28, 81, 108 and 124). -/
def Obligations.GraphicsEventsOccur : Prop :=
  ∀ (lid tile ray g w k cluster : Nat) (s : State),
    (∀ l, mget lid s.launches = some l →
      (l.card.isStrip = true → State.alive l = true → l.raster = none → s.cycOfPtp l.card.startTime ≤ s.cyc →
        (∀ m t, readImportance (suspendBackground s l) l = some (m, t) → exec (.stripStart lid) s = .next (setJob t lid (emptyJob s.cyc m))) ∧
        -- while the map waits for a scrub, only the groups are suspended
        (readImportance (suspendBackground s l) l = none → exec (.stripStart lid) s = .next (suspendBackground s l))) ∧
      (l.card.isStrip = true → State.alive l = true → l.card.deadline ≠ 0 → l.deadlineDone = false → s.cycOfPtp l.card.deadline ≤ s.cyc →
        Occurs (.stripDeadline lid) s fun t => ∃ k, mget lid t.launches = some k ∧ k.deadlineDone = true) ∧
      (let cls := s.cardClusters l.part l.card
       let cl := cls.getD (tile % cls.length) 0
       l.status = .running → s.rasterCard l.part l.card = true → cls ≠ [] → storeBusy s cl = false →
       (l.card.isStrip = true → ∀ e ∈ s.launches, wantsTile s e.2 cl = true → stripBefore e.2 l = false) →
       (∀ j, l.raster = some j → j.header ≠ 0 → j.closed = false → (l.card.isStrip = true ∨ s.inService cl = false) → tile < j.ntiles → mget tile j.tiles = none →
         (tile < cls.length ∨ j.tileDone (tile - cls.length) = true) → Occurs (.tileStart lid tile) s fun t =>
           ∃ k i x, mget lid t.launches = some k ∧ k.raster = some i ∧ mget tile i.tiles = some x ∧ x.cluster = cl ∧ x.final = false) ∧
       (∀ x t, l.raster = none → l.card.isStrip = false → s.inService cl = false → tile < cls.length → taskFault s l l.card.argBase = false →
         BanksFree s (headerParts s l) → readStripHeader (touchBanks s (headerParts s l)) l = (.ok x, t) → headerOk x false = true → tile < headerTiles x → Occurs (.tileStart lid tile) s fun u =>
           ∃ k i, mget lid u.launches = some k ∧ k.raster = some i ∧ i.header = x)) ∧
      (∀ j u d p, l.raster = some j → j.header ≠ 0 → j.closed = false → l.status = .running → nextUnit j = some (u, d, p) → stopsBetweenDraws s l p = false →
        (∀ a t, unitStep lid l j u d p s = (.ok a, t) → exec (.binningPrimitive lid) s = .next t) ∧
        (∀ x t, unitRead l (j.draws + 64 * d) 64 s = (.ok x, t) →
          (x.filter drawOk = none → exec (.binningPrimitive lid) s = .next (rasterRecord (setJob t lid (setUnit j u (d + 4) 0)) l 0x51 d 0xFFFFFFFF 0)) ∧
          (∀ y is v', x = some y → drawOk y = true → bits y 151 148 = 1 → rayInstances l (bits y 63 0) t = (.ok is, v') →
            Occurs (.binningPrimitive lid) s fun v => v.mem = v'.mem ∧
            ∀ k, mget lid v'.launches = some k → ∃ k' i, mget lid v.launches = some k' ∧ k'.raster = some i ∧
              i.rayDraws = j.rayDraws ++ [{ draw := d, rec_ := y, insts := is }] ∧ mget u i.units = some (d + 4, 0)))) ∧
      (∀ j x, l.raster = some j → mget tile j.tiles = some x → l.status = .running → x.final = false → binned j = true →
        (∀ y t, x.traced = false → x.fault = none → j.rayDraws ≠ [] →
          traceAll l j tile (primaryWork l j tile) { x with samples := [], hits := [] } s = ((y, none), t) →
          exec (.primaryRayTrace lid tile) s = .next (setJob t lid { j with tiles := mset tile { y with traced := true } j.tiles })) ∧
        (j.closed = false → (x.traced = true ∨ j.rayDraws = []) → Occurs (.tileVisibilityFinal lid tile) s fun t => t.groups = s.groups ∧ t.mem = s.mem ∧
          ∃ k i y, mget lid t.launches = some k ∧ k.raster = some i ∧ mget tile i.tiles = some y ∧ y.final = true ∧
            y.rate = max (dget 0 tile j.rates) (dget 0 tile j.req)))) ∧
    (∀ r c x, mget ray s.rays = some r → s.ctxOf (ray / 1024) (ray / 32 % 32) = some c → rayIn r.words = some x → r.status = 15 → r.fault = none →
      (∀ r' t, rayRun c.part c.l.ctx (State.engineOf c.grp.cluster 2) x (2 ^ 64) r s = ((r', none), t) → exec (.rayRest ray) s =
        .next ({ t with rays := mset ray r' t.rays }.updWave (ray / 1024) (ray / 32 % 32) fun w => rayLand w (ray % 32) r' none)) ∧
      -- an uncorrectable word of a structure: at rest with status 4 and no hit, and the covering WAITT reports it (R397)
      (∀ r' va t, rayRun c.part c.l.ctx (State.engineOf c.grp.cluster 2) x (2 ^ 64) r s = ((r', some (.ecc, va)), t) →
        let q := { rayEnd r' with status := 4, committed := none }
        exec (.rayRest ray) s = .next ({ t with rays := mset ray q t.rays }.updWave (ray / 1024) (ray / 32 % 32) fun w =>
          rayLand w (ray % 32) q none (some (mainEcc va)))) ∧
      (∀ r' why va t, rayRun c.part c.l.ctx (State.engineOf c.grp.cluster 2) x (2 ^ 64) r s = ((r', some (.fault why, va)), t) →
        let e := t.raiseFault c.part c.l.ctx c.grp.cluster 2 va why .read
        exec (.rayRest ray) s = .next { e.2 with rays := mset ray { r' with fault := some (e.1, va) } e.2.rays })) ∧
    (∀ c d form inputs, s.ctxOf g w = some c → (c.w.deferred.find? fun d => d.id == k) = some d → d.job = .texture form inputs → d.value = none → d.fault = none →
      d.failed = none → d.ecc = none → ∀ rs t u, serveAll c.grp.cluster c.part c.l.ctx form s.free inputs s = (.ok rs, t) →
        writeFeedback t c.part c.l.ctx (rs.flatMap fun r => r.2.feedback) = (none, u) →
        let vals := rs.flatMap fun r => (List.range 5).map fun i => ((d.reg + i) * 32 + r.1, BitVec.ofNat 32 (r.2.words.getD i 0))
        exec (.textureServe g w k) s = .next { (u.updWave g w fun x => { x with deferred := x.deferred.map fun e => if e.id = k then { e with value := some vals } else e }) with free := u.free + 256 }) ∧
    (∀ l, let x := (s.cluster cluster).store
     let va := bits l.card.qrt 51 0
     (∀ e, x.holder = none → storeWanted s cluster = some e → exec (.tableStoreLoad cluster) s = .next (takeStore s e.1 e.2 cluster)) ∧
     (x.holder = some lid → mget lid s.launches = some l → x.loaded = false → x.fault = none →
      (va % 64 ≠ 0 → exec (.tableStoreLoad cluster) s = .next (imageFail s lid cluster 4 va)) ∧
      -- an uncorrectable error fails the image with code 9 (R416)
      (∀ t, va % 64 = 0 → s.vread l.part l.ctx va 64 (State.engineOf cluster 3) = (.inr .ecc, t) → exec (.tableStoreLoad cluster) s = .next (imageFail t lid cluster 9 va)) ∧
      (∀ hd t, va % 64 = 0 → s.vread l.part l.ctx va 64 (State.engineOf cluster 3) = (.inl hd, t) →
        (imageHeader l.card.slotMask (ofBytes hd) = none → exec (.tableStoreLoad cluster) s = .next (imageFail t lid cluster 4 va)) ∧
        (∀ dims scr u, imageHeader l.card.slotMask (ofBytes hd) = some (dims, scr) → imageRows t l cluster va (dims.foldl (· + ·) 0) = (none, u) →
          Occurs (.tableStoreLoad cluster) s fun v => ∃ c, mget cluster v.clusters = some c ∧ c.store.loaded = true ∧ c.store.dims = dims))))

/-- Completion of entrySkip, displayLineFetch, encoderStripCopy, tileRowCode, rdoffWrite, ringcfgEnable, ringcfgDisable, qcfgEnable, stplValid,
stplWithdraw, pcfgEnable, teardown, teardownComplete, mownWrite, scrubComplete, tbcfgWrite, qpctxState, channelShare, registerWrite and
functionLevelReset. The cycle of a skipped entry, AV1's framing and parameters, an encoder buffer that is not mapped, key pairs, the
teardown, the reset's reach, strip templates, ignored writes and PCFG.busy are the model's readings (log entries 24, 25, 33 to 36, 58, 65, 67, 71,
76 and 120). -/
def Obligations.RingAndRegisterEventsOccur : Prop :=
  ∀ (h part q qp st off granule value : Nat) (coded : List Byte) (v : BitVec 64) (s : State),
    (∀ r, mget h s.rings = some r → ringEn s h = true →
      (s.stripDue h r.frame (ringNext s h) ≤ s.cyc → Occurs (.entrySkip h) s fun t => t.groups = s.groups ∧ Keeps s t ∧
        ∃ x, mget h t.rings = some x ∧ x.prev = some none ∧ x.openUnder = false) ∧
      (h < 4 → r.nextLine < ringAct s h → s.scanCyc h r.nextFrame r.nextLine ≤ s.cyc + 4096 → Occurs (.displayLineFetch h) s fun t => t.groups = s.groups ∧
        t.launches = s.launches ∧ ∃ x, mget h t.rings = some x ∧ (x.nextFrame, x.nextLine) =
          if r.nextLine + 1 < ringAct s h then (r.nextFrame, r.nextLine + 1) else (r.nextFrame + 1, 0)) ∧
      (∀ x e rest, mget h s.encs = some x → r.entries = e :: rest → (∀ k, e.slot = some k → s.slotState h k = 2) →
        (e.frame < x.frame → Occurs (.encoderStripCopy h) s fun t => t.encs = s.encs ∧ ∃ y, mget h t.rings = some y ∧ y.entries = rest) ∧
        (x.frame ≤ e.frame → rowReady s h x = false → encFree s h < encNeeds s h → x.stalled = false →
          Occurs (.encoderStripCopy h) s fun t => t.encs = mset h { x with stalled := true } s.encs) ∧
        (x.frame ≤ e.frame → rowReady s h x = false → encNeeds s h ≤ encFree s h → Occurs (.encoderStripCopy h) s fun t => ∃ ls,
          t.encs = mset h { x with lines := x.lines ++ ls, stalled := false } s.encs ∧ ls.length = min (ringLines s h) (ringAct s h - e.strip * ringLines s h)))) ∧
    (∀ x t u, mget h s.encs = some x → ringEn s h = true → rowReady s h x = true →
      obuTypes (coded.length + 1) coded = some (rowTypes (x.coded == 0) (keyFrame x)) → coded.length ≤ encFree s h →
      let b := encOff h
      let wr := s.barBits b 127 96
      let n := min coded.length (s.barBits b 95 64 - wr)
      s.vwrite (s.headPart h) 0 ((s.barBits b 51 0 + wr) % 2 ^ 52) (coded.take n) = (none, t) →
      t.vwrite (s.headPart h) 0 (s.barBits b 51 0) (coded.drop n) = (none, u) →
      Occurs (.tileRowCode h coded) s fun w => w.bar = (u.setBar b 127 96 ((wr + coded.length) % s.barBits b 95 64)).bar ∧ w.mem = u.mem ∧
        ∃ y, mget h w.encs = some y ∧ y.lines = x.lines.drop 64) ∧
    ((4 ≤ h → h < 132 → exec (.rdoffWrite h value) s = .next (s.setBar (encOff h) 159 128 value)) ∧ (h < 4 ∨ 132 ≤ h → exec (.rdoffWrite h value) s = .next s)) ∧
    -- bring-up accepts configuration in step 9 (R475)
    (bringUpStep s ≠ 9 → exec (.ringcfgEnable h) s = .next s ∧ exec (.ringcfgDisable h) s = .next s ∧ exec (.qcfgEnable q) s = .next s ∧
      exec (.stplValid h) s = .next s ∧ exec (.stplWithdraw h) s = .next s ∧ exec (.pcfgEnable part) s = .next s ∧ exec (.teardown part) s = .next s ∧
      exec (.mownWrite granule value) s = .next s ∧ exec (.qpctxState qp st) s = .next s ∧ exec (.channelShare part value) s = .next s) ∧
    (bringUpStep s = 9 →
      (∀ t, enableRing h s = some t → exec (.ringcfgEnable h) s = .next t) ∧ (enableRing h s = none → exec (.ringcfgEnable h) s = .next s) ∧
      exec (.ringcfgDisable h) s = .next (disableRing h s) ∧
      (∀ t, enableQueue s q = some t → exec (.qcfgEnable q) s = .next t) ∧ (enableQueue s q = none → exec (.qcfgEnable q) s = .next s) ∧
      exec (.stplValid h) s = .next (requestTemplate s h) ∧ exec (.stplWithdraw h) s = .next (withdrawTemplate s h) ∧
      (∀ t, enablePart s part = some t → exec (.pcfgEnable part) s = .next t) ∧ (enablePart s part = none → exec (.pcfgEnable part) s = .next s) ∧
      (64 ≤ part ∨ s.partEn part = false → exec (.teardown part) s = .next s) ∧
      -- the records of heads stay held (R441)
      (part < 64 → s.partEn part = true → Occurs (.teardown part) s fun t => (t.partOf part).intake = [] ∧
        (∀ e ∈ (t.partOf part).heldFaults, 0x60 ≤ ofBytes (e.2.take 1) ∧ ofBytes (e.2.take 1) ≤ 0x62) ∧ (t.partOf part).teardown = some (s.cyc :: teardownCounts s part ++ s.slices part) ∧ ∀ f ∈ t.faultRecs, f.part ≠ part)) ∧
    (∀ c0 a b c d slices, (s.partOf part).teardown = some (c0 :: a :: b :: c :: d :: slices) → c0 + 2 ^ 15 ≤ s.cyc →
      Occurs (.teardownComplete part) s fun t => (t.partOf part).teardown = none ∧ (t.partOf part).key = (s.partOf part).key + 1 ∧
        (∀ e ∈ t.tlb, e.part ≠ part) ∧ ∀ e ∈ t.tlb1, ∀ x ∈ e.2, x.part ≠ part) ∧
    ((1024 ≤ granule ∨ s.barBits (mownOff granule) 6 0 = value % 128 → Occurs (.mownWrite granule value) s fun t => t.scrubs = s.scrubs ∧ t.mem = s.mem) ∧
      (bringUpStep s = 9 → granule < 1024 → s.barBits (mownOff granule) 6 0 ≠ value % 128 → Occurs (.mownWrite granule value) s fun t => t.scrubs = s.scrubs ++ [granule] ∧
        t.mem = s.mem ∧ t.groups = s.groups ∧ (s.bar.wf = true → t.barBits (mownOff granule) 6 0 = value % 128 ∧ t.barBits (mownOff granule) 7 7 = 1))) ∧
    (∀ rest, s.scrubs = granule :: rest → s.scrubStart + scrubCycles ≤ s.cyc → Occurs (.scrubComplete granule) s fun t => t.scrubs = rest ∧ t.groups = s.groups ∧
      (s.mem.wf = true → (∀ a < 2 ^ 30, t.mem.byte (Base.lpddr + granule * 2 ^ 30 + a) = 0) ∧
        ∀ a, a < Base.lpddr + granule * 2 ^ 30 ∨ Base.lpddr + (granule + 1) * 2 ^ 30 ≤ a → t.mem.byte a = s.mem.byte a)) ∧
    ((bringUpStep s = 7 ∨ (bringUpStep s = 9 ∧ s.domSize ≤ 1) → exec (.tbcfgWrite v) s = .next ((s.setBar tbcfgOff 2 0 v.toNat).setBar tbcfgOff 47 8 (bits v.toNat 47 8))) ∧
      (bringUpStep s ≠ 7 → bringUpStep s ≠ 9 ∨ 1 < s.domSize → exec (.tbcfgWrite v) s = .next s)) ∧
    (bringUpStep s = 9 →
      (∀ t, writePair s qp st = some t → exec (.qpctxState qp st) s = .next t) ∧ (writePair s qp st = none → exec (.qpctxState qp st) s = .next s) ∧
      (∀ t, writeShares s [(part, value % 256)] = some t → exec (.channelShare part value) s = .next t) ∧
      (writeShares s [(part, value % 256)] = none → exec (.channelShare part value) s = .next s)) ∧
    -- the driver writes once BAR0 is open, after step 6; the partition manager in step 9, and TBCFG in step 7 (R464, R475)
    (let n := bringUpStep s
     let driver : Prop := (7 ≤ n ∧ n ≤ 9) ∨ (0xBAD7 ≤ n ∧ n ≤ 0xBAD9)
     (driver → isPriv off = true → exec (.registerWrite true off v) s = .next (s.send "priv-log" [off])) ∧
     (¬driver → exec (.registerWrite true off v) s = .next s) ∧
     (n ≠ 9 → n ≠ 7 ∨ off ≠ tbcfgOff → exec (.registerWrite false off v) s = .next s) ∧
     (∀ host : Bool, (if host = true then driver ∧ isPriv off = false else n = 9 ∨ (n = 7 ∧ off = tbcfgOff)) →
      (∀ t, writeReg s off v.toNat = some t → exec (.registerWrite host off v) s = .next t) ∧
      (writeReg s off v.toNat = none → exec (.registerWrite host off v) s = .next s))) ∧
    (Occurs .functionLevelReset s fun t => t.doorbell = none ∧ t.groups = s.groups ∧ Keeps s t ∧ ∀ a, 0x3000 ≤ a → t.bar.byte a = s.bar.byte a)

/-- Completion of regrd, regwr, attest, locate, grpctlResume, killgroup, killcard, preempt, dplink, memwr and memrd. The answers of a sink to
link training and the lanes are free values (log entry 74). The result of an ignored REGWR, the corners of MEMWR and MEMRD, the results of
GRPCTL, the length of MEMRD and LOCATE of a shading group are the model's readings (log entries 65, 72, 73, 87 and 121). -/
def Obligations.MailboxCommandsOccur : Prop :=
  ∀ (s : State), s.doorbell.isSome = true →
    let op := mboxOp s
    let len := mboxLen s
    let off := mboxParam s 63 0
    let offOk : Prop := isPriv off = true ∧ off % 8 = 0
    (op = 1 → (len ≠ 8 → exec .regrd s = .next (finishCommand s 2 [])) ∧ (len = 8 → ¬offOk → exec .regrd s = .next (finishCommand s 2 [])) ∧
      (len = 8 → offOk → exec .regrd s = .next (finishCommand s 0 (toBytes (piece s off) 8)))) ∧
    (op = 2 → len = 24 → (¬offOk → exec .regwr s = .next (finishCommand s 2 [])) ∧
      (offOk →
        let x := Nat.lor (Nat.land (piece s off) (2 ^ 64 - 1 - mboxParam s 191 128)) (Nat.land (mboxParam s 127 64) (mboxParam s 191 128))
        (∀ t, writeReg s off x = some t → exec .regwr s = .next (finishCommand t 0 [])) ∧
        (writeReg s off x = none → exec .regwr s = .next (finishCommand s 3 [])))) ∧
    (op = 0x10 → len = 33 → let p := mboxParam s 263 256
      (63 < p → exec .attest s = .next (finishCommand s 2 [])) ∧
      (p ≤ 63 → exec .attest s = .next (finishCommand s 0 (reportBody s p (s.bar.bytes 0x44 32) ++ signature (reportBody s p (s.bar.bytes 0x44 32)))))) ∧
    (op = 0x20 → len = 24 → mboxParam s 31 14 = 0 → mboxParam s 127 72 = 0 →
      let action := mboxParam s 7 0
      (namedCard s = none → (action = 1 → exec .locate s = .next (finishCommand s 2 [])) ∧ (action = 4 → exec .killcard s = .next (finishCommand s 2 []))) ∧
      (∀ lid l, namedCard s = some (lid, l) →
        (action = 4 → exec .killcard s = .next (finishCommand (s.killLaunch lid) 0 [])) ∧
        (∀ g x, namedParty s lid = some (g, x) →
          (∀ k, action = 1 → x.slot = some k → exec .locate s = .next (finishCommand s 0 (toBytes k 8 ++ toBytes (s.slotVa l.part k) 8))) ∧
          (action = 1 → x.slot = none → x.status ≠ .halted → exec .locate s = .next (finishCommand s 3 [])) ∧
          (action = 1 → x.slot = none → x.shade.isSome = true → exec .locate s = .next (finishCommand s 3 [])) ∧
          (∀ t k, action = 1 → x.slot = none → x.status = .halted → x.shade = none → (s.freeSlot l.part).isSome = true → inFlightDone s g x = true → saveGroup s g = some t →
            (mget g t.groups).bind (·.slot) = some k → exec .locate s = .next (finishCommand t 0 (toBytes k 8 ++ toBytes (t.slotVa l.part k) 8))) ∧
          (action = 2 → l.card.regime ≠ 2 → x.kind = .lane → x.trapped = true → exec .grpctlResume s = .next (finishCommand (resumeGroup s g) 0 [])) ∧
          (action = 2 → x.trapped = false → exec .grpctlResume s = .next (finishCommand s 3 [])) ∧
          (action = 3 → l.card.regime ≠ 2 → x.kind = .lane → l.card.isStrip = false → exec .killgroup s = .next (finishCommand (dropGroup s g) 0 [])) ∧
          (action = 3 → l.card.regime = 2 → exec .killgroup s = .next (finishCommand s 3 [])) ∧
          (action = 5 → l.card.regime ≠ 2 → x.kind = .lane → x.shade = none → x.status = .resident ∨ x.status = .suspended ∨ x.status = .stopping →
            mget g s.preempts = none → exec .preempt s = .next (finishCommand { s with preempts := mset g l.fret s.preempts } 0 [])) ∧
          (action = 5 → l.card.regime = 2 → exec .preempt s = .next (finishCommand s 3 []))))) ∧
    (op = 0x30 → len = 16 →
      (linkOk s (mboxParam s 1 0) = false → exec .dplink s = .next (finishCommand s 2 [])) ∧
      (linkOk s (mboxParam s 1 0) = true → mboxParam s 8 8 = 0 → exec .dplink s = .next (finishCommand { s with
        links := s.links.filter (· != mboxParam s 1 0), trained := s.trained.filter (· != mboxParam s 1 0) } 0 (toBytes 0 8))) ∧
      (linkOk s (mboxParam s 1 0) = true → mboxParam s 8 8 ≠ 0 → Occurs .dplink s fun t => t.doorbell = none ∧ t.groups = s.groups ∧ Keeps s t ∧
        (mboxParam s 9 9 = 0 → mboxParam s 1 0 ∈ t.links))) ∧
    (let (a, p, c, n) := (mboxParam s 63 0, mboxParam s 69 64, mboxParam s 75 72, mboxParam s 90 80)
     let form : Prop := mboxParam s 71 71 = 0 ∧ mboxParam s 79 76 = 0 ∧ mboxParam s 127 91 = 0 ∧ n ≠ 0 ∧ (mboxParam s 70 70 = 1 ∨ a < 2 ^ 52)
     let enabled : Prop := s.partEn p = true ∧ s.barFlag (ctxOff p c) 0 = true
     let parts := windowParts s p a n
     let window : Prop := form ∧ enabled ∧ mboxParam s 70 70 = 1 ∧ s.inWindow p a n = true ∧ BanksFree s parts
     let main : Prop := form ∧ enabled ∧ mboxParam s 70 70 = 0
     (op = 0x40 → len = 16 + n →
       (1024 < n ∨ ¬form → exec .memwr s = .next (finishCommand s 2 [])) ∧
       (n ≤ 1024 → form → ¬enabled → exec .memwr s = .next (finishCommand s 3 [])) ∧
       (n ≤ 1024 → window → exec .memwr s = .next (finishCommand (writeParts (touchBanks s parts) parts (s.bar.bytes 0x54 n) 0 none) 0 [])) ∧
       (∀ t, n ≤ 1024 → main → firstFault s p c .write (touchedPages a n) = (none, t) →
         exec .memwr s = .next (finishCommand (t.vwrite p c a (t.bar.bytes 0x54 n)).2 0 [])) ∧
       (∀ va t, n ≤ 1024 → main → firstFault s p c .write (touchedPages a n) = (some (va, false), t) → exec .memwr s = .next (finishCommand t 4 (toBytes va 8)))) ∧
     (op = 0x41 → len = 16 →
       (2048 < n ∨ ¬form → exec .memrd s = .next (finishCommand s 2 [])) ∧
       (n ≤ 2048 → form → ¬enabled → exec .memrd s = .next (finishCommand s 3 [])) ∧
       (n ≤ 2048 → window → exec .memrd s = .next (finishCommand (readParts (touchBanks s parts) parts none).2.2 0 (readParts (touchBanks s parts) parts none).1)) ∧
       (∀ t bs poison u, n ≤ 2048 → main → firstFault s p c .read (touchedPages a n) = (none, t) → t.vreadP p c a n = (.inl (bs, poison), u) →
         exec .memrd s = .next (finishCommand u 0 bs)) ∧
       (∀ va t, n ≤ 2048 → main → firstFault s p c .read (touchedPages a n) = (some (va, false), t) → exec .memrd s = .next (finishCommand t 4 (toBytes va 8)))))

/-- Completion of checkpointAnnounce, checkpoint, checkpointEnd, checkpointFlit, heartbeatMiss, recovery, powerMeasurement, throttleRestore and
bringUp. The length and lead of a checkpoint, the outcome of a recovery, the length of a power hold, and CYC after bring-up into a domain are
free values (log entry 6). What a checkpoint copies and where, recovery, and the steps of a throttle are the model's readings (log entries 68 to 71
and 125). -/
def Obligations.ServiceEventsOccur : Prop :=
  ∀ (pkg mw : Nat) (f : Flit) (s : State),
    (isMaster s = true → s.ckpt = none → Occurs .checkpointAnnounce s fun t => t.groups = s.groups ∧ Keeps s t ∧
      ∃ start m, t.ckpt = some (start, 16384 * m, false) ∧ s.cyc + 4096 ≤ start ∧ 1 ≤ m ∧ m ≤ 4096 ∧ t.holds = insertStop s.holds start (16384 * m)) ∧
    (∀ a n void, s.ckpt = some (a, n, void) →
      (∀ b m, void = false → s.ckptDone = false → s.hold = some (b, m) → b ≤ s.cyc → s.cyc < b + m → a ≤ s.cyc → s.cyc < a + n →
        -- the copy begins once the banks stand: a package of no domain has no buddy to send it to
        (s.ckptOut = none → (∀ e ∈ lockedLaunches s, banksQuiet s e.1 = true) → Occurs .checkpoint s fun t => t.groups = s.groups ∧
          t.launches = s.launches ∧ t.ckptNew = ((lockedLaunches s).map fun e => imageOfLaunch s e.1 e.2) ∧
          t.ckptOut = some (if s.domSize ≤ 1 then [] else slotLines (slotPieces 0 (lockedLaunches s) s).1) ∧ (s.domSize ≤ 1 → t.ckptDone = true)) ∧
        -- then its lines leave one by one to the buddy's slot, in cycles that best-effort flits may use
        (∀ q rest, s.ckptOut = some (q :: rest) → ((∃ p < 64, s.barFlag capsOff (32 + p) = true ∧ portFree s p = true) →
          Occurs .checkpoint s fun t => t.groups = s.groups ∧ t.mem = s.mem ∧ t.ckptOut = some rest ∧ (t.ckptDone = true ↔ rest = []) ∧
            t.out = (s.send "checkpoint" ([s.barBits buddyOff 7 0, ownPos s, s.barBits buddyOff 51 12 * 2 ^ 12 + 2 ^ 34 * s.ckptSlot.toNat + q.1, q.2.2] ++
              q.2.1.map BitVec.toNat)).out))) ∧
      -- a finished one is valid, and the next goes to the other slot
      (a + n ≤ s.cyc → Occurs .checkpointEnd s fun t => t.ckpt = none ∧ t.groups = s.groups ∧ Keeps s t ∧
        t.ckptValid = (if s.ckptDone && !void then s.ckptNew else s.ckptValid) ∧ (t.ckptSlot ≠ s.ckptSlot ↔ s.ckptDone = true ∧ void = false))) ∧
    (f.kind % 4 = 2 → f.data.length = 64 → f.addr % 64 = 0 →
      let base := s.barBits ckinOff 51 12 * 2 ^ 12
      let ok : Prop := s.barFlag ckinOff 63 = true ∧ f.src = s.barBits ckinOff 7 0 ∧ base ≤ f.addr ∧ f.addr + 64 ≤ base + 2 ^ 35
      (ok → bit f.kind 3 = false → exec (.checkpointFlit f) s = .next { s with
        mem := s.mem.setBytes (Base.lpddr + f.addr) f.data, lineKey := mset (f.addr / 64) ckptKey s.lineKey }) ∧
      (¬ok → bit f.kind 3 = false → exec (.checkpointFlit f) s = .next (dropFlit s f none 3)) ∧
      Occurs (.checkpointFlit f) s fun t => t.groups = s.groups ∧ t.launches = s.launches) ∧
    (pkg < s.domSize → pkg ≠ ownPos s → Occurs (.heartbeatMiss pkg) s fun t => t.groups = s.groups ∧ t.mem = s.mem ∧
      (dget 0 pkg s.missed = 2 → t.lost = some pkg) ∧ (dget 0 pkg s.missed ≠ 2 → t.lost = s.lost ∧ t.launches = s.launches)) ∧
    (∀ a, s.lost = some a → (∀ e ∈ s.launches, domainLaunch e.2 = true → e.2.status ≠ .running ∧ e.2.status ≠ .dispatched) →
      (∀ e ∈ s.launches, domainLaunch e.2 = true → e.2.status = .halted → tableReadable s e.1 = true) → Occurs .recovery s fun t => (∀ e ∈ s.launches, domainLaunch e.2 = true → e.2.status ≠ .halted) → t = { s with lost := none, missed := mdel a s.missed }) ∧
    (Occurs (.powerMeasurement mw) s fun t => t.groups = s.groups ∧ Keeps s t ∧ t.power = (s.power ++ [mw]).drop ((s.power.length + 1) - 10) ∧
      (total t.power ≤ s.barBits pcapOff 15 0 * 1000 * t.power.length → t.clocks = s.clocks ∧ t.halfRate = s.halfRate ∧ t.powerHold = s.powerHold)) ∧
    (throttled s = true → 100 ≤ s.below → exec .throttleRestore s = .next (unthrottle { s with below := 0 })) ∧
    (let n := bringUpStep s
     1 ≤ n → n ≤ 8 →
      (∀ t, bringUpDoes n s = some t → exec .bringUp s = .next { t with bar := t.bar.store 0 4 (n + 1) }) ∧
      (bringUpDoes n s = none → exec .bringUp s = .next { s with bar := s.bar.store 0 4 (0xBAD0 + n) }))

/-! ### The invariant of every step -/

/-- Equal contents of memory and of the registers are equal data, in every state that a step leaves: addresses strictly rising, no byte listed that
reads as an unlisted one does. What an unlisted one reads as is the model's choice (log entry 7). -/
def Obligations.StepKeepsMemoryCanonical : Prop :=
  ∀ s t : State, Safety.MemoryOk s → step s = .next t → Safety.MemoryOk t
end

