-- ==== Sys2Proof/Laws/Event.lean ====
section
/-! SUPPORT. What an event can do, and what a bank lets an access do, said once (06 R186, R190): an event happens or leaves the machine as it is,
and an access at its banks waits, wakes them, or is performed. -/

namespace Sys2Proof.Laws
open Sys2Proof Sys2Proof.Machine

/-- An event that its rule lets happen gives its state. -/
@[simp] theorem happens_some (s t : State) : happens s (some t) = .next t := rfl
/-- One that it does not leaves the machine as it is. -/
@[simp] theorem happens_none (s : State) : happens s none = .next s := rfl
/-- An event gives its state where its condition holds, and only there. -/
theorem event_some {ok : Bool} {s t : State} : event ok s = some t ↔ ok = true ∧ s = t := by
  cases ok <;> simp [event]
/-- A write of configuration changes nothing before bring-up is complete (R475). -/
theorem configured_early {s : State} {t : Option State} (h : bringUpStep s ≠ 9) : configured s t = s := if_neg h
/-- Afterwards it gives its state, where the rule of the register lets it. -/
theorem configured_done {s : State} {t : Option State} (h : bringUpStep s = 9) : configured s t = t.getD s := if_pos h

/-- An access at its banks is performed, or it is the waking of a bank in retention. -/
theorem atBanks_cases {s t : State} {bs : List Nat} {go : State → Option State} (h : atBanks s bs go = some t) :
    bankWaits s bs = false ∧ ((bs.any (asleep s) = true ∧ t = s.occupy bs 24) ∨ (bs.any (asleep s) = false ∧ go s = some t)) := by
  unfold atBanks at h
  cases hw : bankWaits s bs <;> cases hs : bs.any (asleep s) <;> simp_all
/-- Where its banks are free and awake an access is performed at once. -/
theorem atBanks_ready {s : State} {bs : List Nat} {go : State → Option State} (hw : bankWaits s bs = false)
    (hs : bs.any (asleep s) = false) : atBanks s bs go = go s := by
  simp [atBanks, hw, hs]
/-- Where one of them serves another, or holds a request that came before, it waits. -/
theorem atBanks_waits {s : State} {bs : List Nat} {go : State → Option State} (hw : bankWaits s bs = true) : atBanks s bs go = none := by
  simp [atBanks, hw]
/-- An instruction whose access is performed at its issue does so where its banks are free and awake. -/
theorem issueAt_ready {s : State} {bs : List Nat} {go : State → Res} (hw : bankWaits s bs = false) (hs : bs.any (asleep s) = false) :
    issueAt s bs go = go s := by
  simp [issueAt, hw, hs]

end Sys2Proof.Laws
end

