-- ==== Sys2Proof/Laws/State.lean ====
section
/-! SUPPORT. What each named update of State leaves in each field: one lemma per field and update, true by unfolding. -/

namespace Sys2Proof.Machine.State

/-! ### updGroup -/

@[simp] theorem updGroup_cyc (s : State) (g : Nat) (f : Group → Group) : (s.updGroup g f).cyc = s.cyc := rfl
@[simp] theorem updGroup_elapse (s : State) (g : Nat) (f : Group → Group) : (s.updGroup g f).elapse = s.elapse := rfl
@[simp] theorem updGroup_owed (s : State) (g : Nat) (f : Group → Group) : (s.updGroup g f).owed = s.owed := rfl
@[simp] theorem updGroup_hold (s : State) (g : Nat) (f : Group → Group) : (s.updGroup g f).hold = s.hold := rfl
@[simp] theorem updGroup_frozen (s : State) (g : Nat) (f : Group → Group) : (s.updGroup g f).frozen = s.frozen := rfl
@[simp] theorem updGroup_agenda (s : State) (g : Nat) (f : Group → Group) : (s.updGroup g f).agenda = s.agenda := rfl
@[simp] theorem updGroup_turn (s : State) (g : Nat) (f : Group → Group) : (s.updGroup g f).turn = s.turn := rfl
@[simp] theorem updGroup_sliceHeld (s : State) (g : Nat) (f : Group → Group) : (s.updGroup g f).sliceHeld = s.sliceHeld := rfl
@[simp] theorem updGroup_free (s : State) (g : Nat) (f : Group → Group) : (s.updGroup g f).free = s.free := rfl
@[simp] theorem updGroup_seq (s : State) (g : Nat) (f : Group → Group) : (s.updGroup g f).seq = s.seq := rfl
@[simp] theorem updGroup_mem (s : State) (g : Nat) (f : Group → Group) : (s.updGroup g f).mem = s.mem := rfl
@[simp] theorem updGroup_eccBad (s : State) (g : Nat) (f : Group → Group) : (s.updGroup g f).eccBad = s.eccBad := rfl
@[simp] theorem updGroup_injected (s : State) (g : Nat) (f : Group → Group) : (s.updGroup g f).injected = s.injected := rfl
@[simp] theorem updGroup_bar (s : State) (g : Nat) (f : Group → Group) : (s.updGroup g f).bar = s.bar := rfl
@[simp] theorem updGroup_bankBusy (s : State) (g : Nat) (f : Group → Group) : (s.updGroup g f).bankBusy = s.bankBusy := rfl
@[simp] theorem updGroup_bankIdle (s : State) (g : Nat) (f : Group → Group) : (s.updGroup g f).bankIdle = s.bankIdle := rfl
@[simp] theorem updGroup_bankAsleep (s : State) (g : Nat) (f : Group → Group) : (s.updGroup g f).bankAsleep = s.bankAsleep := rfl
@[simp] theorem updGroup_bankLast (s : State) (g : Nat) (f : Group → Group) : (s.updGroup g f).bankLast = s.bankLast := rfl
@[simp] theorem updGroup_writebacks (s : State) (g : Nat) (f : Group → Group) : (s.updGroup g f).writebacks = s.writebacks := rfl
@[simp] theorem updGroup_reqs (s : State) (g : Nat) (f : Group → Group) : (s.updGroup g f).reqs = s.reqs := rfl
@[simp] theorem updGroup_rels (s : State) (g : Nat) (f : Group → Group) : (s.updGroup g f).rels = s.rels := rfl
@[simp] theorem updGroup_lineKey (s : State) (g : Nat) (f : Group → Group) : (s.updGroup g f).lineKey = s.lineKey := rfl
@[simp] theorem updGroup_granKey (s : State) (g : Nat) (f : Group → Group) : (s.updGroup g f).granKey = s.granKey := rfl
@[simp] theorem updGroup_tlb (s : State) (g : Nat) (f : Group → Group) : (s.updGroup g f).tlb = s.tlb := rfl
@[simp] theorem updGroup_invals (s : State) (g : Nat) (f : Group → Group) : (s.updGroup g f).invals = s.invals := rfl
@[simp] theorem updGroup_scrubs (s : State) (g : Nat) (f : Group → Group) : (s.updGroup g f).scrubs = s.scrubs := rfl
@[simp] theorem updGroup_scrubStart (s : State) (g : Nat) (f : Group → Group) : (s.updGroup g f).scrubStart = s.scrubStart := rfl
@[simp] theorem updGroup_faultRecs (s : State) (g : Nat) (f : Group → Group) : (s.updGroup g f).faultRecs = s.faultRecs := rfl
@[simp] theorem updGroup_copies (s : State) (g : Nat) (f : Group → Group) : (s.updGroup g f).copies = s.copies := rfl
@[simp] theorem updGroup_replays (s : State) (g : Nat) (f : Group → Group) : (s.updGroup g f).replays = s.replays := rfl
@[simp] theorem updGroup_lastQueue (s : State) (g : Nat) (f : Group → Group) : (s.updGroup g f).lastQueue = s.lastQueue := rfl
@[simp] theorem updGroup_children (s : State) (g : Nat) (f : Group → Group) : (s.updGroup g f).children = s.children := rfl
@[simp] theorem updGroup_preempts (s : State) (g : Nat) (f : Group → Group) : (s.updGroup g f).preempts = s.preempts := rfl
@[simp] theorem updGroup_rays (s : State) (g : Nat) (f : Group → Group) : (s.updGroup g f).rays = s.rays := rfl
@[simp] theorem updGroup_windows (s : State) (g : Nat) (f : Group → Group) : (s.updGroup g f).windows = s.windows := rfl
@[simp] theorem updGroup_sends (s : State) (g : Nat) (f : Group → Group) : (s.updGroup g f).sends = s.sends := rfl
@[simp] theorem updGroup_dropSeen (s : State) (g : Nat) (f : Group → Group) : (s.updGroup g f).dropSeen = s.dropSeen := rfl
@[simp] theorem updGroup_dropPend (s : State) (g : Nat) (f : Group → Group) : (s.updGroup g f).dropPend = s.dropPend := rfl
@[simp] theorem updGroup_padded (s : State) (g : Nat) (f : Group → Group) : (s.updGroup g f).padded = s.padded := rfl
@[simp] theorem updGroup_inbox (s : State) (g : Nat) (f : Group → Group) : (s.updGroup g f).inbox = s.inbox := rfl
@[simp] theorem updGroup_portUsed (s : State) (g : Nat) (f : Group → Group) : (s.updGroup g f).portUsed = s.portUsed := rfl
@[simp] theorem updGroup_holdSince (s : State) (g : Nat) (f : Group → Group) : (s.updGroup g f).holdSince = s.holdSince := rfl
@[simp] theorem updGroup_abroad (s : State) (g : Nat) (f : Group → Group) : (s.updGroup g f).abroad = s.abroad := rfl
@[simp] theorem updGroup_tlb1 (s : State) (g : Nat) (f : Group → Group) : (s.updGroup g f).tlb1 = s.tlb1 := rfl
@[simp] theorem updGroup_ckptOut (s : State) (g : Nat) (f : Group → Group) : (s.updGroup g f).ckptOut = s.ckptOut := rfl
@[simp] theorem updGroup_ckptSlot (s : State) (g : Nat) (f : Group → Group) : (s.updGroup g f).ckptSlot = s.ckptSlot := rfl
@[simp] theorem updGroup_insertions (s : State) (g : Nat) (f : Group → Group) : (s.updGroup g f).insertions = s.insertions := rfl
@[simp] theorem updGroup_holdReqs (s : State) (g : Nat) (f : Group → Group) : (s.updGroup g f).holdReqs = s.holdReqs := rfl
@[simp] theorem updGroup_holds (s : State) (g : Nat) (f : Group → Group) : (s.updGroup g f).holds = s.holds := rfl
@[simp] theorem updGroup_ckpt (s : State) (g : Nat) (f : Group → Group) : (s.updGroup g f).ckpt = s.ckpt := rfl
@[simp] theorem updGroup_ckptDone (s : State) (g : Nat) (f : Group → Group) : (s.updGroup g f).ckptDone = s.ckptDone := rfl
@[simp] theorem updGroup_ckptValid (s : State) (g : Nat) (f : Group → Group) : (s.updGroup g f).ckptValid = s.ckptValid := rfl
@[simp] theorem updGroup_ckptNew (s : State) (g : Nat) (f : Group → Group) : (s.updGroup g f).ckptNew = s.ckptNew := rfl
@[simp] theorem updGroup_headParts (s : State) (g : Nat) (f : Group → Group) : (s.updGroup g f).headParts = s.headParts := rfl
@[simp] theorem updGroup_rings (s : State) (g : Nat) (f : Group → Group) : (s.updGroup g f).rings = s.rings := rfl
@[simp] theorem updGroup_encs (s : State) (g : Nat) (f : Group → Group) : (s.updGroup g f).encs = s.encs := rfl
@[simp] theorem updGroup_links (s : State) (g : Nat) (f : Group → Group) : (s.updGroup g f).links = s.links := rfl
@[simp] theorem updGroup_trained (s : State) (g : Nat) (f : Group → Group) : (s.updGroup g f).trained = s.trained := rfl
@[simp] theorem updGroup_doorbell (s : State) (g : Nat) (f : Group → Group) : (s.updGroup g f).doorbell = s.doorbell := rfl
@[simp] theorem updGroup_power (s : State) (g : Nat) (f : Group → Group) : (s.updGroup g f).power = s.power := rfl
@[simp] theorem updGroup_clocks (s : State) (g : Nat) (f : Group → Group) : (s.updGroup g f).clocks = s.clocks := rfl
@[simp] theorem updGroup_halfRate (s : State) (g : Nat) (f : Group → Group) : (s.updGroup g f).halfRate = s.halfRate := rfl
@[simp] theorem updGroup_powerHold (s : State) (g : Nat) (f : Group → Group) : (s.updGroup g f).powerHold = s.powerHold := rfl
@[simp] theorem updGroup_below (s : State) (g : Nat) (f : Group → Group) : (s.updGroup g f).below = s.below := rfl
@[simp] theorem updGroup_missed (s : State) (g : Nat) (f : Group → Group) : (s.updGroup g f).missed = s.missed := rfl
@[simp] theorem updGroup_lost (s : State) (g : Nat) (f : Group → Group) : (s.updGroup g f).lost = s.lost := rfl
@[simp] theorem updGroup_ptp (s : State) (g : Nat) (f : Group → Group) : (s.updGroup g f).ptp = s.ptp := rfl
@[simp] theorem updGroup_ptpNext (s : State) (g : Nat) (f : Group → Group) : (s.updGroup g f).ptpNext = s.ptpNext := rfl
@[simp] theorem updGroup_launches (s : State) (g : Nat) (f : Group → Group) : (s.updGroup g f).launches = s.launches := rfl
@[simp] theorem updGroup_groups (s : State) (g : Nat) (f : Group → Group) : (s.updGroup g f).groups = mupd g f s.groups := rfl
@[simp] theorem updGroup_parts (s : State) (g : Nat) (f : Group → Group) : (s.updGroup g f).parts = s.parts := rfl
@[simp] theorem updGroup_clusters (s : State) (g : Nat) (f : Group → Group) : (s.updGroup g f).clusters = s.clusters := rfl
@[simp] theorem updGroup_held (s : State) (g : Nat) (f : Group → Group) : (s.updGroup g f).held = s.held := rfl
@[simp] theorem updGroup_lfab (s : State) (g : Nat) (f : Group → Group) : (s.updGroup g f).lfab = s.lfab := rfl
@[simp] theorem updGroup_domSize (s : State) (g : Nat) (f : Group → Group) : (s.updGroup g f).domSize = s.domSize := rfl
@[simp] theorem updGroup_out (s : State) (g : Nat) (f : Group → Group) : (s.updGroup g f).out = s.out := rfl

/-! ### updLaunch -/

@[simp] theorem updLaunch_cyc (s : State) (l : Nat) (f : Launch → Launch) : (s.updLaunch l f).cyc = s.cyc := rfl
@[simp] theorem updLaunch_elapse (s : State) (l : Nat) (f : Launch → Launch) : (s.updLaunch l f).elapse = s.elapse := rfl
@[simp] theorem updLaunch_owed (s : State) (l : Nat) (f : Launch → Launch) : (s.updLaunch l f).owed = s.owed := rfl
@[simp] theorem updLaunch_hold (s : State) (l : Nat) (f : Launch → Launch) : (s.updLaunch l f).hold = s.hold := rfl
@[simp] theorem updLaunch_frozen (s : State) (l : Nat) (f : Launch → Launch) : (s.updLaunch l f).frozen = s.frozen := rfl
@[simp] theorem updLaunch_agenda (s : State) (l : Nat) (f : Launch → Launch) : (s.updLaunch l f).agenda = s.agenda := rfl
@[simp] theorem updLaunch_turn (s : State) (l : Nat) (f : Launch → Launch) : (s.updLaunch l f).turn = s.turn := rfl
@[simp] theorem updLaunch_sliceHeld (s : State) (l : Nat) (f : Launch → Launch) : (s.updLaunch l f).sliceHeld = s.sliceHeld := rfl
@[simp] theorem updLaunch_free (s : State) (l : Nat) (f : Launch → Launch) : (s.updLaunch l f).free = s.free := rfl
@[simp] theorem updLaunch_seq (s : State) (l : Nat) (f : Launch → Launch) : (s.updLaunch l f).seq = s.seq := rfl
@[simp] theorem updLaunch_mem (s : State) (l : Nat) (f : Launch → Launch) : (s.updLaunch l f).mem = s.mem := rfl
@[simp] theorem updLaunch_eccBad (s : State) (l : Nat) (f : Launch → Launch) : (s.updLaunch l f).eccBad = s.eccBad := rfl
@[simp] theorem updLaunch_injected (s : State) (l : Nat) (f : Launch → Launch) : (s.updLaunch l f).injected = s.injected := rfl
@[simp] theorem updLaunch_bar (s : State) (l : Nat) (f : Launch → Launch) : (s.updLaunch l f).bar = s.bar := rfl
@[simp] theorem updLaunch_bankBusy (s : State) (l : Nat) (f : Launch → Launch) : (s.updLaunch l f).bankBusy = s.bankBusy := rfl
@[simp] theorem updLaunch_bankIdle (s : State) (l : Nat) (f : Launch → Launch) : (s.updLaunch l f).bankIdle = s.bankIdle := rfl
@[simp] theorem updLaunch_bankAsleep (s : State) (l : Nat) (f : Launch → Launch) : (s.updLaunch l f).bankAsleep = s.bankAsleep := rfl
@[simp] theorem updLaunch_bankLast (s : State) (l : Nat) (f : Launch → Launch) : (s.updLaunch l f).bankLast = s.bankLast := rfl
@[simp] theorem updLaunch_writebacks (s : State) (l : Nat) (f : Launch → Launch) : (s.updLaunch l f).writebacks = s.writebacks := rfl
@[simp] theorem updLaunch_reqs (s : State) (l : Nat) (f : Launch → Launch) : (s.updLaunch l f).reqs = s.reqs := rfl
@[simp] theorem updLaunch_rels (s : State) (l : Nat) (f : Launch → Launch) : (s.updLaunch l f).rels = s.rels := rfl
@[simp] theorem updLaunch_lineKey (s : State) (l : Nat) (f : Launch → Launch) : (s.updLaunch l f).lineKey = s.lineKey := rfl
@[simp] theorem updLaunch_granKey (s : State) (l : Nat) (f : Launch → Launch) : (s.updLaunch l f).granKey = s.granKey := rfl
@[simp] theorem updLaunch_tlb (s : State) (l : Nat) (f : Launch → Launch) : (s.updLaunch l f).tlb = s.tlb := rfl
@[simp] theorem updLaunch_invals (s : State) (l : Nat) (f : Launch → Launch) : (s.updLaunch l f).invals = s.invals := rfl
@[simp] theorem updLaunch_scrubs (s : State) (l : Nat) (f : Launch → Launch) : (s.updLaunch l f).scrubs = s.scrubs := rfl
@[simp] theorem updLaunch_scrubStart (s : State) (l : Nat) (f : Launch → Launch) : (s.updLaunch l f).scrubStart = s.scrubStart := rfl
@[simp] theorem updLaunch_faultRecs (s : State) (l : Nat) (f : Launch → Launch) : (s.updLaunch l f).faultRecs = s.faultRecs := rfl
@[simp] theorem updLaunch_copies (s : State) (l : Nat) (f : Launch → Launch) : (s.updLaunch l f).copies = s.copies := rfl
@[simp] theorem updLaunch_replays (s : State) (l : Nat) (f : Launch → Launch) : (s.updLaunch l f).replays = s.replays := rfl
@[simp] theorem updLaunch_lastQueue (s : State) (l : Nat) (f : Launch → Launch) : (s.updLaunch l f).lastQueue = s.lastQueue := rfl
@[simp] theorem updLaunch_children (s : State) (l : Nat) (f : Launch → Launch) : (s.updLaunch l f).children = s.children := rfl
@[simp] theorem updLaunch_preempts (s : State) (l : Nat) (f : Launch → Launch) : (s.updLaunch l f).preempts = s.preempts := rfl
@[simp] theorem updLaunch_rays (s : State) (l : Nat) (f : Launch → Launch) : (s.updLaunch l f).rays = s.rays := rfl
@[simp] theorem updLaunch_windows (s : State) (l : Nat) (f : Launch → Launch) : (s.updLaunch l f).windows = s.windows := rfl
@[simp] theorem updLaunch_sends (s : State) (l : Nat) (f : Launch → Launch) : (s.updLaunch l f).sends = s.sends := rfl
@[simp] theorem updLaunch_dropSeen (s : State) (l : Nat) (f : Launch → Launch) : (s.updLaunch l f).dropSeen = s.dropSeen := rfl
@[simp] theorem updLaunch_dropPend (s : State) (l : Nat) (f : Launch → Launch) : (s.updLaunch l f).dropPend = s.dropPend := rfl
@[simp] theorem updLaunch_padded (s : State) (l : Nat) (f : Launch → Launch) : (s.updLaunch l f).padded = s.padded := rfl
@[simp] theorem updLaunch_inbox (s : State) (l : Nat) (f : Launch → Launch) : (s.updLaunch l f).inbox = s.inbox := rfl
@[simp] theorem updLaunch_portUsed (s : State) (l : Nat) (f : Launch → Launch) : (s.updLaunch l f).portUsed = s.portUsed := rfl
@[simp] theorem updLaunch_holdSince (s : State) (l : Nat) (f : Launch → Launch) : (s.updLaunch l f).holdSince = s.holdSince := rfl
@[simp] theorem updLaunch_abroad (s : State) (l : Nat) (f : Launch → Launch) : (s.updLaunch l f).abroad = s.abroad := rfl
@[simp] theorem updLaunch_tlb1 (s : State) (l : Nat) (f : Launch → Launch) : (s.updLaunch l f).tlb1 = s.tlb1 := rfl
@[simp] theorem updLaunch_ckptOut (s : State) (l : Nat) (f : Launch → Launch) : (s.updLaunch l f).ckptOut = s.ckptOut := rfl
@[simp] theorem updLaunch_ckptSlot (s : State) (l : Nat) (f : Launch → Launch) : (s.updLaunch l f).ckptSlot = s.ckptSlot := rfl
@[simp] theorem updLaunch_insertions (s : State) (l : Nat) (f : Launch → Launch) : (s.updLaunch l f).insertions = s.insertions := rfl
@[simp] theorem updLaunch_holdReqs (s : State) (l : Nat) (f : Launch → Launch) : (s.updLaunch l f).holdReqs = s.holdReqs := rfl
@[simp] theorem updLaunch_holds (s : State) (l : Nat) (f : Launch → Launch) : (s.updLaunch l f).holds = s.holds := rfl
@[simp] theorem updLaunch_ckpt (s : State) (l : Nat) (f : Launch → Launch) : (s.updLaunch l f).ckpt = s.ckpt := rfl
@[simp] theorem updLaunch_ckptDone (s : State) (l : Nat) (f : Launch → Launch) : (s.updLaunch l f).ckptDone = s.ckptDone := rfl
@[simp] theorem updLaunch_ckptValid (s : State) (l : Nat) (f : Launch → Launch) : (s.updLaunch l f).ckptValid = s.ckptValid := rfl
@[simp] theorem updLaunch_ckptNew (s : State) (l : Nat) (f : Launch → Launch) : (s.updLaunch l f).ckptNew = s.ckptNew := rfl
@[simp] theorem updLaunch_headParts (s : State) (l : Nat) (f : Launch → Launch) : (s.updLaunch l f).headParts = s.headParts := rfl
@[simp] theorem updLaunch_rings (s : State) (l : Nat) (f : Launch → Launch) : (s.updLaunch l f).rings = s.rings := rfl
@[simp] theorem updLaunch_encs (s : State) (l : Nat) (f : Launch → Launch) : (s.updLaunch l f).encs = s.encs := rfl
@[simp] theorem updLaunch_links (s : State) (l : Nat) (f : Launch → Launch) : (s.updLaunch l f).links = s.links := rfl
@[simp] theorem updLaunch_trained (s : State) (l : Nat) (f : Launch → Launch) : (s.updLaunch l f).trained = s.trained := rfl
@[simp] theorem updLaunch_doorbell (s : State) (l : Nat) (f : Launch → Launch) : (s.updLaunch l f).doorbell = s.doorbell := rfl
@[simp] theorem updLaunch_power (s : State) (l : Nat) (f : Launch → Launch) : (s.updLaunch l f).power = s.power := rfl
@[simp] theorem updLaunch_clocks (s : State) (l : Nat) (f : Launch → Launch) : (s.updLaunch l f).clocks = s.clocks := rfl
@[simp] theorem updLaunch_halfRate (s : State) (l : Nat) (f : Launch → Launch) : (s.updLaunch l f).halfRate = s.halfRate := rfl
@[simp] theorem updLaunch_powerHold (s : State) (l : Nat) (f : Launch → Launch) : (s.updLaunch l f).powerHold = s.powerHold := rfl
@[simp] theorem updLaunch_below (s : State) (l : Nat) (f : Launch → Launch) : (s.updLaunch l f).below = s.below := rfl
@[simp] theorem updLaunch_missed (s : State) (l : Nat) (f : Launch → Launch) : (s.updLaunch l f).missed = s.missed := rfl
@[simp] theorem updLaunch_lost (s : State) (l : Nat) (f : Launch → Launch) : (s.updLaunch l f).lost = s.lost := rfl
@[simp] theorem updLaunch_ptp (s : State) (l : Nat) (f : Launch → Launch) : (s.updLaunch l f).ptp = s.ptp := rfl
@[simp] theorem updLaunch_ptpNext (s : State) (l : Nat) (f : Launch → Launch) : (s.updLaunch l f).ptpNext = s.ptpNext := rfl
@[simp] theorem updLaunch_launches (s : State) (l : Nat) (f : Launch → Launch) : (s.updLaunch l f).launches = mupd l f s.launches := rfl
@[simp] theorem updLaunch_groups (s : State) (l : Nat) (f : Launch → Launch) : (s.updLaunch l f).groups = s.groups := rfl
@[simp] theorem updLaunch_parts (s : State) (l : Nat) (f : Launch → Launch) : (s.updLaunch l f).parts = s.parts := rfl
@[simp] theorem updLaunch_clusters (s : State) (l : Nat) (f : Launch → Launch) : (s.updLaunch l f).clusters = s.clusters := rfl
@[simp] theorem updLaunch_held (s : State) (l : Nat) (f : Launch → Launch) : (s.updLaunch l f).held = s.held := rfl
@[simp] theorem updLaunch_lfab (s : State) (l : Nat) (f : Launch → Launch) : (s.updLaunch l f).lfab = s.lfab := rfl
@[simp] theorem updLaunch_domSize (s : State) (l : Nat) (f : Launch → Launch) : (s.updLaunch l f).domSize = s.domSize := rfl
@[simp] theorem updLaunch_out (s : State) (l : Nat) (f : Launch → Launch) : (s.updLaunch l f).out = s.out := rfl

/-! ### updBindings -/

@[simp] theorem updBindings_cyc (s : State) (l : Nat) (f : PegBinding → PegBinding) : (s.updBindings l f).cyc = s.cyc := rfl
@[simp] theorem updBindings_elapse (s : State) (l : Nat) (f : PegBinding → PegBinding) : (s.updBindings l f).elapse = s.elapse := rfl
@[simp] theorem updBindings_owed (s : State) (l : Nat) (f : PegBinding → PegBinding) : (s.updBindings l f).owed = s.owed := rfl
@[simp] theorem updBindings_hold (s : State) (l : Nat) (f : PegBinding → PegBinding) : (s.updBindings l f).hold = s.hold := rfl
@[simp] theorem updBindings_frozen (s : State) (l : Nat) (f : PegBinding → PegBinding) : (s.updBindings l f).frozen = s.frozen := rfl
@[simp] theorem updBindings_agenda (s : State) (l : Nat) (f : PegBinding → PegBinding) : (s.updBindings l f).agenda = s.agenda := rfl
@[simp] theorem updBindings_turn (s : State) (l : Nat) (f : PegBinding → PegBinding) : (s.updBindings l f).turn = s.turn := rfl
@[simp] theorem updBindings_sliceHeld (s : State) (l : Nat) (f : PegBinding → PegBinding) : (s.updBindings l f).sliceHeld = s.sliceHeld := rfl
@[simp] theorem updBindings_free (s : State) (l : Nat) (f : PegBinding → PegBinding) : (s.updBindings l f).free = s.free := rfl
@[simp] theorem updBindings_seq (s : State) (l : Nat) (f : PegBinding → PegBinding) : (s.updBindings l f).seq = s.seq := rfl
@[simp] theorem updBindings_mem (s : State) (l : Nat) (f : PegBinding → PegBinding) : (s.updBindings l f).mem = s.mem := rfl
@[simp] theorem updBindings_eccBad (s : State) (l : Nat) (f : PegBinding → PegBinding) : (s.updBindings l f).eccBad = s.eccBad := rfl
@[simp] theorem updBindings_injected (s : State) (l : Nat) (f : PegBinding → PegBinding) : (s.updBindings l f).injected = s.injected := rfl
@[simp] theorem updBindings_bar (s : State) (l : Nat) (f : PegBinding → PegBinding) : (s.updBindings l f).bar = s.bar := rfl
@[simp] theorem updBindings_bankBusy (s : State) (l : Nat) (f : PegBinding → PegBinding) : (s.updBindings l f).bankBusy = s.bankBusy := rfl
@[simp] theorem updBindings_bankIdle (s : State) (l : Nat) (f : PegBinding → PegBinding) : (s.updBindings l f).bankIdle = s.bankIdle := rfl
@[simp] theorem updBindings_bankAsleep (s : State) (l : Nat) (f : PegBinding → PegBinding) : (s.updBindings l f).bankAsleep = s.bankAsleep := rfl
@[simp] theorem updBindings_bankLast (s : State) (l : Nat) (f : PegBinding → PegBinding) : (s.updBindings l f).bankLast = s.bankLast := rfl
@[simp] theorem updBindings_writebacks (s : State) (l : Nat) (f : PegBinding → PegBinding) : (s.updBindings l f).writebacks = s.writebacks := rfl
@[simp] theorem updBindings_reqs (s : State) (l : Nat) (f : PegBinding → PegBinding) : (s.updBindings l f).reqs = s.reqs := rfl
@[simp] theorem updBindings_rels (s : State) (l : Nat) (f : PegBinding → PegBinding) : (s.updBindings l f).rels = s.rels := rfl
@[simp] theorem updBindings_lineKey (s : State) (l : Nat) (f : PegBinding → PegBinding) : (s.updBindings l f).lineKey = s.lineKey := rfl
@[simp] theorem updBindings_granKey (s : State) (l : Nat) (f : PegBinding → PegBinding) : (s.updBindings l f).granKey = s.granKey := rfl
@[simp] theorem updBindings_tlb (s : State) (l : Nat) (f : PegBinding → PegBinding) : (s.updBindings l f).tlb = s.tlb := rfl
@[simp] theorem updBindings_invals (s : State) (l : Nat) (f : PegBinding → PegBinding) : (s.updBindings l f).invals = s.invals := rfl
@[simp] theorem updBindings_scrubs (s : State) (l : Nat) (f : PegBinding → PegBinding) : (s.updBindings l f).scrubs = s.scrubs := rfl
@[simp] theorem updBindings_scrubStart (s : State) (l : Nat) (f : PegBinding → PegBinding) : (s.updBindings l f).scrubStart = s.scrubStart := rfl
@[simp] theorem updBindings_faultRecs (s : State) (l : Nat) (f : PegBinding → PegBinding) : (s.updBindings l f).faultRecs = s.faultRecs := rfl
@[simp] theorem updBindings_copies (s : State) (l : Nat) (f : PegBinding → PegBinding) : (s.updBindings l f).copies = s.copies := rfl
@[simp] theorem updBindings_replays (s : State) (l : Nat) (f : PegBinding → PegBinding) : (s.updBindings l f).replays = s.replays := rfl
@[simp] theorem updBindings_lastQueue (s : State) (l : Nat) (f : PegBinding → PegBinding) : (s.updBindings l f).lastQueue = s.lastQueue := rfl
@[simp] theorem updBindings_children (s : State) (l : Nat) (f : PegBinding → PegBinding) : (s.updBindings l f).children = s.children := rfl
@[simp] theorem updBindings_preempts (s : State) (l : Nat) (f : PegBinding → PegBinding) : (s.updBindings l f).preempts = s.preempts := rfl
@[simp] theorem updBindings_rays (s : State) (l : Nat) (f : PegBinding → PegBinding) : (s.updBindings l f).rays = s.rays := rfl
@[simp] theorem updBindings_windows (s : State) (l : Nat) (f : PegBinding → PegBinding) : (s.updBindings l f).windows = s.windows := rfl
@[simp] theorem updBindings_sends (s : State) (l : Nat) (f : PegBinding → PegBinding) : (s.updBindings l f).sends = s.sends := rfl
@[simp] theorem updBindings_dropSeen (s : State) (l : Nat) (f : PegBinding → PegBinding) : (s.updBindings l f).dropSeen = s.dropSeen := rfl
@[simp] theorem updBindings_dropPend (s : State) (l : Nat) (f : PegBinding → PegBinding) : (s.updBindings l f).dropPend = s.dropPend := rfl
@[simp] theorem updBindings_padded (s : State) (l : Nat) (f : PegBinding → PegBinding) : (s.updBindings l f).padded = s.padded := rfl
@[simp] theorem updBindings_inbox (s : State) (l : Nat) (f : PegBinding → PegBinding) : (s.updBindings l f).inbox = s.inbox := rfl
@[simp] theorem updBindings_portUsed (s : State) (l : Nat) (f : PegBinding → PegBinding) : (s.updBindings l f).portUsed = s.portUsed := rfl
@[simp] theorem updBindings_holdSince (s : State) (l : Nat) (f : PegBinding → PegBinding) : (s.updBindings l f).holdSince = s.holdSince := rfl
@[simp] theorem updBindings_abroad (s : State) (l : Nat) (f : PegBinding → PegBinding) : (s.updBindings l f).abroad = s.abroad := rfl
@[simp] theorem updBindings_tlb1 (s : State) (l : Nat) (f : PegBinding → PegBinding) : (s.updBindings l f).tlb1 = s.tlb1 := rfl
@[simp] theorem updBindings_ckptOut (s : State) (l : Nat) (f : PegBinding → PegBinding) : (s.updBindings l f).ckptOut = s.ckptOut := rfl
@[simp] theorem updBindings_ckptSlot (s : State) (l : Nat) (f : PegBinding → PegBinding) : (s.updBindings l f).ckptSlot = s.ckptSlot := rfl
@[simp] theorem updBindings_insertions (s : State) (l : Nat) (f : PegBinding → PegBinding) : (s.updBindings l f).insertions = s.insertions := rfl
@[simp] theorem updBindings_holdReqs (s : State) (l : Nat) (f : PegBinding → PegBinding) : (s.updBindings l f).holdReqs = s.holdReqs := rfl
@[simp] theorem updBindings_holds (s : State) (l : Nat) (f : PegBinding → PegBinding) : (s.updBindings l f).holds = s.holds := rfl
@[simp] theorem updBindings_ckpt (s : State) (l : Nat) (f : PegBinding → PegBinding) : (s.updBindings l f).ckpt = s.ckpt := rfl
@[simp] theorem updBindings_ckptDone (s : State) (l : Nat) (f : PegBinding → PegBinding) : (s.updBindings l f).ckptDone = s.ckptDone := rfl
@[simp] theorem updBindings_ckptValid (s : State) (l : Nat) (f : PegBinding → PegBinding) : (s.updBindings l f).ckptValid = s.ckptValid := rfl
@[simp] theorem updBindings_ckptNew (s : State) (l : Nat) (f : PegBinding → PegBinding) : (s.updBindings l f).ckptNew = s.ckptNew := rfl
@[simp] theorem updBindings_headParts (s : State) (l : Nat) (f : PegBinding → PegBinding) : (s.updBindings l f).headParts = s.headParts := rfl
@[simp] theorem updBindings_rings (s : State) (l : Nat) (f : PegBinding → PegBinding) : (s.updBindings l f).rings = s.rings := rfl
@[simp] theorem updBindings_encs (s : State) (l : Nat) (f : PegBinding → PegBinding) : (s.updBindings l f).encs = s.encs := rfl
@[simp] theorem updBindings_links (s : State) (l : Nat) (f : PegBinding → PegBinding) : (s.updBindings l f).links = s.links := rfl
@[simp] theorem updBindings_trained (s : State) (l : Nat) (f : PegBinding → PegBinding) : (s.updBindings l f).trained = s.trained := rfl
@[simp] theorem updBindings_doorbell (s : State) (l : Nat) (f : PegBinding → PegBinding) : (s.updBindings l f).doorbell = s.doorbell := rfl
@[simp] theorem updBindings_power (s : State) (l : Nat) (f : PegBinding → PegBinding) : (s.updBindings l f).power = s.power := rfl
@[simp] theorem updBindings_clocks (s : State) (l : Nat) (f : PegBinding → PegBinding) : (s.updBindings l f).clocks = s.clocks := rfl
@[simp] theorem updBindings_halfRate (s : State) (l : Nat) (f : PegBinding → PegBinding) : (s.updBindings l f).halfRate = s.halfRate := rfl
@[simp] theorem updBindings_powerHold (s : State) (l : Nat) (f : PegBinding → PegBinding) : (s.updBindings l f).powerHold = s.powerHold := rfl
@[simp] theorem updBindings_below (s : State) (l : Nat) (f : PegBinding → PegBinding) : (s.updBindings l f).below = s.below := rfl
@[simp] theorem updBindings_missed (s : State) (l : Nat) (f : PegBinding → PegBinding) : (s.updBindings l f).missed = s.missed := rfl
@[simp] theorem updBindings_lost (s : State) (l : Nat) (f : PegBinding → PegBinding) : (s.updBindings l f).lost = s.lost := rfl
@[simp] theorem updBindings_ptp (s : State) (l : Nat) (f : PegBinding → PegBinding) : (s.updBindings l f).ptp = s.ptp := rfl
@[simp] theorem updBindings_ptpNext (s : State) (l : Nat) (f : PegBinding → PegBinding) : (s.updBindings l f).ptpNext = s.ptpNext := rfl
@[simp] theorem updBindings_launches (s : State) (l : Nat) (f : PegBinding → PegBinding) : (s.updBindings l f).launches = mupd l (fun x => { x with bindings := x.bindings.map f }) s.launches := rfl
@[simp] theorem updBindings_groups (s : State) (l : Nat) (f : PegBinding → PegBinding) : (s.updBindings l f).groups = s.groups := rfl
@[simp] theorem updBindings_parts (s : State) (l : Nat) (f : PegBinding → PegBinding) : (s.updBindings l f).parts = s.parts := rfl
@[simp] theorem updBindings_clusters (s : State) (l : Nat) (f : PegBinding → PegBinding) : (s.updBindings l f).clusters = s.clusters := rfl
@[simp] theorem updBindings_held (s : State) (l : Nat) (f : PegBinding → PegBinding) : (s.updBindings l f).held = s.held := rfl
@[simp] theorem updBindings_lfab (s : State) (l : Nat) (f : PegBinding → PegBinding) : (s.updBindings l f).lfab = s.lfab := rfl
@[simp] theorem updBindings_domSize (s : State) (l : Nat) (f : PegBinding → PegBinding) : (s.updBindings l f).domSize = s.domSize := rfl
@[simp] theorem updBindings_out (s : State) (l : Nat) (f : PegBinding → PegBinding) : (s.updBindings l f).out = s.out := rfl

/-! ### updWave -/

@[simp] theorem updWave_cyc (s : State) (g wi : Nat) (f : Wave → Wave) : (s.updWave g wi f).cyc = s.cyc := rfl
@[simp] theorem updWave_elapse (s : State) (g wi : Nat) (f : Wave → Wave) : (s.updWave g wi f).elapse = s.elapse := rfl
@[simp] theorem updWave_owed (s : State) (g wi : Nat) (f : Wave → Wave) : (s.updWave g wi f).owed = s.owed := rfl
@[simp] theorem updWave_hold (s : State) (g wi : Nat) (f : Wave → Wave) : (s.updWave g wi f).hold = s.hold := rfl
@[simp] theorem updWave_frozen (s : State) (g wi : Nat) (f : Wave → Wave) : (s.updWave g wi f).frozen = s.frozen := rfl
@[simp] theorem updWave_agenda (s : State) (g wi : Nat) (f : Wave → Wave) : (s.updWave g wi f).agenda = s.agenda := rfl
@[simp] theorem updWave_turn (s : State) (g wi : Nat) (f : Wave → Wave) : (s.updWave g wi f).turn = s.turn := rfl
@[simp] theorem updWave_sliceHeld (s : State) (g wi : Nat) (f : Wave → Wave) : (s.updWave g wi f).sliceHeld = s.sliceHeld := rfl
@[simp] theorem updWave_free (s : State) (g wi : Nat) (f : Wave → Wave) : (s.updWave g wi f).free = s.free := rfl
@[simp] theorem updWave_seq (s : State) (g wi : Nat) (f : Wave → Wave) : (s.updWave g wi f).seq = s.seq := rfl
@[simp] theorem updWave_mem (s : State) (g wi : Nat) (f : Wave → Wave) : (s.updWave g wi f).mem = s.mem := rfl
@[simp] theorem updWave_eccBad (s : State) (g wi : Nat) (f : Wave → Wave) : (s.updWave g wi f).eccBad = s.eccBad := rfl
@[simp] theorem updWave_injected (s : State) (g wi : Nat) (f : Wave → Wave) : (s.updWave g wi f).injected = s.injected := rfl
@[simp] theorem updWave_bar (s : State) (g wi : Nat) (f : Wave → Wave) : (s.updWave g wi f).bar = s.bar := rfl
@[simp] theorem updWave_bankBusy (s : State) (g wi : Nat) (f : Wave → Wave) : (s.updWave g wi f).bankBusy = s.bankBusy := rfl
@[simp] theorem updWave_bankIdle (s : State) (g wi : Nat) (f : Wave → Wave) : (s.updWave g wi f).bankIdle = s.bankIdle := rfl
@[simp] theorem updWave_bankAsleep (s : State) (g wi : Nat) (f : Wave → Wave) : (s.updWave g wi f).bankAsleep = s.bankAsleep := rfl
@[simp] theorem updWave_bankLast (s : State) (g wi : Nat) (f : Wave → Wave) : (s.updWave g wi f).bankLast = s.bankLast := rfl
@[simp] theorem updWave_writebacks (s : State) (g wi : Nat) (f : Wave → Wave) : (s.updWave g wi f).writebacks = s.writebacks := rfl
@[simp] theorem updWave_reqs (s : State) (g wi : Nat) (f : Wave → Wave) : (s.updWave g wi f).reqs = s.reqs := rfl
@[simp] theorem updWave_rels (s : State) (g wi : Nat) (f : Wave → Wave) : (s.updWave g wi f).rels = s.rels := rfl
@[simp] theorem updWave_lineKey (s : State) (g wi : Nat) (f : Wave → Wave) : (s.updWave g wi f).lineKey = s.lineKey := rfl
@[simp] theorem updWave_granKey (s : State) (g wi : Nat) (f : Wave → Wave) : (s.updWave g wi f).granKey = s.granKey := rfl
@[simp] theorem updWave_tlb (s : State) (g wi : Nat) (f : Wave → Wave) : (s.updWave g wi f).tlb = s.tlb := rfl
@[simp] theorem updWave_invals (s : State) (g wi : Nat) (f : Wave → Wave) : (s.updWave g wi f).invals = s.invals := rfl
@[simp] theorem updWave_scrubs (s : State) (g wi : Nat) (f : Wave → Wave) : (s.updWave g wi f).scrubs = s.scrubs := rfl
@[simp] theorem updWave_scrubStart (s : State) (g wi : Nat) (f : Wave → Wave) : (s.updWave g wi f).scrubStart = s.scrubStart := rfl
@[simp] theorem updWave_faultRecs (s : State) (g wi : Nat) (f : Wave → Wave) : (s.updWave g wi f).faultRecs = s.faultRecs := rfl
@[simp] theorem updWave_copies (s : State) (g wi : Nat) (f : Wave → Wave) : (s.updWave g wi f).copies = s.copies := rfl
@[simp] theorem updWave_replays (s : State) (g wi : Nat) (f : Wave → Wave) : (s.updWave g wi f).replays = s.replays := rfl
@[simp] theorem updWave_lastQueue (s : State) (g wi : Nat) (f : Wave → Wave) : (s.updWave g wi f).lastQueue = s.lastQueue := rfl
@[simp] theorem updWave_children (s : State) (g wi : Nat) (f : Wave → Wave) : (s.updWave g wi f).children = s.children := rfl
@[simp] theorem updWave_preempts (s : State) (g wi : Nat) (f : Wave → Wave) : (s.updWave g wi f).preempts = s.preempts := rfl
@[simp] theorem updWave_rays (s : State) (g wi : Nat) (f : Wave → Wave) : (s.updWave g wi f).rays = s.rays := rfl
@[simp] theorem updWave_windows (s : State) (g wi : Nat) (f : Wave → Wave) : (s.updWave g wi f).windows = s.windows := rfl
@[simp] theorem updWave_sends (s : State) (g wi : Nat) (f : Wave → Wave) : (s.updWave g wi f).sends = s.sends := rfl
@[simp] theorem updWave_dropSeen (s : State) (g wi : Nat) (f : Wave → Wave) : (s.updWave g wi f).dropSeen = s.dropSeen := rfl
@[simp] theorem updWave_dropPend (s : State) (g wi : Nat) (f : Wave → Wave) : (s.updWave g wi f).dropPend = s.dropPend := rfl
@[simp] theorem updWave_padded (s : State) (g wi : Nat) (f : Wave → Wave) : (s.updWave g wi f).padded = s.padded := rfl
@[simp] theorem updWave_inbox (s : State) (g wi : Nat) (f : Wave → Wave) : (s.updWave g wi f).inbox = s.inbox := rfl
@[simp] theorem updWave_portUsed (s : State) (g wi : Nat) (f : Wave → Wave) : (s.updWave g wi f).portUsed = s.portUsed := rfl
@[simp] theorem updWave_holdSince (s : State) (g wi : Nat) (f : Wave → Wave) : (s.updWave g wi f).holdSince = s.holdSince := rfl
@[simp] theorem updWave_abroad (s : State) (g wi : Nat) (f : Wave → Wave) : (s.updWave g wi f).abroad = s.abroad := rfl
@[simp] theorem updWave_tlb1 (s : State) (g wi : Nat) (f : Wave → Wave) : (s.updWave g wi f).tlb1 = s.tlb1 := rfl
@[simp] theorem updWave_ckptOut (s : State) (g wi : Nat) (f : Wave → Wave) : (s.updWave g wi f).ckptOut = s.ckptOut := rfl
@[simp] theorem updWave_ckptSlot (s : State) (g wi : Nat) (f : Wave → Wave) : (s.updWave g wi f).ckptSlot = s.ckptSlot := rfl
@[simp] theorem updWave_insertions (s : State) (g wi : Nat) (f : Wave → Wave) : (s.updWave g wi f).insertions = s.insertions := rfl
@[simp] theorem updWave_holdReqs (s : State) (g wi : Nat) (f : Wave → Wave) : (s.updWave g wi f).holdReqs = s.holdReqs := rfl
@[simp] theorem updWave_holds (s : State) (g wi : Nat) (f : Wave → Wave) : (s.updWave g wi f).holds = s.holds := rfl
@[simp] theorem updWave_ckpt (s : State) (g wi : Nat) (f : Wave → Wave) : (s.updWave g wi f).ckpt = s.ckpt := rfl
@[simp] theorem updWave_ckptDone (s : State) (g wi : Nat) (f : Wave → Wave) : (s.updWave g wi f).ckptDone = s.ckptDone := rfl
@[simp] theorem updWave_ckptValid (s : State) (g wi : Nat) (f : Wave → Wave) : (s.updWave g wi f).ckptValid = s.ckptValid := rfl
@[simp] theorem updWave_ckptNew (s : State) (g wi : Nat) (f : Wave → Wave) : (s.updWave g wi f).ckptNew = s.ckptNew := rfl
@[simp] theorem updWave_headParts (s : State) (g wi : Nat) (f : Wave → Wave) : (s.updWave g wi f).headParts = s.headParts := rfl
@[simp] theorem updWave_rings (s : State) (g wi : Nat) (f : Wave → Wave) : (s.updWave g wi f).rings = s.rings := rfl
@[simp] theorem updWave_encs (s : State) (g wi : Nat) (f : Wave → Wave) : (s.updWave g wi f).encs = s.encs := rfl
@[simp] theorem updWave_links (s : State) (g wi : Nat) (f : Wave → Wave) : (s.updWave g wi f).links = s.links := rfl
@[simp] theorem updWave_trained (s : State) (g wi : Nat) (f : Wave → Wave) : (s.updWave g wi f).trained = s.trained := rfl
@[simp] theorem updWave_doorbell (s : State) (g wi : Nat) (f : Wave → Wave) : (s.updWave g wi f).doorbell = s.doorbell := rfl
@[simp] theorem updWave_power (s : State) (g wi : Nat) (f : Wave → Wave) : (s.updWave g wi f).power = s.power := rfl
@[simp] theorem updWave_clocks (s : State) (g wi : Nat) (f : Wave → Wave) : (s.updWave g wi f).clocks = s.clocks := rfl
@[simp] theorem updWave_halfRate (s : State) (g wi : Nat) (f : Wave → Wave) : (s.updWave g wi f).halfRate = s.halfRate := rfl
@[simp] theorem updWave_powerHold (s : State) (g wi : Nat) (f : Wave → Wave) : (s.updWave g wi f).powerHold = s.powerHold := rfl
@[simp] theorem updWave_below (s : State) (g wi : Nat) (f : Wave → Wave) : (s.updWave g wi f).below = s.below := rfl
@[simp] theorem updWave_missed (s : State) (g wi : Nat) (f : Wave → Wave) : (s.updWave g wi f).missed = s.missed := rfl
@[simp] theorem updWave_lost (s : State) (g wi : Nat) (f : Wave → Wave) : (s.updWave g wi f).lost = s.lost := rfl
@[simp] theorem updWave_ptp (s : State) (g wi : Nat) (f : Wave → Wave) : (s.updWave g wi f).ptp = s.ptp := rfl
@[simp] theorem updWave_ptpNext (s : State) (g wi : Nat) (f : Wave → Wave) : (s.updWave g wi f).ptpNext = s.ptpNext := rfl
@[simp] theorem updWave_launches (s : State) (g wi : Nat) (f : Wave → Wave) : (s.updWave g wi f).launches = s.launches := rfl
@[simp] theorem updWave_groups (s : State) (g wi : Nat) (f : Wave → Wave) : (s.updWave g wi f).groups = mupd g (fun x => { x with waves := x.waves.modify wi f }) s.groups := rfl
@[simp] theorem updWave_parts (s : State) (g wi : Nat) (f : Wave → Wave) : (s.updWave g wi f).parts = s.parts := rfl
@[simp] theorem updWave_clusters (s : State) (g wi : Nat) (f : Wave → Wave) : (s.updWave g wi f).clusters = s.clusters := rfl
@[simp] theorem updWave_held (s : State) (g wi : Nat) (f : Wave → Wave) : (s.updWave g wi f).held = s.held := rfl
@[simp] theorem updWave_lfab (s : State) (g wi : Nat) (f : Wave → Wave) : (s.updWave g wi f).lfab = s.lfab := rfl
@[simp] theorem updWave_domSize (s : State) (g wi : Nat) (f : Wave → Wave) : (s.updWave g wi f).domSize = s.domSize := rfl
@[simp] theorem updWave_out (s : State) (g wi : Nat) (f : Wave → Wave) : (s.updWave g wi f).out = s.out := rfl

/-! ### setWave -/

@[simp] theorem setWave_cyc (s : State) (g wi : Nat) (w : Wave) : (s.setWave g wi w).cyc = s.cyc := rfl
@[simp] theorem setWave_elapse (s : State) (g wi : Nat) (w : Wave) : (s.setWave g wi w).elapse = s.elapse := rfl
@[simp] theorem setWave_owed (s : State) (g wi : Nat) (w : Wave) : (s.setWave g wi w).owed = s.owed := rfl
@[simp] theorem setWave_hold (s : State) (g wi : Nat) (w : Wave) : (s.setWave g wi w).hold = s.hold := rfl
@[simp] theorem setWave_frozen (s : State) (g wi : Nat) (w : Wave) : (s.setWave g wi w).frozen = s.frozen := rfl
@[simp] theorem setWave_agenda (s : State) (g wi : Nat) (w : Wave) : (s.setWave g wi w).agenda = s.agenda := rfl
@[simp] theorem setWave_turn (s : State) (g wi : Nat) (w : Wave) : (s.setWave g wi w).turn = s.turn := rfl
@[simp] theorem setWave_sliceHeld (s : State) (g wi : Nat) (w : Wave) : (s.setWave g wi w).sliceHeld = s.sliceHeld := rfl
@[simp] theorem setWave_free (s : State) (g wi : Nat) (w : Wave) : (s.setWave g wi w).free = s.free := rfl
@[simp] theorem setWave_seq (s : State) (g wi : Nat) (w : Wave) : (s.setWave g wi w).seq = s.seq := rfl
@[simp] theorem setWave_mem (s : State) (g wi : Nat) (w : Wave) : (s.setWave g wi w).mem = s.mem := rfl
@[simp] theorem setWave_eccBad (s : State) (g wi : Nat) (w : Wave) : (s.setWave g wi w).eccBad = s.eccBad := rfl
@[simp] theorem setWave_injected (s : State) (g wi : Nat) (w : Wave) : (s.setWave g wi w).injected = s.injected := rfl
@[simp] theorem setWave_bar (s : State) (g wi : Nat) (w : Wave) : (s.setWave g wi w).bar = s.bar := rfl
@[simp] theorem setWave_bankBusy (s : State) (g wi : Nat) (w : Wave) : (s.setWave g wi w).bankBusy = s.bankBusy := rfl
@[simp] theorem setWave_bankIdle (s : State) (g wi : Nat) (w : Wave) : (s.setWave g wi w).bankIdle = s.bankIdle := rfl
@[simp] theorem setWave_bankAsleep (s : State) (g wi : Nat) (w : Wave) : (s.setWave g wi w).bankAsleep = s.bankAsleep := rfl
@[simp] theorem setWave_bankLast (s : State) (g wi : Nat) (w : Wave) : (s.setWave g wi w).bankLast = s.bankLast := rfl
@[simp] theorem setWave_writebacks (s : State) (g wi : Nat) (w : Wave) : (s.setWave g wi w).writebacks = s.writebacks := rfl
@[simp] theorem setWave_reqs (s : State) (g wi : Nat) (w : Wave) : (s.setWave g wi w).reqs = s.reqs := rfl
@[simp] theorem setWave_rels (s : State) (g wi : Nat) (w : Wave) : (s.setWave g wi w).rels = s.rels := rfl
@[simp] theorem setWave_lineKey (s : State) (g wi : Nat) (w : Wave) : (s.setWave g wi w).lineKey = s.lineKey := rfl
@[simp] theorem setWave_granKey (s : State) (g wi : Nat) (w : Wave) : (s.setWave g wi w).granKey = s.granKey := rfl
@[simp] theorem setWave_tlb (s : State) (g wi : Nat) (w : Wave) : (s.setWave g wi w).tlb = s.tlb := rfl
@[simp] theorem setWave_invals (s : State) (g wi : Nat) (w : Wave) : (s.setWave g wi w).invals = s.invals := rfl
@[simp] theorem setWave_scrubs (s : State) (g wi : Nat) (w : Wave) : (s.setWave g wi w).scrubs = s.scrubs := rfl
@[simp] theorem setWave_scrubStart (s : State) (g wi : Nat) (w : Wave) : (s.setWave g wi w).scrubStart = s.scrubStart := rfl
@[simp] theorem setWave_faultRecs (s : State) (g wi : Nat) (w : Wave) : (s.setWave g wi w).faultRecs = s.faultRecs := rfl
@[simp] theorem setWave_copies (s : State) (g wi : Nat) (w : Wave) : (s.setWave g wi w).copies = s.copies := rfl
@[simp] theorem setWave_replays (s : State) (g wi : Nat) (w : Wave) : (s.setWave g wi w).replays = s.replays := rfl
@[simp] theorem setWave_lastQueue (s : State) (g wi : Nat) (w : Wave) : (s.setWave g wi w).lastQueue = s.lastQueue := rfl
@[simp] theorem setWave_children (s : State) (g wi : Nat) (w : Wave) : (s.setWave g wi w).children = s.children := rfl
@[simp] theorem setWave_preempts (s : State) (g wi : Nat) (w : Wave) : (s.setWave g wi w).preempts = s.preempts := rfl
@[simp] theorem setWave_rays (s : State) (g wi : Nat) (w : Wave) : (s.setWave g wi w).rays = s.rays := rfl
@[simp] theorem setWave_windows (s : State) (g wi : Nat) (w : Wave) : (s.setWave g wi w).windows = s.windows := rfl
@[simp] theorem setWave_sends (s : State) (g wi : Nat) (w : Wave) : (s.setWave g wi w).sends = s.sends := rfl
@[simp] theorem setWave_dropSeen (s : State) (g wi : Nat) (w : Wave) : (s.setWave g wi w).dropSeen = s.dropSeen := rfl
@[simp] theorem setWave_dropPend (s : State) (g wi : Nat) (w : Wave) : (s.setWave g wi w).dropPend = s.dropPend := rfl
@[simp] theorem setWave_padded (s : State) (g wi : Nat) (w : Wave) : (s.setWave g wi w).padded = s.padded := rfl
@[simp] theorem setWave_inbox (s : State) (g wi : Nat) (w : Wave) : (s.setWave g wi w).inbox = s.inbox := rfl
@[simp] theorem setWave_portUsed (s : State) (g wi : Nat) (w : Wave) : (s.setWave g wi w).portUsed = s.portUsed := rfl
@[simp] theorem setWave_holdSince (s : State) (g wi : Nat) (w : Wave) : (s.setWave g wi w).holdSince = s.holdSince := rfl
@[simp] theorem setWave_abroad (s : State) (g wi : Nat) (w : Wave) : (s.setWave g wi w).abroad = s.abroad := rfl
@[simp] theorem setWave_tlb1 (s : State) (g wi : Nat) (w : Wave) : (s.setWave g wi w).tlb1 = s.tlb1 := rfl
@[simp] theorem setWave_ckptOut (s : State) (g wi : Nat) (w : Wave) : (s.setWave g wi w).ckptOut = s.ckptOut := rfl
@[simp] theorem setWave_ckptSlot (s : State) (g wi : Nat) (w : Wave) : (s.setWave g wi w).ckptSlot = s.ckptSlot := rfl
@[simp] theorem setWave_insertions (s : State) (g wi : Nat) (w : Wave) : (s.setWave g wi w).insertions = s.insertions := rfl
@[simp] theorem setWave_holdReqs (s : State) (g wi : Nat) (w : Wave) : (s.setWave g wi w).holdReqs = s.holdReqs := rfl
@[simp] theorem setWave_holds (s : State) (g wi : Nat) (w : Wave) : (s.setWave g wi w).holds = s.holds := rfl
@[simp] theorem setWave_ckpt (s : State) (g wi : Nat) (w : Wave) : (s.setWave g wi w).ckpt = s.ckpt := rfl
@[simp] theorem setWave_ckptDone (s : State) (g wi : Nat) (w : Wave) : (s.setWave g wi w).ckptDone = s.ckptDone := rfl
@[simp] theorem setWave_ckptValid (s : State) (g wi : Nat) (w : Wave) : (s.setWave g wi w).ckptValid = s.ckptValid := rfl
@[simp] theorem setWave_ckptNew (s : State) (g wi : Nat) (w : Wave) : (s.setWave g wi w).ckptNew = s.ckptNew := rfl
@[simp] theorem setWave_headParts (s : State) (g wi : Nat) (w : Wave) : (s.setWave g wi w).headParts = s.headParts := rfl
@[simp] theorem setWave_rings (s : State) (g wi : Nat) (w : Wave) : (s.setWave g wi w).rings = s.rings := rfl
@[simp] theorem setWave_encs (s : State) (g wi : Nat) (w : Wave) : (s.setWave g wi w).encs = s.encs := rfl
@[simp] theorem setWave_links (s : State) (g wi : Nat) (w : Wave) : (s.setWave g wi w).links = s.links := rfl
@[simp] theorem setWave_trained (s : State) (g wi : Nat) (w : Wave) : (s.setWave g wi w).trained = s.trained := rfl
@[simp] theorem setWave_doorbell (s : State) (g wi : Nat) (w : Wave) : (s.setWave g wi w).doorbell = s.doorbell := rfl
@[simp] theorem setWave_power (s : State) (g wi : Nat) (w : Wave) : (s.setWave g wi w).power = s.power := rfl
@[simp] theorem setWave_clocks (s : State) (g wi : Nat) (w : Wave) : (s.setWave g wi w).clocks = s.clocks := rfl
@[simp] theorem setWave_halfRate (s : State) (g wi : Nat) (w : Wave) : (s.setWave g wi w).halfRate = s.halfRate := rfl
@[simp] theorem setWave_powerHold (s : State) (g wi : Nat) (w : Wave) : (s.setWave g wi w).powerHold = s.powerHold := rfl
@[simp] theorem setWave_below (s : State) (g wi : Nat) (w : Wave) : (s.setWave g wi w).below = s.below := rfl
@[simp] theorem setWave_missed (s : State) (g wi : Nat) (w : Wave) : (s.setWave g wi w).missed = s.missed := rfl
@[simp] theorem setWave_lost (s : State) (g wi : Nat) (w : Wave) : (s.setWave g wi w).lost = s.lost := rfl
@[simp] theorem setWave_ptp (s : State) (g wi : Nat) (w : Wave) : (s.setWave g wi w).ptp = s.ptp := rfl
@[simp] theorem setWave_ptpNext (s : State) (g wi : Nat) (w : Wave) : (s.setWave g wi w).ptpNext = s.ptpNext := rfl
@[simp] theorem setWave_launches (s : State) (g wi : Nat) (w : Wave) : (s.setWave g wi w).launches = s.launches := rfl
@[simp] theorem setWave_groups (s : State) (g wi : Nat) (w : Wave) : (s.setWave g wi w).groups = mupd g (fun x => { x with waves := x.waves.modify wi fun _ => w }) s.groups := rfl
@[simp] theorem setWave_parts (s : State) (g wi : Nat) (w : Wave) : (s.setWave g wi w).parts = s.parts := rfl
@[simp] theorem setWave_clusters (s : State) (g wi : Nat) (w : Wave) : (s.setWave g wi w).clusters = s.clusters := rfl
@[simp] theorem setWave_held (s : State) (g wi : Nat) (w : Wave) : (s.setWave g wi w).held = s.held := rfl
@[simp] theorem setWave_lfab (s : State) (g wi : Nat) (w : Wave) : (s.setWave g wi w).lfab = s.lfab := rfl
@[simp] theorem setWave_domSize (s : State) (g wi : Nat) (w : Wave) : (s.setWave g wi w).domSize = s.domSize := rfl
@[simp] theorem setWave_out (s : State) (g wi : Nat) (w : Wave) : (s.setWave g wi w).out = s.out := rfl

/-! ### setCluster -/

@[simp] theorem setCluster_cyc (s : State) (c : Nat) (x : Cluster) : (s.setCluster c x).cyc = s.cyc := rfl
@[simp] theorem setCluster_elapse (s : State) (c : Nat) (x : Cluster) : (s.setCluster c x).elapse = s.elapse := rfl
@[simp] theorem setCluster_owed (s : State) (c : Nat) (x : Cluster) : (s.setCluster c x).owed = s.owed := rfl
@[simp] theorem setCluster_hold (s : State) (c : Nat) (x : Cluster) : (s.setCluster c x).hold = s.hold := rfl
@[simp] theorem setCluster_frozen (s : State) (c : Nat) (x : Cluster) : (s.setCluster c x).frozen = s.frozen := rfl
@[simp] theorem setCluster_agenda (s : State) (c : Nat) (x : Cluster) : (s.setCluster c x).agenda = s.agenda := rfl
@[simp] theorem setCluster_turn (s : State) (c : Nat) (x : Cluster) : (s.setCluster c x).turn = s.turn := rfl
@[simp] theorem setCluster_sliceHeld (s : State) (c : Nat) (x : Cluster) : (s.setCluster c x).sliceHeld = s.sliceHeld := rfl
@[simp] theorem setCluster_free (s : State) (c : Nat) (x : Cluster) : (s.setCluster c x).free = s.free := rfl
@[simp] theorem setCluster_seq (s : State) (c : Nat) (x : Cluster) : (s.setCluster c x).seq = s.seq := rfl
@[simp] theorem setCluster_mem (s : State) (c : Nat) (x : Cluster) : (s.setCluster c x).mem = s.mem := rfl
@[simp] theorem setCluster_eccBad (s : State) (c : Nat) (x : Cluster) : (s.setCluster c x).eccBad = s.eccBad := rfl
@[simp] theorem setCluster_injected (s : State) (c : Nat) (x : Cluster) : (s.setCluster c x).injected = s.injected := rfl
@[simp] theorem setCluster_bar (s : State) (c : Nat) (x : Cluster) : (s.setCluster c x).bar = s.bar := rfl
@[simp] theorem setCluster_bankBusy (s : State) (c : Nat) (x : Cluster) : (s.setCluster c x).bankBusy = s.bankBusy := rfl
@[simp] theorem setCluster_bankIdle (s : State) (c : Nat) (x : Cluster) : (s.setCluster c x).bankIdle = s.bankIdle := rfl
@[simp] theorem setCluster_bankAsleep (s : State) (c : Nat) (x : Cluster) : (s.setCluster c x).bankAsleep = s.bankAsleep := rfl
@[simp] theorem setCluster_bankLast (s : State) (c : Nat) (x : Cluster) : (s.setCluster c x).bankLast = s.bankLast := rfl
@[simp] theorem setCluster_writebacks (s : State) (c : Nat) (x : Cluster) : (s.setCluster c x).writebacks = s.writebacks := rfl
@[simp] theorem setCluster_reqs (s : State) (c : Nat) (x : Cluster) : (s.setCluster c x).reqs = s.reqs := rfl
@[simp] theorem setCluster_rels (s : State) (c : Nat) (x : Cluster) : (s.setCluster c x).rels = s.rels := rfl
@[simp] theorem setCluster_lineKey (s : State) (c : Nat) (x : Cluster) : (s.setCluster c x).lineKey = s.lineKey := rfl
@[simp] theorem setCluster_granKey (s : State) (c : Nat) (x : Cluster) : (s.setCluster c x).granKey = s.granKey := rfl
@[simp] theorem setCluster_tlb (s : State) (c : Nat) (x : Cluster) : (s.setCluster c x).tlb = s.tlb := rfl
@[simp] theorem setCluster_invals (s : State) (c : Nat) (x : Cluster) : (s.setCluster c x).invals = s.invals := rfl
@[simp] theorem setCluster_scrubs (s : State) (c : Nat) (x : Cluster) : (s.setCluster c x).scrubs = s.scrubs := rfl
@[simp] theorem setCluster_scrubStart (s : State) (c : Nat) (x : Cluster) : (s.setCluster c x).scrubStart = s.scrubStart := rfl
@[simp] theorem setCluster_faultRecs (s : State) (c : Nat) (x : Cluster) : (s.setCluster c x).faultRecs = s.faultRecs := rfl
@[simp] theorem setCluster_copies (s : State) (c : Nat) (x : Cluster) : (s.setCluster c x).copies = s.copies := rfl
@[simp] theorem setCluster_replays (s : State) (c : Nat) (x : Cluster) : (s.setCluster c x).replays = s.replays := rfl
@[simp] theorem setCluster_lastQueue (s : State) (c : Nat) (x : Cluster) : (s.setCluster c x).lastQueue = s.lastQueue := rfl
@[simp] theorem setCluster_children (s : State) (c : Nat) (x : Cluster) : (s.setCluster c x).children = s.children := rfl
@[simp] theorem setCluster_preempts (s : State) (c : Nat) (x : Cluster) : (s.setCluster c x).preempts = s.preempts := rfl
@[simp] theorem setCluster_rays (s : State) (c : Nat) (x : Cluster) : (s.setCluster c x).rays = s.rays := rfl
@[simp] theorem setCluster_windows (s : State) (c : Nat) (x : Cluster) : (s.setCluster c x).windows = s.windows := rfl
@[simp] theorem setCluster_sends (s : State) (c : Nat) (x : Cluster) : (s.setCluster c x).sends = s.sends := rfl
@[simp] theorem setCluster_dropSeen (s : State) (c : Nat) (x : Cluster) : (s.setCluster c x).dropSeen = s.dropSeen := rfl
@[simp] theorem setCluster_dropPend (s : State) (c : Nat) (x : Cluster) : (s.setCluster c x).dropPend = s.dropPend := rfl
@[simp] theorem setCluster_padded (s : State) (c : Nat) (x : Cluster) : (s.setCluster c x).padded = s.padded := rfl
@[simp] theorem setCluster_inbox (s : State) (c : Nat) (x : Cluster) : (s.setCluster c x).inbox = s.inbox := rfl
@[simp] theorem setCluster_portUsed (s : State) (c : Nat) (x : Cluster) : (s.setCluster c x).portUsed = s.portUsed := rfl
@[simp] theorem setCluster_holdSince (s : State) (c : Nat) (x : Cluster) : (s.setCluster c x).holdSince = s.holdSince := rfl
@[simp] theorem setCluster_abroad (s : State) (c : Nat) (x : Cluster) : (s.setCluster c x).abroad = s.abroad := rfl
@[simp] theorem setCluster_tlb1 (s : State) (c : Nat) (x : Cluster) : (s.setCluster c x).tlb1 = s.tlb1 := rfl
@[simp] theorem setCluster_ckptOut (s : State) (c : Nat) (x : Cluster) : (s.setCluster c x).ckptOut = s.ckptOut := rfl
@[simp] theorem setCluster_ckptSlot (s : State) (c : Nat) (x : Cluster) : (s.setCluster c x).ckptSlot = s.ckptSlot := rfl
@[simp] theorem setCluster_insertions (s : State) (c : Nat) (x : Cluster) : (s.setCluster c x).insertions = s.insertions := rfl
@[simp] theorem setCluster_holdReqs (s : State) (c : Nat) (x : Cluster) : (s.setCluster c x).holdReqs = s.holdReqs := rfl
@[simp] theorem setCluster_holds (s : State) (c : Nat) (x : Cluster) : (s.setCluster c x).holds = s.holds := rfl
@[simp] theorem setCluster_ckpt (s : State) (c : Nat) (x : Cluster) : (s.setCluster c x).ckpt = s.ckpt := rfl
@[simp] theorem setCluster_ckptDone (s : State) (c : Nat) (x : Cluster) : (s.setCluster c x).ckptDone = s.ckptDone := rfl
@[simp] theorem setCluster_ckptValid (s : State) (c : Nat) (x : Cluster) : (s.setCluster c x).ckptValid = s.ckptValid := rfl
@[simp] theorem setCluster_ckptNew (s : State) (c : Nat) (x : Cluster) : (s.setCluster c x).ckptNew = s.ckptNew := rfl
@[simp] theorem setCluster_headParts (s : State) (c : Nat) (x : Cluster) : (s.setCluster c x).headParts = s.headParts := rfl
@[simp] theorem setCluster_rings (s : State) (c : Nat) (x : Cluster) : (s.setCluster c x).rings = s.rings := rfl
@[simp] theorem setCluster_encs (s : State) (c : Nat) (x : Cluster) : (s.setCluster c x).encs = s.encs := rfl
@[simp] theorem setCluster_links (s : State) (c : Nat) (x : Cluster) : (s.setCluster c x).links = s.links := rfl
@[simp] theorem setCluster_trained (s : State) (c : Nat) (x : Cluster) : (s.setCluster c x).trained = s.trained := rfl
@[simp] theorem setCluster_doorbell (s : State) (c : Nat) (x : Cluster) : (s.setCluster c x).doorbell = s.doorbell := rfl
@[simp] theorem setCluster_power (s : State) (c : Nat) (x : Cluster) : (s.setCluster c x).power = s.power := rfl
@[simp] theorem setCluster_clocks (s : State) (c : Nat) (x : Cluster) : (s.setCluster c x).clocks = s.clocks := rfl
@[simp] theorem setCluster_halfRate (s : State) (c : Nat) (x : Cluster) : (s.setCluster c x).halfRate = s.halfRate := rfl
@[simp] theorem setCluster_powerHold (s : State) (c : Nat) (x : Cluster) : (s.setCluster c x).powerHold = s.powerHold := rfl
@[simp] theorem setCluster_below (s : State) (c : Nat) (x : Cluster) : (s.setCluster c x).below = s.below := rfl
@[simp] theorem setCluster_missed (s : State) (c : Nat) (x : Cluster) : (s.setCluster c x).missed = s.missed := rfl
@[simp] theorem setCluster_lost (s : State) (c : Nat) (x : Cluster) : (s.setCluster c x).lost = s.lost := rfl
@[simp] theorem setCluster_ptp (s : State) (c : Nat) (x : Cluster) : (s.setCluster c x).ptp = s.ptp := rfl
@[simp] theorem setCluster_ptpNext (s : State) (c : Nat) (x : Cluster) : (s.setCluster c x).ptpNext = s.ptpNext := rfl
@[simp] theorem setCluster_launches (s : State) (c : Nat) (x : Cluster) : (s.setCluster c x).launches = s.launches := rfl
@[simp] theorem setCluster_groups (s : State) (c : Nat) (x : Cluster) : (s.setCluster c x).groups = s.groups := rfl
@[simp] theorem setCluster_parts (s : State) (c : Nat) (x : Cluster) : (s.setCluster c x).parts = s.parts := rfl
@[simp] theorem setCluster_clusters (s : State) (c : Nat) (x : Cluster) : (s.setCluster c x).clusters = mset c x s.clusters := rfl
@[simp] theorem setCluster_held (s : State) (c : Nat) (x : Cluster) : (s.setCluster c x).held = s.held := rfl
@[simp] theorem setCluster_lfab (s : State) (c : Nat) (x : Cluster) : (s.setCluster c x).lfab = s.lfab := rfl
@[simp] theorem setCluster_domSize (s : State) (c : Nat) (x : Cluster) : (s.setCluster c x).domSize = s.domSize := rfl
@[simp] theorem setCluster_out (s : State) (c : Nat) (x : Cluster) : (s.setCluster c x).out = s.out := rfl

/-! ### setPart -/

@[simp] theorem setPart_cyc (s : State) (p : Nat) (x : Part) : (s.setPart p x).cyc = s.cyc := rfl
@[simp] theorem setPart_elapse (s : State) (p : Nat) (x : Part) : (s.setPart p x).elapse = s.elapse := rfl
@[simp] theorem setPart_owed (s : State) (p : Nat) (x : Part) : (s.setPart p x).owed = s.owed := rfl
@[simp] theorem setPart_hold (s : State) (p : Nat) (x : Part) : (s.setPart p x).hold = s.hold := rfl
@[simp] theorem setPart_frozen (s : State) (p : Nat) (x : Part) : (s.setPart p x).frozen = s.frozen := rfl
@[simp] theorem setPart_agenda (s : State) (p : Nat) (x : Part) : (s.setPart p x).agenda = s.agenda := rfl
@[simp] theorem setPart_turn (s : State) (p : Nat) (x : Part) : (s.setPart p x).turn = s.turn := rfl
@[simp] theorem setPart_sliceHeld (s : State) (p : Nat) (x : Part) : (s.setPart p x).sliceHeld = s.sliceHeld := rfl
@[simp] theorem setPart_free (s : State) (p : Nat) (x : Part) : (s.setPart p x).free = s.free := rfl
@[simp] theorem setPart_seq (s : State) (p : Nat) (x : Part) : (s.setPart p x).seq = s.seq := rfl
@[simp] theorem setPart_mem (s : State) (p : Nat) (x : Part) : (s.setPart p x).mem = s.mem := rfl
@[simp] theorem setPart_eccBad (s : State) (p : Nat) (x : Part) : (s.setPart p x).eccBad = s.eccBad := rfl
@[simp] theorem setPart_injected (s : State) (p : Nat) (x : Part) : (s.setPart p x).injected = s.injected := rfl
@[simp] theorem setPart_bar (s : State) (p : Nat) (x : Part) : (s.setPart p x).bar = s.bar := rfl
@[simp] theorem setPart_bankBusy (s : State) (p : Nat) (x : Part) : (s.setPart p x).bankBusy = s.bankBusy := rfl
@[simp] theorem setPart_bankIdle (s : State) (p : Nat) (x : Part) : (s.setPart p x).bankIdle = s.bankIdle := rfl
@[simp] theorem setPart_bankAsleep (s : State) (p : Nat) (x : Part) : (s.setPart p x).bankAsleep = s.bankAsleep := rfl
@[simp] theorem setPart_bankLast (s : State) (p : Nat) (x : Part) : (s.setPart p x).bankLast = s.bankLast := rfl
@[simp] theorem setPart_writebacks (s : State) (p : Nat) (x : Part) : (s.setPart p x).writebacks = s.writebacks := rfl
@[simp] theorem setPart_reqs (s : State) (p : Nat) (x : Part) : (s.setPart p x).reqs = s.reqs := rfl
@[simp] theorem setPart_rels (s : State) (p : Nat) (x : Part) : (s.setPart p x).rels = s.rels := rfl
@[simp] theorem setPart_lineKey (s : State) (p : Nat) (x : Part) : (s.setPart p x).lineKey = s.lineKey := rfl
@[simp] theorem setPart_granKey (s : State) (p : Nat) (x : Part) : (s.setPart p x).granKey = s.granKey := rfl
@[simp] theorem setPart_tlb (s : State) (p : Nat) (x : Part) : (s.setPart p x).tlb = s.tlb := rfl
@[simp] theorem setPart_invals (s : State) (p : Nat) (x : Part) : (s.setPart p x).invals = s.invals := rfl
@[simp] theorem setPart_scrubs (s : State) (p : Nat) (x : Part) : (s.setPart p x).scrubs = s.scrubs := rfl
@[simp] theorem setPart_scrubStart (s : State) (p : Nat) (x : Part) : (s.setPart p x).scrubStart = s.scrubStart := rfl
@[simp] theorem setPart_faultRecs (s : State) (p : Nat) (x : Part) : (s.setPart p x).faultRecs = s.faultRecs := rfl
@[simp] theorem setPart_copies (s : State) (p : Nat) (x : Part) : (s.setPart p x).copies = s.copies := rfl
@[simp] theorem setPart_replays (s : State) (p : Nat) (x : Part) : (s.setPart p x).replays = s.replays := rfl
@[simp] theorem setPart_lastQueue (s : State) (p : Nat) (x : Part) : (s.setPart p x).lastQueue = s.lastQueue := rfl
@[simp] theorem setPart_children (s : State) (p : Nat) (x : Part) : (s.setPart p x).children = s.children := rfl
@[simp] theorem setPart_preempts (s : State) (p : Nat) (x : Part) : (s.setPart p x).preempts = s.preempts := rfl
@[simp] theorem setPart_rays (s : State) (p : Nat) (x : Part) : (s.setPart p x).rays = s.rays := rfl
@[simp] theorem setPart_windows (s : State) (p : Nat) (x : Part) : (s.setPart p x).windows = s.windows := rfl
@[simp] theorem setPart_sends (s : State) (p : Nat) (x : Part) : (s.setPart p x).sends = s.sends := rfl
@[simp] theorem setPart_dropSeen (s : State) (p : Nat) (x : Part) : (s.setPart p x).dropSeen = s.dropSeen := rfl
@[simp] theorem setPart_dropPend (s : State) (p : Nat) (x : Part) : (s.setPart p x).dropPend = s.dropPend := rfl
@[simp] theorem setPart_padded (s : State) (p : Nat) (x : Part) : (s.setPart p x).padded = s.padded := rfl
@[simp] theorem setPart_inbox (s : State) (p : Nat) (x : Part) : (s.setPart p x).inbox = s.inbox := rfl
@[simp] theorem setPart_portUsed (s : State) (p : Nat) (x : Part) : (s.setPart p x).portUsed = s.portUsed := rfl
@[simp] theorem setPart_holdSince (s : State) (p : Nat) (x : Part) : (s.setPart p x).holdSince = s.holdSince := rfl
@[simp] theorem setPart_abroad (s : State) (p : Nat) (x : Part) : (s.setPart p x).abroad = s.abroad := rfl
@[simp] theorem setPart_tlb1 (s : State) (p : Nat) (x : Part) : (s.setPart p x).tlb1 = s.tlb1 := rfl
@[simp] theorem setPart_ckptOut (s : State) (p : Nat) (x : Part) : (s.setPart p x).ckptOut = s.ckptOut := rfl
@[simp] theorem setPart_ckptSlot (s : State) (p : Nat) (x : Part) : (s.setPart p x).ckptSlot = s.ckptSlot := rfl
@[simp] theorem setPart_insertions (s : State) (p : Nat) (x : Part) : (s.setPart p x).insertions = s.insertions := rfl
@[simp] theorem setPart_holdReqs (s : State) (p : Nat) (x : Part) : (s.setPart p x).holdReqs = s.holdReqs := rfl
@[simp] theorem setPart_holds (s : State) (p : Nat) (x : Part) : (s.setPart p x).holds = s.holds := rfl
@[simp] theorem setPart_ckpt (s : State) (p : Nat) (x : Part) : (s.setPart p x).ckpt = s.ckpt := rfl
@[simp] theorem setPart_ckptDone (s : State) (p : Nat) (x : Part) : (s.setPart p x).ckptDone = s.ckptDone := rfl
@[simp] theorem setPart_ckptValid (s : State) (p : Nat) (x : Part) : (s.setPart p x).ckptValid = s.ckptValid := rfl
@[simp] theorem setPart_ckptNew (s : State) (p : Nat) (x : Part) : (s.setPart p x).ckptNew = s.ckptNew := rfl
@[simp] theorem setPart_headParts (s : State) (p : Nat) (x : Part) : (s.setPart p x).headParts = s.headParts := rfl
@[simp] theorem setPart_rings (s : State) (p : Nat) (x : Part) : (s.setPart p x).rings = s.rings := rfl
@[simp] theorem setPart_encs (s : State) (p : Nat) (x : Part) : (s.setPart p x).encs = s.encs := rfl
@[simp] theorem setPart_links (s : State) (p : Nat) (x : Part) : (s.setPart p x).links = s.links := rfl
@[simp] theorem setPart_trained (s : State) (p : Nat) (x : Part) : (s.setPart p x).trained = s.trained := rfl
@[simp] theorem setPart_doorbell (s : State) (p : Nat) (x : Part) : (s.setPart p x).doorbell = s.doorbell := rfl
@[simp] theorem setPart_power (s : State) (p : Nat) (x : Part) : (s.setPart p x).power = s.power := rfl
@[simp] theorem setPart_clocks (s : State) (p : Nat) (x : Part) : (s.setPart p x).clocks = s.clocks := rfl
@[simp] theorem setPart_halfRate (s : State) (p : Nat) (x : Part) : (s.setPart p x).halfRate = s.halfRate := rfl
@[simp] theorem setPart_powerHold (s : State) (p : Nat) (x : Part) : (s.setPart p x).powerHold = s.powerHold := rfl
@[simp] theorem setPart_below (s : State) (p : Nat) (x : Part) : (s.setPart p x).below = s.below := rfl
@[simp] theorem setPart_missed (s : State) (p : Nat) (x : Part) : (s.setPart p x).missed = s.missed := rfl
@[simp] theorem setPart_lost (s : State) (p : Nat) (x : Part) : (s.setPart p x).lost = s.lost := rfl
@[simp] theorem setPart_ptp (s : State) (p : Nat) (x : Part) : (s.setPart p x).ptp = s.ptp := rfl
@[simp] theorem setPart_ptpNext (s : State) (p : Nat) (x : Part) : (s.setPart p x).ptpNext = s.ptpNext := rfl
@[simp] theorem setPart_launches (s : State) (p : Nat) (x : Part) : (s.setPart p x).launches = s.launches := rfl
@[simp] theorem setPart_groups (s : State) (p : Nat) (x : Part) : (s.setPart p x).groups = s.groups := rfl
@[simp] theorem setPart_parts (s : State) (p : Nat) (x : Part) : (s.setPart p x).parts = mset p x s.parts := rfl
@[simp] theorem setPart_clusters (s : State) (p : Nat) (x : Part) : (s.setPart p x).clusters = s.clusters := rfl
@[simp] theorem setPart_held (s : State) (p : Nat) (x : Part) : (s.setPart p x).held = s.held := rfl
@[simp] theorem setPart_lfab (s : State) (p : Nat) (x : Part) : (s.setPart p x).lfab = s.lfab := rfl
@[simp] theorem setPart_domSize (s : State) (p : Nat) (x : Part) : (s.setPart p x).domSize = s.domSize := rfl
@[simp] theorem setPart_out (s : State) (p : Nat) (x : Part) : (s.setPart p x).out = s.out := rfl

/-! ### setBar -/

@[simp] theorem setBar_cyc (s : State) (off hi lo v : Nat) : (s.setBar off hi lo v).cyc = s.cyc := rfl
@[simp] theorem setBar_elapse (s : State) (off hi lo v : Nat) : (s.setBar off hi lo v).elapse = s.elapse := rfl
@[simp] theorem setBar_owed (s : State) (off hi lo v : Nat) : (s.setBar off hi lo v).owed = s.owed := rfl
@[simp] theorem setBar_hold (s : State) (off hi lo v : Nat) : (s.setBar off hi lo v).hold = s.hold := rfl
@[simp] theorem setBar_frozen (s : State) (off hi lo v : Nat) : (s.setBar off hi lo v).frozen = s.frozen := rfl
@[simp] theorem setBar_agenda (s : State) (off hi lo v : Nat) : (s.setBar off hi lo v).agenda = s.agenda := rfl
@[simp] theorem setBar_turn (s : State) (off hi lo v : Nat) : (s.setBar off hi lo v).turn = s.turn := rfl
@[simp] theorem setBar_sliceHeld (s : State) (off hi lo v : Nat) : (s.setBar off hi lo v).sliceHeld = s.sliceHeld := rfl
@[simp] theorem setBar_free (s : State) (off hi lo v : Nat) : (s.setBar off hi lo v).free = s.free := rfl
@[simp] theorem setBar_seq (s : State) (off hi lo v : Nat) : (s.setBar off hi lo v).seq = s.seq := rfl
@[simp] theorem setBar_mem (s : State) (off hi lo v : Nat) : (s.setBar off hi lo v).mem = s.mem := rfl
@[simp] theorem setBar_eccBad (s : State) (off hi lo v : Nat) : (s.setBar off hi lo v).eccBad = s.eccBad := rfl
@[simp] theorem setBar_injected (s : State) (off hi lo v : Nat) : (s.setBar off hi lo v).injected = s.injected := rfl
@[simp] theorem setBar_bar (s : State) (off hi lo v : Nat) : (s.setBar off hi lo v).bar = s.bar.store off (hi / 8 + 1) (setBits (s.bar.load off (hi / 8 + 1)) hi lo v) := rfl
@[simp] theorem setBar_bankBusy (s : State) (off hi lo v : Nat) : (s.setBar off hi lo v).bankBusy = s.bankBusy := rfl
@[simp] theorem setBar_bankIdle (s : State) (off hi lo v : Nat) : (s.setBar off hi lo v).bankIdle = s.bankIdle := rfl
@[simp] theorem setBar_bankAsleep (s : State) (off hi lo v : Nat) : (s.setBar off hi lo v).bankAsleep = s.bankAsleep := rfl
@[simp] theorem setBar_bankLast (s : State) (off hi lo v : Nat) : (s.setBar off hi lo v).bankLast = s.bankLast := rfl
@[simp] theorem setBar_writebacks (s : State) (off hi lo v : Nat) : (s.setBar off hi lo v).writebacks = s.writebacks := rfl
@[simp] theorem setBar_reqs (s : State) (off hi lo v : Nat) : (s.setBar off hi lo v).reqs = s.reqs := rfl
@[simp] theorem setBar_rels (s : State) (off hi lo v : Nat) : (s.setBar off hi lo v).rels = s.rels := rfl
@[simp] theorem setBar_lineKey (s : State) (off hi lo v : Nat) : (s.setBar off hi lo v).lineKey = s.lineKey := rfl
@[simp] theorem setBar_granKey (s : State) (off hi lo v : Nat) : (s.setBar off hi lo v).granKey = s.granKey := rfl
@[simp] theorem setBar_tlb (s : State) (off hi lo v : Nat) : (s.setBar off hi lo v).tlb = s.tlb := rfl
@[simp] theorem setBar_invals (s : State) (off hi lo v : Nat) : (s.setBar off hi lo v).invals = s.invals := rfl
@[simp] theorem setBar_scrubs (s : State) (off hi lo v : Nat) : (s.setBar off hi lo v).scrubs = s.scrubs := rfl
@[simp] theorem setBar_scrubStart (s : State) (off hi lo v : Nat) : (s.setBar off hi lo v).scrubStart = s.scrubStart := rfl
@[simp] theorem setBar_faultRecs (s : State) (off hi lo v : Nat) : (s.setBar off hi lo v).faultRecs = s.faultRecs := rfl
@[simp] theorem setBar_copies (s : State) (off hi lo v : Nat) : (s.setBar off hi lo v).copies = s.copies := rfl
@[simp] theorem setBar_replays (s : State) (off hi lo v : Nat) : (s.setBar off hi lo v).replays = s.replays := rfl
@[simp] theorem setBar_lastQueue (s : State) (off hi lo v : Nat) : (s.setBar off hi lo v).lastQueue = s.lastQueue := rfl
@[simp] theorem setBar_children (s : State) (off hi lo v : Nat) : (s.setBar off hi lo v).children = s.children := rfl
@[simp] theorem setBar_preempts (s : State) (off hi lo v : Nat) : (s.setBar off hi lo v).preempts = s.preempts := rfl
@[simp] theorem setBar_rays (s : State) (off hi lo v : Nat) : (s.setBar off hi lo v).rays = s.rays := rfl
@[simp] theorem setBar_windows (s : State) (off hi lo v : Nat) : (s.setBar off hi lo v).windows = s.windows := rfl
@[simp] theorem setBar_sends (s : State) (off hi lo v : Nat) : (s.setBar off hi lo v).sends = s.sends := rfl
@[simp] theorem setBar_dropSeen (s : State) (off hi lo v : Nat) : (s.setBar off hi lo v).dropSeen = s.dropSeen := rfl
@[simp] theorem setBar_dropPend (s : State) (off hi lo v : Nat) : (s.setBar off hi lo v).dropPend = s.dropPend := rfl
@[simp] theorem setBar_padded (s : State) (off hi lo v : Nat) : (s.setBar off hi lo v).padded = s.padded := rfl
@[simp] theorem setBar_inbox (s : State) (off hi lo v : Nat) : (s.setBar off hi lo v).inbox = s.inbox := rfl
@[simp] theorem setBar_portUsed (s : State) (off hi lo v : Nat) : (s.setBar off hi lo v).portUsed = s.portUsed := rfl
@[simp] theorem setBar_holdSince (s : State) (off hi lo v : Nat) : (s.setBar off hi lo v).holdSince = s.holdSince := rfl
@[simp] theorem setBar_abroad (s : State) (off hi lo v : Nat) : (s.setBar off hi lo v).abroad = s.abroad := rfl
@[simp] theorem setBar_tlb1 (s : State) (off hi lo v : Nat) : (s.setBar off hi lo v).tlb1 = s.tlb1 := rfl
@[simp] theorem setBar_ckptOut (s : State) (off hi lo v : Nat) : (s.setBar off hi lo v).ckptOut = s.ckptOut := rfl
@[simp] theorem setBar_ckptSlot (s : State) (off hi lo v : Nat) : (s.setBar off hi lo v).ckptSlot = s.ckptSlot := rfl
@[simp] theorem setBar_insertions (s : State) (off hi lo v : Nat) : (s.setBar off hi lo v).insertions = s.insertions := rfl
@[simp] theorem setBar_holdReqs (s : State) (off hi lo v : Nat) : (s.setBar off hi lo v).holdReqs = s.holdReqs := rfl
@[simp] theorem setBar_holds (s : State) (off hi lo v : Nat) : (s.setBar off hi lo v).holds = s.holds := rfl
@[simp] theorem setBar_ckpt (s : State) (off hi lo v : Nat) : (s.setBar off hi lo v).ckpt = s.ckpt := rfl
@[simp] theorem setBar_ckptDone (s : State) (off hi lo v : Nat) : (s.setBar off hi lo v).ckptDone = s.ckptDone := rfl
@[simp] theorem setBar_ckptValid (s : State) (off hi lo v : Nat) : (s.setBar off hi lo v).ckptValid = s.ckptValid := rfl
@[simp] theorem setBar_ckptNew (s : State) (off hi lo v : Nat) : (s.setBar off hi lo v).ckptNew = s.ckptNew := rfl
@[simp] theorem setBar_headParts (s : State) (off hi lo v : Nat) : (s.setBar off hi lo v).headParts = s.headParts := rfl
@[simp] theorem setBar_rings (s : State) (off hi lo v : Nat) : (s.setBar off hi lo v).rings = s.rings := rfl
@[simp] theorem setBar_encs (s : State) (off hi lo v : Nat) : (s.setBar off hi lo v).encs = s.encs := rfl
@[simp] theorem setBar_links (s : State) (off hi lo v : Nat) : (s.setBar off hi lo v).links = s.links := rfl
@[simp] theorem setBar_trained (s : State) (off hi lo v : Nat) : (s.setBar off hi lo v).trained = s.trained := rfl
@[simp] theorem setBar_doorbell (s : State) (off hi lo v : Nat) : (s.setBar off hi lo v).doorbell = s.doorbell := rfl
@[simp] theorem setBar_power (s : State) (off hi lo v : Nat) : (s.setBar off hi lo v).power = s.power := rfl
@[simp] theorem setBar_clocks (s : State) (off hi lo v : Nat) : (s.setBar off hi lo v).clocks = s.clocks := rfl
@[simp] theorem setBar_halfRate (s : State) (off hi lo v : Nat) : (s.setBar off hi lo v).halfRate = s.halfRate := rfl
@[simp] theorem setBar_powerHold (s : State) (off hi lo v : Nat) : (s.setBar off hi lo v).powerHold = s.powerHold := rfl
@[simp] theorem setBar_below (s : State) (off hi lo v : Nat) : (s.setBar off hi lo v).below = s.below := rfl
@[simp] theorem setBar_missed (s : State) (off hi lo v : Nat) : (s.setBar off hi lo v).missed = s.missed := rfl
@[simp] theorem setBar_lost (s : State) (off hi lo v : Nat) : (s.setBar off hi lo v).lost = s.lost := rfl
@[simp] theorem setBar_ptp (s : State) (off hi lo v : Nat) : (s.setBar off hi lo v).ptp = s.ptp := rfl
@[simp] theorem setBar_ptpNext (s : State) (off hi lo v : Nat) : (s.setBar off hi lo v).ptpNext = s.ptpNext := rfl
@[simp] theorem setBar_launches (s : State) (off hi lo v : Nat) : (s.setBar off hi lo v).launches = s.launches := rfl
@[simp] theorem setBar_groups (s : State) (off hi lo v : Nat) : (s.setBar off hi lo v).groups = s.groups := rfl
@[simp] theorem setBar_parts (s : State) (off hi lo v : Nat) : (s.setBar off hi lo v).parts = s.parts := rfl
@[simp] theorem setBar_clusters (s : State) (off hi lo v : Nat) : (s.setBar off hi lo v).clusters = s.clusters := rfl
@[simp] theorem setBar_held (s : State) (off hi lo v : Nat) : (s.setBar off hi lo v).held = s.held := rfl
@[simp] theorem setBar_lfab (s : State) (off hi lo v : Nat) : (s.setBar off hi lo v).lfab = s.lfab := rfl
@[simp] theorem setBar_domSize (s : State) (off hi lo v : Nat) : (s.setBar off hi lo v).domSize = s.domSize := rfl
@[simp] theorem setBar_out (s : State) (off hi lo v : Nat) : (s.setBar off hi lo v).out = s.out := rfl

/-! ### fresh -/

@[simp] theorem fresh_cyc (s : State) : s.fresh.cyc = s.cyc := rfl
@[simp] theorem fresh_elapse (s : State) : s.fresh.elapse = s.elapse := rfl
@[simp] theorem fresh_owed (s : State) : s.fresh.owed = s.owed := rfl
@[simp] theorem fresh_hold (s : State) : s.fresh.hold = s.hold := rfl
@[simp] theorem fresh_frozen (s : State) : s.fresh.frozen = s.frozen := rfl
@[simp] theorem fresh_agenda (s : State) : s.fresh.agenda = s.agenda := rfl
@[simp] theorem fresh_turn (s : State) : s.fresh.turn = s.turn := rfl
@[simp] theorem fresh_sliceHeld (s : State) : s.fresh.sliceHeld = s.sliceHeld := rfl
@[simp] theorem fresh_free (s : State) : s.fresh.free = s.free := rfl
@[simp] theorem fresh_seq (s : State) : s.fresh.seq = s.seq + 1 := rfl
@[simp] theorem fresh_mem (s : State) : s.fresh.mem = s.mem := rfl
@[simp] theorem fresh_eccBad (s : State) : s.fresh.eccBad = s.eccBad := rfl
@[simp] theorem fresh_injected (s : State) : s.fresh.injected = s.injected := rfl
@[simp] theorem fresh_bar (s : State) : s.fresh.bar = s.bar := rfl
@[simp] theorem fresh_bankBusy (s : State) : s.fresh.bankBusy = s.bankBusy := rfl
@[simp] theorem fresh_bankIdle (s : State) : s.fresh.bankIdle = s.bankIdle := rfl
@[simp] theorem fresh_bankAsleep (s : State) : s.fresh.bankAsleep = s.bankAsleep := rfl
@[simp] theorem fresh_bankLast (s : State) : s.fresh.bankLast = s.bankLast := rfl
@[simp] theorem fresh_writebacks (s : State) : s.fresh.writebacks = s.writebacks := rfl
@[simp] theorem fresh_reqs (s : State) : s.fresh.reqs = s.reqs := rfl
@[simp] theorem fresh_rels (s : State) : s.fresh.rels = s.rels := rfl
@[simp] theorem fresh_lineKey (s : State) : s.fresh.lineKey = s.lineKey := rfl
@[simp] theorem fresh_granKey (s : State) : s.fresh.granKey = s.granKey := rfl
@[simp] theorem fresh_tlb (s : State) : s.fresh.tlb = s.tlb := rfl
@[simp] theorem fresh_invals (s : State) : s.fresh.invals = s.invals := rfl
@[simp] theorem fresh_scrubs (s : State) : s.fresh.scrubs = s.scrubs := rfl
@[simp] theorem fresh_scrubStart (s : State) : s.fresh.scrubStart = s.scrubStart := rfl
@[simp] theorem fresh_faultRecs (s : State) : s.fresh.faultRecs = s.faultRecs := rfl
@[simp] theorem fresh_copies (s : State) : s.fresh.copies = s.copies := rfl
@[simp] theorem fresh_replays (s : State) : s.fresh.replays = s.replays := rfl
@[simp] theorem fresh_lastQueue (s : State) : s.fresh.lastQueue = s.lastQueue := rfl
@[simp] theorem fresh_children (s : State) : s.fresh.children = s.children := rfl
@[simp] theorem fresh_preempts (s : State) : s.fresh.preempts = s.preempts := rfl
@[simp] theorem fresh_rays (s : State) : s.fresh.rays = s.rays := rfl
@[simp] theorem fresh_windows (s : State) : s.fresh.windows = s.windows := rfl
@[simp] theorem fresh_sends (s : State) : s.fresh.sends = s.sends := rfl
@[simp] theorem fresh_dropSeen (s : State) : s.fresh.dropSeen = s.dropSeen := rfl
@[simp] theorem fresh_dropPend (s : State) : s.fresh.dropPend = s.dropPend := rfl
@[simp] theorem fresh_padded (s : State) : s.fresh.padded = s.padded := rfl
@[simp] theorem fresh_inbox (s : State) : s.fresh.inbox = s.inbox := rfl
@[simp] theorem fresh_portUsed (s : State) : s.fresh.portUsed = s.portUsed := rfl
@[simp] theorem fresh_holdSince (s : State) : s.fresh.holdSince = s.holdSince := rfl
@[simp] theorem fresh_abroad (s : State) : s.fresh.abroad = s.abroad := rfl
@[simp] theorem fresh_tlb1 (s : State) : s.fresh.tlb1 = s.tlb1 := rfl
@[simp] theorem fresh_ckptOut (s : State) : s.fresh.ckptOut = s.ckptOut := rfl
@[simp] theorem fresh_ckptSlot (s : State) : s.fresh.ckptSlot = s.ckptSlot := rfl
@[simp] theorem fresh_insertions (s : State) : s.fresh.insertions = s.insertions := rfl
@[simp] theorem fresh_holdReqs (s : State) : s.fresh.holdReqs = s.holdReqs := rfl
@[simp] theorem fresh_holds (s : State) : s.fresh.holds = s.holds := rfl
@[simp] theorem fresh_ckpt (s : State) : s.fresh.ckpt = s.ckpt := rfl
@[simp] theorem fresh_ckptDone (s : State) : s.fresh.ckptDone = s.ckptDone := rfl
@[simp] theorem fresh_ckptValid (s : State) : s.fresh.ckptValid = s.ckptValid := rfl
@[simp] theorem fresh_ckptNew (s : State) : s.fresh.ckptNew = s.ckptNew := rfl
@[simp] theorem fresh_headParts (s : State) : s.fresh.headParts = s.headParts := rfl
@[simp] theorem fresh_rings (s : State) : s.fresh.rings = s.rings := rfl
@[simp] theorem fresh_encs (s : State) : s.fresh.encs = s.encs := rfl
@[simp] theorem fresh_links (s : State) : s.fresh.links = s.links := rfl
@[simp] theorem fresh_trained (s : State) : s.fresh.trained = s.trained := rfl
@[simp] theorem fresh_doorbell (s : State) : s.fresh.doorbell = s.doorbell := rfl
@[simp] theorem fresh_power (s : State) : s.fresh.power = s.power := rfl
@[simp] theorem fresh_clocks (s : State) : s.fresh.clocks = s.clocks := rfl
@[simp] theorem fresh_halfRate (s : State) : s.fresh.halfRate = s.halfRate := rfl
@[simp] theorem fresh_powerHold (s : State) : s.fresh.powerHold = s.powerHold := rfl
@[simp] theorem fresh_below (s : State) : s.fresh.below = s.below := rfl
@[simp] theorem fresh_missed (s : State) : s.fresh.missed = s.missed := rfl
@[simp] theorem fresh_lost (s : State) : s.fresh.lost = s.lost := rfl
@[simp] theorem fresh_ptp (s : State) : s.fresh.ptp = s.ptp := rfl
@[simp] theorem fresh_ptpNext (s : State) : s.fresh.ptpNext = s.ptpNext := rfl
@[simp] theorem fresh_launches (s : State) : s.fresh.launches = s.launches := rfl
@[simp] theorem fresh_groups (s : State) : s.fresh.groups = s.groups := rfl
@[simp] theorem fresh_parts (s : State) : s.fresh.parts = s.parts := rfl
@[simp] theorem fresh_clusters (s : State) : s.fresh.clusters = s.clusters := rfl
@[simp] theorem fresh_held (s : State) : s.fresh.held = s.held := rfl
@[simp] theorem fresh_lfab (s : State) : s.fresh.lfab = s.lfab := rfl
@[simp] theorem fresh_domSize (s : State) : s.fresh.domSize = s.domSize := rfl
@[simp] theorem fresh_out (s : State) : s.fresh.out = s.out := rfl

/-! ### send -/

@[simp] theorem send_cyc (s : State) (port : String) (words : List Nat) : (s.send port words).cyc = s.cyc := rfl
@[simp] theorem send_elapse (s : State) (port : String) (words : List Nat) : (s.send port words).elapse = s.elapse := rfl
@[simp] theorem send_owed (s : State) (port : String) (words : List Nat) : (s.send port words).owed = s.owed := rfl
@[simp] theorem send_hold (s : State) (port : String) (words : List Nat) : (s.send port words).hold = s.hold := rfl
@[simp] theorem send_frozen (s : State) (port : String) (words : List Nat) : (s.send port words).frozen = s.frozen := rfl
@[simp] theorem send_agenda (s : State) (port : String) (words : List Nat) : (s.send port words).agenda = s.agenda := rfl
@[simp] theorem send_turn (s : State) (port : String) (words : List Nat) : (s.send port words).turn = s.turn := rfl
@[simp] theorem send_sliceHeld (s : State) (port : String) (words : List Nat) : (s.send port words).sliceHeld = s.sliceHeld := rfl
@[simp] theorem send_free (s : State) (port : String) (words : List Nat) : (s.send port words).free = s.free := rfl
@[simp] theorem send_seq (s : State) (port : String) (words : List Nat) : (s.send port words).seq = s.seq := rfl
@[simp] theorem send_mem (s : State) (port : String) (words : List Nat) : (s.send port words).mem = s.mem := rfl
@[simp] theorem send_eccBad (s : State) (port : String) (words : List Nat) : (s.send port words).eccBad = s.eccBad := rfl
@[simp] theorem send_injected (s : State) (port : String) (words : List Nat) : (s.send port words).injected = s.injected := rfl
@[simp] theorem send_bar (s : State) (port : String) (words : List Nat) : (s.send port words).bar = s.bar := rfl
@[simp] theorem send_bankBusy (s : State) (port : String) (words : List Nat) : (s.send port words).bankBusy = s.bankBusy := rfl
@[simp] theorem send_bankIdle (s : State) (port : String) (words : List Nat) : (s.send port words).bankIdle = s.bankIdle := rfl
@[simp] theorem send_bankAsleep (s : State) (port : String) (words : List Nat) : (s.send port words).bankAsleep = s.bankAsleep := rfl
@[simp] theorem send_bankLast (s : State) (port : String) (words : List Nat) : (s.send port words).bankLast = s.bankLast := rfl
@[simp] theorem send_writebacks (s : State) (port : String) (words : List Nat) : (s.send port words).writebacks = s.writebacks := rfl
@[simp] theorem send_reqs (s : State) (port : String) (words : List Nat) : (s.send port words).reqs = s.reqs := rfl
@[simp] theorem send_rels (s : State) (port : String) (words : List Nat) : (s.send port words).rels = s.rels := rfl
@[simp] theorem send_lineKey (s : State) (port : String) (words : List Nat) : (s.send port words).lineKey = s.lineKey := rfl
@[simp] theorem send_granKey (s : State) (port : String) (words : List Nat) : (s.send port words).granKey = s.granKey := rfl
@[simp] theorem send_tlb (s : State) (port : String) (words : List Nat) : (s.send port words).tlb = s.tlb := rfl
@[simp] theorem send_invals (s : State) (port : String) (words : List Nat) : (s.send port words).invals = s.invals := rfl
@[simp] theorem send_scrubs (s : State) (port : String) (words : List Nat) : (s.send port words).scrubs = s.scrubs := rfl
@[simp] theorem send_scrubStart (s : State) (port : String) (words : List Nat) : (s.send port words).scrubStart = s.scrubStart := rfl
@[simp] theorem send_faultRecs (s : State) (port : String) (words : List Nat) : (s.send port words).faultRecs = s.faultRecs := rfl
@[simp] theorem send_copies (s : State) (port : String) (words : List Nat) : (s.send port words).copies = s.copies := rfl
@[simp] theorem send_replays (s : State) (port : String) (words : List Nat) : (s.send port words).replays = s.replays := rfl
@[simp] theorem send_lastQueue (s : State) (port : String) (words : List Nat) : (s.send port words).lastQueue = s.lastQueue := rfl
@[simp] theorem send_children (s : State) (port : String) (words : List Nat) : (s.send port words).children = s.children := rfl
@[simp] theorem send_preempts (s : State) (port : String) (words : List Nat) : (s.send port words).preempts = s.preempts := rfl
@[simp] theorem send_rays (s : State) (port : String) (words : List Nat) : (s.send port words).rays = s.rays := rfl
@[simp] theorem send_windows (s : State) (port : String) (words : List Nat) : (s.send port words).windows = s.windows := rfl
@[simp] theorem send_sends (s : State) (port : String) (words : List Nat) : (s.send port words).sends = s.sends := rfl
@[simp] theorem send_dropSeen (s : State) (port : String) (words : List Nat) : (s.send port words).dropSeen = s.dropSeen := rfl
@[simp] theorem send_dropPend (s : State) (port : String) (words : List Nat) : (s.send port words).dropPend = s.dropPend := rfl
@[simp] theorem send_padded (s : State) (port : String) (words : List Nat) : (s.send port words).padded = s.padded := rfl
@[simp] theorem send_inbox (s : State) (port : String) (words : List Nat) : (s.send port words).inbox = s.inbox := rfl
@[simp] theorem send_portUsed (s : State) (port : String) (words : List Nat) : (s.send port words).portUsed = s.portUsed := rfl
@[simp] theorem send_holdSince (s : State) (port : String) (words : List Nat) : (s.send port words).holdSince = s.holdSince := rfl
@[simp] theorem send_abroad (s : State) (port : String) (words : List Nat) : (s.send port words).abroad = s.abroad := rfl
@[simp] theorem send_tlb1 (s : State) (port : String) (words : List Nat) : (s.send port words).tlb1 = s.tlb1 := rfl
@[simp] theorem send_ckptOut (s : State) (port : String) (words : List Nat) : (s.send port words).ckptOut = s.ckptOut := rfl
@[simp] theorem send_ckptSlot (s : State) (port : String) (words : List Nat) : (s.send port words).ckptSlot = s.ckptSlot := rfl
@[simp] theorem send_insertions (s : State) (port : String) (words : List Nat) : (s.send port words).insertions = s.insertions := rfl
@[simp] theorem send_holdReqs (s : State) (port : String) (words : List Nat) : (s.send port words).holdReqs = s.holdReqs := rfl
@[simp] theorem send_holds (s : State) (port : String) (words : List Nat) : (s.send port words).holds = s.holds := rfl
@[simp] theorem send_ckpt (s : State) (port : String) (words : List Nat) : (s.send port words).ckpt = s.ckpt := rfl
@[simp] theorem send_ckptDone (s : State) (port : String) (words : List Nat) : (s.send port words).ckptDone = s.ckptDone := rfl
@[simp] theorem send_ckptValid (s : State) (port : String) (words : List Nat) : (s.send port words).ckptValid = s.ckptValid := rfl
@[simp] theorem send_ckptNew (s : State) (port : String) (words : List Nat) : (s.send port words).ckptNew = s.ckptNew := rfl
@[simp] theorem send_headParts (s : State) (port : String) (words : List Nat) : (s.send port words).headParts = s.headParts := rfl
@[simp] theorem send_rings (s : State) (port : String) (words : List Nat) : (s.send port words).rings = s.rings := rfl
@[simp] theorem send_encs (s : State) (port : String) (words : List Nat) : (s.send port words).encs = s.encs := rfl
@[simp] theorem send_links (s : State) (port : String) (words : List Nat) : (s.send port words).links = s.links := rfl
@[simp] theorem send_trained (s : State) (port : String) (words : List Nat) : (s.send port words).trained = s.trained := rfl
@[simp] theorem send_doorbell (s : State) (port : String) (words : List Nat) : (s.send port words).doorbell = s.doorbell := rfl
@[simp] theorem send_power (s : State) (port : String) (words : List Nat) : (s.send port words).power = s.power := rfl
@[simp] theorem send_clocks (s : State) (port : String) (words : List Nat) : (s.send port words).clocks = s.clocks := rfl
@[simp] theorem send_halfRate (s : State) (port : String) (words : List Nat) : (s.send port words).halfRate = s.halfRate := rfl
@[simp] theorem send_powerHold (s : State) (port : String) (words : List Nat) : (s.send port words).powerHold = s.powerHold := rfl
@[simp] theorem send_below (s : State) (port : String) (words : List Nat) : (s.send port words).below = s.below := rfl
@[simp] theorem send_missed (s : State) (port : String) (words : List Nat) : (s.send port words).missed = s.missed := rfl
@[simp] theorem send_lost (s : State) (port : String) (words : List Nat) : (s.send port words).lost = s.lost := rfl
@[simp] theorem send_ptp (s : State) (port : String) (words : List Nat) : (s.send port words).ptp = s.ptp := rfl
@[simp] theorem send_ptpNext (s : State) (port : String) (words : List Nat) : (s.send port words).ptpNext = s.ptpNext := rfl
@[simp] theorem send_launches (s : State) (port : String) (words : List Nat) : (s.send port words).launches = s.launches := rfl
@[simp] theorem send_groups (s : State) (port : String) (words : List Nat) : (s.send port words).groups = s.groups := rfl
@[simp] theorem send_parts (s : State) (port : String) (words : List Nat) : (s.send port words).parts = s.parts := rfl
@[simp] theorem send_clusters (s : State) (port : String) (words : List Nat) : (s.send port words).clusters = s.clusters := rfl
@[simp] theorem send_held (s : State) (port : String) (words : List Nat) : (s.send port words).held = s.held := rfl
@[simp] theorem send_lfab (s : State) (port : String) (words : List Nat) : (s.send port words).lfab = s.lfab := rfl
@[simp] theorem send_domSize (s : State) (port : String) (words : List Nat) : (s.send port words).domSize = s.domSize := rfl
@[simp] theorem send_out (s : State) (port : String) (words : List Nat) : (s.send port words).out = s.out ++ [{ port := port, cyc := s.cyc, words := words }] := rfl

/-! ### holdRec -/

@[simp] theorem holdRec_cyc (s : State) (q : Nat) (r : List Byte) : (s.holdRec q r).cyc = s.cyc := rfl
@[simp] theorem holdRec_elapse (s : State) (q : Nat) (r : List Byte) : (s.holdRec q r).elapse = s.elapse := rfl
@[simp] theorem holdRec_owed (s : State) (q : Nat) (r : List Byte) : (s.holdRec q r).owed = s.owed := rfl
@[simp] theorem holdRec_hold (s : State) (q : Nat) (r : List Byte) : (s.holdRec q r).hold = s.hold := rfl
@[simp] theorem holdRec_frozen (s : State) (q : Nat) (r : List Byte) : (s.holdRec q r).frozen = s.frozen := rfl
@[simp] theorem holdRec_agenda (s : State) (q : Nat) (r : List Byte) : (s.holdRec q r).agenda = s.agenda := rfl
@[simp] theorem holdRec_turn (s : State) (q : Nat) (r : List Byte) : (s.holdRec q r).turn = s.turn := rfl
@[simp] theorem holdRec_sliceHeld (s : State) (q : Nat) (r : List Byte) : (s.holdRec q r).sliceHeld = s.sliceHeld := rfl
@[simp] theorem holdRec_free (s : State) (q : Nat) (r : List Byte) : (s.holdRec q r).free = s.free := rfl
@[simp] theorem holdRec_seq (s : State) (q : Nat) (r : List Byte) : (s.holdRec q r).seq = s.seq := rfl
@[simp] theorem holdRec_mem (s : State) (q : Nat) (r : List Byte) : (s.holdRec q r).mem = s.mem := rfl
@[simp] theorem holdRec_eccBad (s : State) (q : Nat) (r : List Byte) : (s.holdRec q r).eccBad = s.eccBad := rfl
@[simp] theorem holdRec_injected (s : State) (q : Nat) (r : List Byte) : (s.holdRec q r).injected = s.injected := rfl
@[simp] theorem holdRec_bar (s : State) (q : Nat) (r : List Byte) : (s.holdRec q r).bar = s.bar := rfl
@[simp] theorem holdRec_bankBusy (s : State) (q : Nat) (r : List Byte) : (s.holdRec q r).bankBusy = s.bankBusy := rfl
@[simp] theorem holdRec_bankIdle (s : State) (q : Nat) (r : List Byte) : (s.holdRec q r).bankIdle = s.bankIdle := rfl
@[simp] theorem holdRec_bankAsleep (s : State) (q : Nat) (r : List Byte) : (s.holdRec q r).bankAsleep = s.bankAsleep := rfl
@[simp] theorem holdRec_bankLast (s : State) (q : Nat) (r : List Byte) : (s.holdRec q r).bankLast = s.bankLast := rfl
@[simp] theorem holdRec_writebacks (s : State) (q : Nat) (r : List Byte) : (s.holdRec q r).writebacks = s.writebacks := rfl
@[simp] theorem holdRec_reqs (s : State) (q : Nat) (r : List Byte) : (s.holdRec q r).reqs = s.reqs := rfl
@[simp] theorem holdRec_rels (s : State) (q : Nat) (r : List Byte) : (s.holdRec q r).rels = s.rels := rfl
@[simp] theorem holdRec_lineKey (s : State) (q : Nat) (r : List Byte) : (s.holdRec q r).lineKey = s.lineKey := rfl
@[simp] theorem holdRec_granKey (s : State) (q : Nat) (r : List Byte) : (s.holdRec q r).granKey = s.granKey := rfl
@[simp] theorem holdRec_tlb (s : State) (q : Nat) (r : List Byte) : (s.holdRec q r).tlb = s.tlb := rfl
@[simp] theorem holdRec_invals (s : State) (q : Nat) (r : List Byte) : (s.holdRec q r).invals = s.invals := rfl
@[simp] theorem holdRec_scrubs (s : State) (q : Nat) (r : List Byte) : (s.holdRec q r).scrubs = s.scrubs := rfl
@[simp] theorem holdRec_scrubStart (s : State) (q : Nat) (r : List Byte) : (s.holdRec q r).scrubStart = s.scrubStart := rfl
@[simp] theorem holdRec_faultRecs (s : State) (q : Nat) (r : List Byte) : (s.holdRec q r).faultRecs = s.faultRecs := rfl
@[simp] theorem holdRec_copies (s : State) (q : Nat) (r : List Byte) : (s.holdRec q r).copies = s.copies := rfl
@[simp] theorem holdRec_replays (s : State) (q : Nat) (r : List Byte) : (s.holdRec q r).replays = s.replays := rfl
@[simp] theorem holdRec_lastQueue (s : State) (q : Nat) (r : List Byte) : (s.holdRec q r).lastQueue = s.lastQueue := rfl
@[simp] theorem holdRec_children (s : State) (q : Nat) (r : List Byte) : (s.holdRec q r).children = s.children := rfl
@[simp] theorem holdRec_preempts (s : State) (q : Nat) (r : List Byte) : (s.holdRec q r).preempts = s.preempts := rfl
@[simp] theorem holdRec_rays (s : State) (q : Nat) (r : List Byte) : (s.holdRec q r).rays = s.rays := rfl
@[simp] theorem holdRec_windows (s : State) (q : Nat) (r : List Byte) : (s.holdRec q r).windows = s.windows := rfl
@[simp] theorem holdRec_sends (s : State) (q : Nat) (r : List Byte) : (s.holdRec q r).sends = s.sends := rfl
@[simp] theorem holdRec_dropSeen (s : State) (q : Nat) (r : List Byte) : (s.holdRec q r).dropSeen = s.dropSeen := rfl
@[simp] theorem holdRec_dropPend (s : State) (q : Nat) (r : List Byte) : (s.holdRec q r).dropPend = s.dropPend := rfl
@[simp] theorem holdRec_padded (s : State) (q : Nat) (r : List Byte) : (s.holdRec q r).padded = s.padded := rfl
@[simp] theorem holdRec_inbox (s : State) (q : Nat) (r : List Byte) : (s.holdRec q r).inbox = s.inbox := rfl
@[simp] theorem holdRec_portUsed (s : State) (q : Nat) (r : List Byte) : (s.holdRec q r).portUsed = s.portUsed := rfl
@[simp] theorem holdRec_holdSince (s : State) (q : Nat) (r : List Byte) : (s.holdRec q r).holdSince = s.holdSince := rfl
@[simp] theorem holdRec_abroad (s : State) (q : Nat) (r : List Byte) : (s.holdRec q r).abroad = s.abroad := rfl
@[simp] theorem holdRec_tlb1 (s : State) (q : Nat) (r : List Byte) : (s.holdRec q r).tlb1 = s.tlb1 := rfl
@[simp] theorem holdRec_ckptOut (s : State) (q : Nat) (r : List Byte) : (s.holdRec q r).ckptOut = s.ckptOut := rfl
@[simp] theorem holdRec_ckptSlot (s : State) (q : Nat) (r : List Byte) : (s.holdRec q r).ckptSlot = s.ckptSlot := rfl
@[simp] theorem holdRec_insertions (s : State) (q : Nat) (r : List Byte) : (s.holdRec q r).insertions = s.insertions := rfl
@[simp] theorem holdRec_holdReqs (s : State) (q : Nat) (r : List Byte) : (s.holdRec q r).holdReqs = s.holdReqs := rfl
@[simp] theorem holdRec_holds (s : State) (q : Nat) (r : List Byte) : (s.holdRec q r).holds = s.holds := rfl
@[simp] theorem holdRec_ckpt (s : State) (q : Nat) (r : List Byte) : (s.holdRec q r).ckpt = s.ckpt := rfl
@[simp] theorem holdRec_ckptDone (s : State) (q : Nat) (r : List Byte) : (s.holdRec q r).ckptDone = s.ckptDone := rfl
@[simp] theorem holdRec_ckptValid (s : State) (q : Nat) (r : List Byte) : (s.holdRec q r).ckptValid = s.ckptValid := rfl
@[simp] theorem holdRec_ckptNew (s : State) (q : Nat) (r : List Byte) : (s.holdRec q r).ckptNew = s.ckptNew := rfl
@[simp] theorem holdRec_headParts (s : State) (q : Nat) (r : List Byte) : (s.holdRec q r).headParts = s.headParts := rfl
@[simp] theorem holdRec_rings (s : State) (q : Nat) (r : List Byte) : (s.holdRec q r).rings = s.rings := rfl
@[simp] theorem holdRec_encs (s : State) (q : Nat) (r : List Byte) : (s.holdRec q r).encs = s.encs := rfl
@[simp] theorem holdRec_links (s : State) (q : Nat) (r : List Byte) : (s.holdRec q r).links = s.links := rfl
@[simp] theorem holdRec_trained (s : State) (q : Nat) (r : List Byte) : (s.holdRec q r).trained = s.trained := rfl
@[simp] theorem holdRec_doorbell (s : State) (q : Nat) (r : List Byte) : (s.holdRec q r).doorbell = s.doorbell := rfl
@[simp] theorem holdRec_power (s : State) (q : Nat) (r : List Byte) : (s.holdRec q r).power = s.power := rfl
@[simp] theorem holdRec_clocks (s : State) (q : Nat) (r : List Byte) : (s.holdRec q r).clocks = s.clocks := rfl
@[simp] theorem holdRec_halfRate (s : State) (q : Nat) (r : List Byte) : (s.holdRec q r).halfRate = s.halfRate := rfl
@[simp] theorem holdRec_powerHold (s : State) (q : Nat) (r : List Byte) : (s.holdRec q r).powerHold = s.powerHold := rfl
@[simp] theorem holdRec_below (s : State) (q : Nat) (r : List Byte) : (s.holdRec q r).below = s.below := rfl
@[simp] theorem holdRec_missed (s : State) (q : Nat) (r : List Byte) : (s.holdRec q r).missed = s.missed := rfl
@[simp] theorem holdRec_lost (s : State) (q : Nat) (r : List Byte) : (s.holdRec q r).lost = s.lost := rfl
@[simp] theorem holdRec_ptp (s : State) (q : Nat) (r : List Byte) : (s.holdRec q r).ptp = s.ptp := rfl
@[simp] theorem holdRec_ptpNext (s : State) (q : Nat) (r : List Byte) : (s.holdRec q r).ptpNext = s.ptpNext := rfl
@[simp] theorem holdRec_launches (s : State) (q : Nat) (r : List Byte) : (s.holdRec q r).launches = s.launches := rfl
@[simp] theorem holdRec_groups (s : State) (q : Nat) (r : List Byte) : (s.holdRec q r).groups = s.groups := rfl
@[simp] theorem holdRec_parts (s : State) (q : Nat) (r : List Byte) : (s.holdRec q r).parts = s.parts := rfl
@[simp] theorem holdRec_clusters (s : State) (q : Nat) (r : List Byte) : (s.holdRec q r).clusters = s.clusters := rfl
@[simp] theorem holdRec_held (s : State) (q : Nat) (r : List Byte) : (s.holdRec q r).held = mset q ((mget q s.held).getD [] ++ [r]) s.held := rfl
@[simp] theorem holdRec_lfab (s : State) (q : Nat) (r : List Byte) : (s.holdRec q r).lfab = s.lfab := rfl
@[simp] theorem holdRec_domSize (s : State) (q : Nat) (r : List Byte) : (s.holdRec q r).domSize = s.domSize := rfl
@[simp] theorem holdRec_out (s : State) (q : Nat) (r : List Byte) : (s.holdRec q r).out = s.out := rfl

end Sys2Proof.Machine.State
end

