-- ==== Sys2Proof/Laws/Issue.lean ====
section
/-! SUPPORT. What the issue of one instruction can do, said once (02 R51, R66-R68; 03 R81, R82): with nobody holding the turn it is refused;
otherwise it always answers a next state, and a party that is ready gets the answer of the instruction's meaning. -/

namespace Sys2Proof.Laws
open Sys2Proof Sys2Proof.Machine

/-- Without a party that holds the turn no instruction issues. -/
theorem issue_refused {s : State} {f : Form} {body : State → Ctx → Res} (h : s.issuer = none) :
    s.issue f body = .refused .noIssuer := by
  unfold State.issue
  rw [h]

/-- With a party that holds the turn, issue never stops the machine. -/
theorem issue_next {s : State} {f : Form} {body : State → Ctx → Res} {c : Ctx} (h : s.issuer = some c) :
    ∃ t, s.issue f body = .next t := by
  unfold State.issue
  rw [h]
  exact ⟨_, rfl⟩

/-- What follows from the answer of a meaning. -/
def finish (s : State) (c : Ctx) (f : Form) : Res → State
  | .done t w => t.retire c w f.occupancy
  | .trap ti => s.takeTrap c ti
  | .become t | .stall t => { t with turn := none }
  | .wait t w cause => t.notReady c (if c.ordered && (f.waits || f.endsFret) then { w with fretEnded := true } else w) cause

/-- A corrector that has nothing to correct lets every register through. -/
theorem regRead_clean {s : State} {c : Ctx} {f : Form} (h : s.eccBad = []) : s.regRead c f = (none, s) := by
  unfold State.regRead
  rw [if_pos h]

/-- A party that is ready, with a legal form, gets what its meaning answers. -/
theorem issue_ready {s : State} {f : Form} {body : State → Ctx → Res} {c : Ctx} (hi : s.issuer = some c)
    (hf : c.w.faulty = none) (hl : c.w.late = false) (hr : (c.ordered && c.w.fretEnded) = false)
    (hd : c.decodeTrap f = none) (ha : c.w.active ≠ 0 ∨ f.whenEmpty = true) (he : s.eccBad = [])
    (hw : (c.ordered && f.waits && decide (0 < c.w.retired) && !c.w.fretChecked) = false) :
    s.issue f body = .next (finish s c f (body s c)) := by
  have ha' : ¬(c.w.active = 0 ∧ (!f.whenEmpty) = true) := by
    rintro ⟨h1, h2⟩
    rcases ha with ha | ha
    · exact ha h1
    · simp [ha] at h2
  unfold State.issue
  simp only [hi, hf, hl, hr, hd, hw, regRead_clean he, if_neg ha', Bool.false_eq_true, if_false]
  cases body s c <;> rfl

/-- An empty mask takes the slot of a form that does not act then, and changes nothing else of the wave (R51, R90). -/
theorem issue_empty {s : State} {f : Form} {body : State → Ctx → Res} {c : Ctx} (hi : s.issuer = some c)
    (hf : c.w.faulty = none) (hl : c.w.late = false) (hr : (c.ordered && c.w.fretEnded) = false)
    (hd : c.decodeTrap f = none) (ha : c.w.active = 0) (hm : f.whenEmpty = false) :
    s.issue f body = .next (s.retire c c.next 8) := by
  unfold State.issue
  simp only [hi, hf, hl, hr, hd, ha, hm, Bool.false_eq_true, if_false, Bool.not_false, and_self, if_true]

/-- A form that fails a decode check traps (R66-R68). -/
theorem issue_decodeTrap {s : State} {f : Form} {body : State → Ctx → Res} {c : Ctx} {ti : TrapInfo} (hi : s.issuer = some c)
    (hf : c.w.faulty = none) (hl : c.w.late = false) (hr : (c.ordered && c.w.fretEnded) = false)
    (hd : c.decodeTrap f = some ti) : s.issue f body = .next (s.takeTrap c ti) := by
  unfold State.issue
  simp only [hi, hf, hl, hr, hd, Bool.false_eq_true, if_false]

/-- The decode checks that pass: the issuer may issue the form, its registers are legal, and the regime admits it. -/
theorem decodeTrap_none {c : Ctx} {f : Form} (hc : f.who = .wave → c.isCore = false) (hk : f.who = .core → c.isCore = true)
    (hu : ∀ u ∈ f.uses, c.legal u = true) (hl : f.notLocked = true → c.isCore = false → c.locked = false) :
    c.decodeTrap f = none := by
  have h3 : f.uses.all c.legal = true := List.all_eq_true.mpr hu
  unfold Ctx.decodeTrap
  rw [h3]
  cases h : f.who <;> cases hk' : c.isCore <;> cases hn : f.notLocked <;> cases hll : c.locked <;> simp_all

end Sys2Proof.Laws
end

