-- ==== Sys2Proof/Laws/PerInstr.lean ====
section
/-! SUPPORT. The decoder reads back every instruction's word (02 R44-R66), one lemma per constructor; an event has no word. -/

namespace Sys2Proof.Laws

/-- A word whose fields read as a well-formed instruction, and that is its encoding, decodes to it. -/
theorem decode_of_readFields {i : Instr} {w : BitVec 32} (hw : i.wellFormed = true) (he : encode i = some w)
    (hr : readFields w.toNat = .ok i) : decode w = .ok i := by
  simp [decode, hr, hw, he]

/-- A 7-bit field is the register it holds. -/
theorem regAt_eq {w lo : Nat} {r : Reg} (h : w / 2 ^ lo % 128 = r.toNat) : regAt w lo = r := by
  apply BitVec.eq_of_toNat_eq
  simpa [regAt] using h

/-- The low bits of a field are the number it holds. -/
theorem ofNat_eq {n m x : Nat} {v : BitVec n} (hn : n ≤ m) (h : x % 2 ^ m = v.toNat) : BitVec.ofNat n x = v := by
  apply BitVec.eq_of_toNat_eq
  have hv := v.isLt
  have hd : (2 : Nat) ^ n ∣ 2 ^ m := Nat.pow_dvd_pow 2 hn
  rw [BitVec.toNat_ofNat, ← Nat.mod_mod_of_dvd x hd, h, Nat.mod_eq_of_lt hv]

/-- Reading a word of classes A, F and E. -/
theorem read_encA {p cls op d a b : Nat} {i : Instr} (hp : p < 2) (hc : cls < 8) (ho : op < 128) (hd : d < 128)
    (ha : a < 128) (hb : b < 128)
    (h : ∀ w, w / 2 ^ 31 % 2 = p → w / 2 ^ 28 % 8 = cls → w / 2 ^ 21 % 128 = op → w / 2 ^ 14 % 128 = d →
      w / 2 ^ 7 % 128 = a → w % 128 = b → readFields w = .ok i) :
    readFields (encA p cls op d a b).toNat = .ok i := by
  have e : (encA p cls op d a b).toNat =
      p * 2 ^ 31 + cls * 2 ^ 28 + op * 2 ^ 21 + d * 2 ^ 14 + a * 2 ^ 7 + b := by
    simp only [encA, BitVec.toNat_ofNat]; omega
  rw [e]
  apply h <;> omega

/-- Reading a word of class I. -/
theorem read_encI {p op d x : Nat} {i : Instr} (hp : p < 2) (ho : op < 32) (hd : d < 128) (hx : x < 2 ^ 16)
    (h : ∀ w, w / 2 ^ 31 % 2 = p → w / 2 ^ 28 % 8 = 4 → w / 2 ^ 23 % 32 = op → w / 2 ^ 16 % 128 = d →
      w % 2 ^ 16 = x → readFields w = .ok i) :
    readFields (encI p op d x).toNat = .ok i := by
  have e : (encI p op d x).toNat = p * 2 ^ 31 + 4 * 2 ^ 28 + op * 2 ^ 23 + d * 2 ^ 16 + x := by
    simp only [encI, BitVec.toNat_ofNat]; omega
  rw [e]
  apply h <;> omega

/-- Reading a word of class M. -/
theorem read_encM {p op d a x : Nat} {i : Instr} (hp : p < 2) (ho : op < 16) (hd : d < 128) (ha : a < 128)
    (hx : x < 2 ^ 10)
    (h : ∀ w, w / 2 ^ 31 % 2 = p → w / 2 ^ 28 % 8 = 5 → w / 2 ^ 24 % 16 = op → w / 2 ^ 17 % 128 = d →
      w / 2 ^ 10 % 128 = a → w % 2 ^ 10 = x → readFields w = .ok i) :
    readFields (encM p op d a x).toNat = .ok i := by
  have e : (encM p op d a x).toNat = p * 2 ^ 31 + 5 * 2 ^ 28 + op * 2 ^ 24 + d * 2 ^ 17 + a * 2 ^ 10 + x := by
    simp only [encM, BitVec.toNat_ofNat]; omega
  rw [e]
  apply h <;> omega

/-- Reading a word of class B. -/
theorem read_encB {p op a x : Nat} {i : Instr} (hp : p < 2) (ho : op < 16) (ha : a < 128) (hx : x < 2 ^ 17)
    (h : ∀ w, w / 2 ^ 31 % 2 = p → w / 2 ^ 28 % 8 = 6 → w / 2 ^ 24 % 16 = op → w / 2 ^ 17 % 128 = a →
      w % 2 ^ 17 = x → readFields w = .ok i) :
    readFields (encB p op a x).toNat = .ok i := by
  have e : (encB p op a x).toNat = p * 2 ^ 31 + 6 * 2 ^ 28 + op * 2 ^ 24 + a * 2 ^ 17 + x := by
    simp only [encB, BitVec.toNat_ofNat]; omega
  rw [e]
  apply h <;> omega

/-- Reading a word of class X. -/
theorem read_encX {p op x : Nat} {i : Instr} (hp : p < 2) (ho : op < 128) (hx : x < 2 ^ 21)
    (h : ∀ w, w / 2 ^ 31 % 2 = p → w / 2 ^ 28 % 8 = 7 → w / 2 ^ 21 % 128 = op → w % 2 ^ 21 = x → readFields w = .ok i) :
    readFields (encX p op x).toNat = .ok i := by
  have e : (encX p op x).toNat = p * 2 ^ 31 + 7 * 2 ^ 28 + op * 2 ^ 21 + x := by
    simp only [encX, BitVec.toNat_ofNat]; omega
  rw [e]
  apply h <;> omega

namespace Encoding

/-- A well-formed instruction's word decodes to the instruction. -/
def Statement (i : Instr) : Prop := ∀ w, i.wellFormed = true → encode i = some w → decode w = .ok i

theorem intArithLogic (o : IntOp) (d : Reg) (a : Reg) (b : Reg) : Statement (.intArithLogic o d a b) := by
  intro w hw he
  apply decode_of_readFields hw he
  obtain rfl := Option.some.inj he
  cases o <;>
    exact read_encA (by decide) (by decide) (by decide) (by have := d.isLt; omega) (by have := a.isLt; omega) (by have := b.isLt; omega) fun w P C O D A B => by obtain rfl := regAt_eq D; obtain rfl := regAt_eq A; obtain rfl : regAt w 0 = b := regAt_eq (by have := B; have := (b : Reg).isLt; omega); (unfold readFields; simp only [P, C, O]; rfl)
theorem uintArithLogic (o : IntOp) (d : Reg) (a : Reg) (b : Reg) : Statement (.uintArithLogic o d a b) := by
  intro w hw he
  apply decode_of_readFields hw he
  obtain rfl := Option.some.inj he
  cases o <;>
    exact read_encA (by decide) (by decide) (by decide) (by have := d.isLt; omega) (by have := a.isLt; omega) (by have := b.isLt; omega) fun w P C O D A B => by obtain rfl := regAt_eq D; obtain rfl := regAt_eq A; obtain rfl : regAt w 0 = b := regAt_eq (by have := B; have := (b : Reg).isLt; omega); (unfold readFields; simp only [P, C, O]; rfl)
theorem divRem (o : DivOp) (d : Reg) (a : Reg) (b : Reg) : Statement (.divRem o d a b) := by
  intro w hw he
  apply decode_of_readFields hw he
  obtain rfl := Option.some.inj he
  cases o <;>
    exact read_encA (by decide) (by decide) (by decide) (by have := d.isLt; omega) (by have := a.isLt; omega) (by have := b.isLt; omega) fun w P C O D A B => by obtain rfl := regAt_eq D; obtain rfl := regAt_eq A; obtain rfl : regAt w 0 = b := regAt_eq (by have := B; have := (b : Reg).isLt; omega); (unfold readFields; simp only [P, C, O]; rfl)
theorem udivRem (o : DivOp) (d : Reg) (a : Reg) (b : Reg) : Statement (.udivRem o d a b) := by
  intro w hw he
  apply decode_of_readFields hw he
  obtain rfl := Option.some.inj he
  cases o <;>
    exact read_encA (by decide) (by decide) (by decide) (by have := d.isLt; omega) (by have := a.isLt; omega) (by have := b.isLt; omega) fun w P C O D A B => by obtain rfl := regAt_eq D; obtain rfl := regAt_eq A; obtain rfl : regAt w 0 = b := regAt_eq (by have := B; have := (b : Reg).isLt; omega); (unfold readFields; simp only [P, C, O]; rfl)
theorem sel (d : Reg) (a : Reg) (b : Reg) : Statement (.sel d a b) := by
  intro w hw he
  apply decode_of_readFields hw he
  obtain rfl := Option.some.inj he
  exact read_encA (by decide) (by decide) (by decide) (by have := d.isLt; omega) (by have := a.isLt; omega) (by have := b.isLt; omega) fun w P C O D A B => by obtain rfl := regAt_eq D; obtain rfl := regAt_eq A; obtain rfl : regAt w 0 = b := regAt_eq (by have := B; have := (b : Reg).isLt; omega); (unfold readFields; simp only [P, C, O]; rfl)
theorem usel (d : Reg) (a : Reg) (b : Reg) : Statement (.usel d a b) := by
  intro w hw he
  apply decode_of_readFields hw he
  obtain rfl := Option.some.inj he
  exact read_encA (by decide) (by decide) (by decide) (by have := d.isLt; omega) (by have := a.isLt; omega) (by have := b.isLt; omega) fun w P C O D A B => by obtain rfl := regAt_eq D; obtain rfl := regAt_eq A; obtain rfl : regAt w 0 = b := regAt_eq (by have := B; have := (b : Reg).isLt; omega); (unfold readFields; simp only [P, C, O]; rfl)
theorem setCompare (o : CmpOp) (d : Reg) (a : Reg) (b : Reg) : Statement (.setCompare o d a b) := by
  intro w hw he
  apply decode_of_readFields hw he
  obtain rfl := Option.some.inj he
  cases o <;>
    exact read_encA (by decide) (by decide) (by decide) (by have := d.isLt; omega) (by have := a.isLt; omega) (by have := b.isLt; omega) fun w P C O D A B => by obtain rfl := regAt_eq D; obtain rfl := regAt_eq A; obtain rfl : regAt w 0 = b := regAt_eq (by have := B; have := (b : Reg).isLt; omega); (unfold readFields; simp only [P, C, O]; rfl)
theorem usetCompare (o : CmpOp) (d : Reg) (a : Reg) (b : Reg) : Statement (.usetCompare o d a b) := by
  intro w hw he
  apply decode_of_readFields hw he
  obtain rfl := Option.some.inj he
  cases o <;>
    exact read_encA (by decide) (by decide) (by decide) (by have := d.isLt; omega) (by have := a.isLt; omega) (by have := b.isLt; omega) fun w P C O D A B => by obtain rfl := regAt_eq D; obtain rfl := regAt_eq A; obtain rfl : regAt w 0 = b := regAt_eq (by have := B; have := (b : Reg).isLt; omega); (unfold readFields; simp only [P, C, O]; rfl)
theorem unary (f : UnaryFn) (d : Reg) (a : Reg) : Statement (.unary f d a) := by
  intro w hw he
  apply decode_of_readFields hw he
  obtain rfl := Option.some.inj he
  cases f <;>
    exact read_encA (by decide) (by decide) (by decide) (by have := d.isLt; omega) (by have := a.isLt; omega) (by decide) fun w P C O D A B => by obtain rfl := regAt_eq D; obtain rfl := regAt_eq A; (unfold readFields; simp only [P, C, O]; unfold readA; simp only [B]; rfl)
theorem uunary (f : UnaryFn) (d : Reg) (a : Reg) : Statement (.uunary f d a) := by
  intro w hw he
  apply decode_of_readFields hw he
  obtain rfl := Option.some.inj he
  cases f <;>
    exact read_encA (by decide) (by decide) (by decide) (by have := d.isLt; omega) (by have := a.isLt; omega) (by decide) fun w P C O D A B => by obtain rfl := regAt_eq D; obtain rfl := regAt_eq A; (unfold readFields; simp only [P, C, O]; unfold readA; simp only [B]; rfl)
theorem shfl (m : ShflMode) (d : Reg) (a : Reg) (b : Reg) : Statement (.shfl m d a b) := by
  intro w hw he
  apply decode_of_readFields hw he
  obtain rfl := Option.some.inj he
  cases m <;>
    exact read_encA (by decide) (by decide) (by decide) (by have := d.isLt; omega) (by have := a.isLt; omega) (by have := b.isLt; omega) fun w P C O D A B => by obtain rfl := regAt_eq D; obtain rfl := regAt_eq A; obtain rfl : regAt w 0 = b := regAt_eq (by have := B; have := (b : Reg).isLt; omega); (unfold readFields; simp only [P, C, O]; rfl)
theorem bcast (d : Reg) (a : Reg) (b : Reg) : Statement (.bcast d a b) := by
  intro w hw he
  apply decode_of_readFields hw he
  obtain rfl := Option.some.inj he
  exact read_encA (by decide) (by decide) (by decide) (by have := d.isLt; omega) (by have := a.isLt; omega) (by have := b.isLt; omega) fun w P C O D A B => by obtain rfl := regAt_eq D; obtain rfl := regAt_eq A; obtain rfl : regAt w 0 = b := regAt_eq (by have := B; have := (b : Reg).isLt; omega); (unfold readFields; simp only [P, C, O]; rfl)
theorem vote (f : VoteFn) (d : Reg) (a : Reg) : Statement (.vote f d a) := by
  intro w hw he
  apply decode_of_readFields hw he
  obtain rfl := Option.some.inj he
  cases f <;>
    exact read_encA (by decide) (by decide) (by decide) (by have := d.isLt; omega) (by have := a.isLt; omega) (by decide) fun w P C O D A B => by obtain rfl := regAt_eq D; obtain rfl := regAt_eq A; (unfold readFields; simp only [P, C, O]; unfold readA; simp only [B]; rfl)
theorem matchv (wide : Bool) (d : Reg) (a : Reg) : Statement (.matchv wide d a) := by
  intro w hw he
  apply decode_of_readFields hw he
  obtain rfl := Option.some.inj he
  cases wide <;>
    exact read_encA (by decide) (by decide) (by decide) (by have := d.isLt; omega) (by have := a.isLt; omega) (by decide) fun w P C O D A B => by obtain rfl := regAt_eq D; obtain rfl := regAt_eq A; (unfold readFields; simp only [P, C, O]; rfl)
theorem wred (f : WaveFn) (d : Reg) (a : Reg) : Statement (.wred f d a) := by
  intro w hw he
  apply decode_of_readFields hw he
  obtain rfl := Option.some.inj he
  cases f <;>
    exact read_encA (by decide) (by decide) (by decide) (by have := d.isLt; omega) (by have := a.isLt; omega) (by decide) fun w P C O D A B => by obtain rfl := regAt_eq D; obtain rfl := regAt_eq A; (unfold readFields; simp only [P, C, O]; unfold readA; simp only [B]; rfl)
theorem wscan (f : WaveFn) (d : Reg) (a : Reg) : Statement (.wscan f d a) := by
  intro w hw he
  apply decode_of_readFields hw he
  obtain rfl := Option.some.inj he
  cases f <;>
    exact read_encA (by decide) (by decide) (by decide) (by have := d.isLt; omega) (by have := a.isLt; omega) (by decide) fun w P C O D A B => by obtain rfl := regAt_eq D; obtain rfl := regAt_eq A; (unfold readFields; simp only [P, C, O]; unfold readA; simp only [B]; rfl)
theorem qswz (f : QswzFn) (d : Reg) (a : Reg) : Statement (.qswz f d a) := by
  intro w hw he
  apply decode_of_readFields hw he
  obtain rfl := Option.some.inj he
  cases f <;>
    exact read_encA (by decide) (by decide) (by decide) (by have := d.isLt; omega) (by have := a.isLt; omega) (by decide) fun w P C O D A B => by obtain rfl := regAt_eq D; obtain rfl := regAt_eq A; (unfold readFields; simp only [P, C, O]; unfold readA; simp only [B]; rfl)
theorem rds (d : Reg) (index : BitVec 7) : Statement (.rds d index) := by
  intro w hw he
  apply decode_of_readFields hw he
  obtain rfl := Option.some.inj he
  exact read_encA (by decide) (by decide) (by decide) (by have := d.isLt; omega) (by decide) (by have := index.isLt; omega) fun w P C O D A B => by obtain rfl := regAt_eq D; obtain rfl : regAt w 0 = index := regAt_eq (by have := B; have := (index : Reg).isLt; omega); (unfold readFields; simp only [P, C, O]; rfl)
theorem urds (d : Reg) (index : BitVec 7) : Statement (.urds d index) := by
  intro w hw he
  apply decode_of_readFields hw he
  obtain rfl := Option.some.inj he
  exact read_encA (by decide) (by decide) (by decide) (by have := d.isLt; omega) (by decide) (by have := index.isLt; omega) fun w P C O D A B => by obtain rfl := regAt_eq D; obtain rfl : regAt w 0 = index := regAt_eq (by have := B; have := (index : Reg).isLt; omega); (unfold readFields; simp only [P, C, O]; rfl)
theorem wrs (a : Reg) (index : BitVec 7) : Statement (.wrs a index) := by
  intro w hw he
  apply decode_of_readFields hw he
  obtain rfl := Option.some.inj he
  exact read_encA (by decide) (by decide) (by decide) (by decide) (by have := a.isLt; omega) (by have := index.isLt; omega) fun w P C O D A B => by obtain rfl := regAt_eq A; obtain rfl : regAt w 0 = index := regAt_eq (by have := B; have := (index : Reg).isLt; omega); (unfold readFields; simp only [P, C, O]; rfl)
theorem uwrs (a : Reg) (index : BitVec 7) : Statement (.uwrs a index) := by
  intro w hw he
  apply decode_of_readFields hw he
  obtain rfl := Option.some.inj he
  exact read_encA (by decide) (by decide) (by decide) (by decide) (by have := a.isLt; omega) (by have := index.isLt; omega) fun w P C O D A B => by obtain rfl := regAt_eq A; obtain rfl : regAt w 0 = index := regAt_eq (by have := B; have := (index : Reg).isLt; omega); (unfold readFields; simp only [P, C, O]; rfl)
theorem flgrd (d : Reg) : Statement (.flgrd d) := by
  intro w hw he
  apply decode_of_readFields hw he
  obtain rfl := Option.some.inj he
  exact read_encA (by decide) (by decide) (by decide) (by have := d.isLt; omega) (by decide) (by decide) fun w P C O D A B => by obtain rfl := regAt_eq D; (unfold readFields; simp only [P, C, O]; rfl)
theorem uflgrd (d : Reg) : Statement (.uflgrd d) := by
  intro w hw he
  apply decode_of_readFields hw he
  obtain rfl := Option.some.inj he
  exact read_encA (by decide) (by decide) (by decide) (by have := d.isLt; omega) (by decide) (by decide) fun w P C O D A B => by obtain rfl := regAt_eq D; (unfold readFields; simp only [P, C, O]; rfl)
theorem fp32Arith (o : FpOp) (d : Reg) (a : Reg) (b : Reg) : Statement (.fp32Arith o d a b) := by
  intro w hw he
  apply decode_of_readFields hw he
  obtain rfl := Option.some.inj he
  cases o <;>
    exact read_encA (by decide) (by decide) (by decide) (by have := d.isLt; omega) (by have := a.isLt; omega) (by have := b.isLt; omega) fun w P C O D A B => by obtain rfl := regAt_eq D; obtain rfl := regAt_eq A; obtain rfl : regAt w 0 = b := regAt_eq (by have := B; have := (b : Reg).isLt; omega); (unfold readFields; simp only [P, C, O]; rfl)
theorem ufp32Arith (o : FpOp) (d : Reg) (a : Reg) (b : Reg) : Statement (.ufp32Arith o d a b) := by
  intro w hw he
  apply decode_of_readFields hw he
  obtain rfl := Option.some.inj he
  cases o <;>
    exact read_encA (by decide) (by decide) (by decide) (by have := d.isLt; omega) (by have := a.isLt; omega) (by have := b.isLt; omega) fun w P C O D A B => by obtain rfl := regAt_eq D; obtain rfl := regAt_eq A; obtain rfl : regAt w 0 = b := regAt_eq (by have := B; have := (b : Reg).isLt; omega); (unfold readFields; simp only [P, C, O]; rfl)
theorem fp64Arith (o : FpOp) (d : Reg) (a : Reg) (b : Reg) : Statement (.fp64Arith o d a b) := by
  intro w hw he
  apply decode_of_readFields hw he
  obtain rfl := Option.some.inj he
  cases o <;>
    exact read_encA (by decide) (by decide) (by decide) (by have := d.isLt; omega) (by have := a.isLt; omega) (by have := b.isLt; omega) fun w P C O D A B => by obtain rfl := regAt_eq D; obtain rfl := regAt_eq A; obtain rfl : regAt w 0 = b := regAt_eq (by have := B; have := (b : Reg).isLt; omega); (unfold readFields; simp only [P, C, O]; rfl)
theorem ufp64Arith (o : FpOp) (d : Reg) (a : Reg) (b : Reg) : Statement (.ufp64Arith o d a b) := by
  intro w hw he
  apply decode_of_readFields hw he
  obtain rfl := Option.some.inj he
  cases o <;>
    exact read_encA (by decide) (by decide) (by decide) (by have := d.isLt; omega) (by have := a.isLt; omega) (by have := b.isLt; omega) fun w P C O D A B => by obtain rfl := regAt_eq D; obtain rfl := regAt_eq A; obtain rfl : regAt w 0 = b := regAt_eq (by have := B; have := (b : Reg).isLt; omega); (unfold readFields; simp only [P, C, O]; rfl)
theorem packedHalf (o : HalfOp) (d : Reg) (a : Reg) (b : Reg) : Statement (.packedHalf o d a b) := by
  intro w hw he
  apply decode_of_readFields hw he
  obtain rfl := Option.some.inj he
  cases o <;>
    exact read_encA (by decide) (by decide) (by decide) (by have := d.isLt; omega) (by have := a.isLt; omega) (by have := b.isLt; omega) fun w P C O D A B => by obtain rfl := regAt_eq D; obtain rfl := regAt_eq A; obtain rfl : regAt w 0 = b := regAt_eq (by have := B; have := (b : Reg).isLt; omega); (unfold readFields; simp only [P, C, O]; rfl)
theorem dot4 (f : Dot4Fmt) (d : Reg) (a : Reg) (b : Reg) : Statement (.dot4 f d a b) := by
  intro w hw he
  apply decode_of_readFields hw he
  obtain rfl := Option.some.inj he
  cases f <;>
    exact read_encA (by decide) (by decide) (by decide) (by have := d.isLt; omega) (by have := a.isLt; omega) (by have := b.isLt; omega) fun w P C O D A B => by obtain rfl := regAt_eq D; obtain rfl := regAt_eq A; obtain rfl : regAt w 0 = b := regAt_eq (by have := B; have := (b : Reg).isLt; omega); (unfold readFields; simp only [P, C, O]; rfl)
theorem fpCompare (wide : Bool) (c : FpCmp) (d : Reg) (a : Reg) (b : Reg) : Statement (.fpCompare wide c d a b) := by
  intro w hw he
  apply decode_of_readFields hw he
  obtain rfl := Option.some.inj he
  cases wide <;> cases c <;>
    exact read_encA (by decide) (by decide) (by decide) (by have := d.isLt; omega) (by have := a.isLt; omega) (by have := b.isLt; omega) fun w P C O D A B => by obtain rfl := regAt_eq D; obtain rfl := regAt_eq A; obtain rfl : regAt w 0 = b := regAt_eq (by have := B; have := (b : Reg).isLt; omega); (unfold readFields; simp only [P, C, O]; rfl)
theorem ufpCompare (wide : Bool) (c : FpCmp) (d : Reg) (a : Reg) (b : Reg) : Statement (.ufpCompare wide c d a b) := by
  intro w hw he
  apply decode_of_readFields hw he
  obtain rfl := Option.some.inj he
  cases wide <;> cases c <;>
    exact read_encA (by decide) (by decide) (by decide) (by have := d.isLt; omega) (by have := a.isLt; omega) (by have := b.isLt; omega) fun w P C O D A B => by obtain rfl := regAt_eq D; obtain rfl := regAt_eq A; obtain rfl : regAt w 0 = b := regAt_eq (by have := B; have := (b : Reg).isLt; omega); (unfold readFields; simp only [P, C, O]; rfl)
theorem fp32Function (f : FpFn) (d : Reg) (a : Reg) : Statement (.fp32Function f d a) := by
  intro w hw he
  apply decode_of_readFields hw he
  obtain rfl := Option.some.inj he
  cases f <;>
    exact read_encA (by decide) (by decide) (by decide) (by have := d.isLt; omega) (by have := a.isLt; omega) (by decide) fun w P C O D A B => by obtain rfl := regAt_eq D; obtain rfl := regAt_eq A; (unfold readFields; simp only [P, C, O]; unfold readF; simp only [B]; rfl)
theorem ufp32Function (f : FpFn) (d : Reg) (a : Reg) : Statement (.ufp32Function f d a) := by
  intro w hw he
  apply decode_of_readFields hw he
  obtain rfl := Option.some.inj he
  cases f <;>
    exact read_encA (by decide) (by decide) (by decide) (by have := d.isLt; omega) (by have := a.isLt; omega) (by decide) fun w P C O D A B => by obtain rfl := regAt_eq D; obtain rfl := regAt_eq A; (unfold readFields; simp only [P, C, O]; unfold readF; simp only [B]; rfl)
theorem fp64Function (f : FpFn) (d : Reg) (a : Reg) : Statement (.fp64Function f d a) := by
  intro w hw he
  apply decode_of_readFields hw he
  obtain rfl := Option.some.inj he
  cases f <;> first | exact Bool.noConfusion hw |
    exact read_encA (by decide) (by decide) (by decide) (by have := d.isLt; omega) (by have := a.isLt; omega) (by decide) fun w P C O D A B => by obtain rfl := regAt_eq D; obtain rfl := regAt_eq A; (unfold readFields; simp only [P, C, O]; unfold readF; simp only [B]; rfl)
theorem ufp64Function (f : FpFn) (d : Reg) (a : Reg) : Statement (.ufp64Function f d a) := by
  intro w hw he
  apply decode_of_readFields hw he
  obtain rfl := Option.some.inj he
  cases f <;> first | exact Bool.noConfusion hw |
    exact read_encA (by decide) (by decide) (by decide) (by have := d.isLt; omega) (by have := a.isLt; omega) (by decide) fun w P C O D A B => by obtain rfl := regAt_eq D; obtain rfl := regAt_eq A; (unfold readFields; simp only [P, C, O]; unfold readF; simp only [B]; rfl)
theorem cvt (c : CvtCode) (d : Reg) (a : Reg) : Statement (.cvt c d a) := by
  intro w hw he
  have hr := hw
  simp [Instr.wellFormed, cvtTable] at hr
  apply decode_of_readFields hw he
  obtain rfl := Option.some.inj he
  clear he hw
  rcases hr with rfl | rfl | rfl | rfl | rfl | rfl | rfl | rfl | rfl | rfl | rfl | rfl | rfl | rfl | rfl | rfl | rfl | rfl | rfl | rfl | rfl | rfl | rfl | rfl | rfl | rfl | rfl | rfl | rfl | rfl | rfl | rfl | rfl | rfl | rfl | rfl <;>
    exact read_encA (by decide) (by decide) (by decide) (by have := d.isLt; omega) (by have := a.isLt; omega) (by decide) fun w P C O D A B => by obtain rfl := regAt_eq D; obtain rfl := regAt_eq A; (unfold readFields; simp only [P, C, O]; unfold readF; simp only [B]; rfl)
theorem ucvt (c : CvtCode) (d : Reg) (a : Reg) : Statement (.ucvt c d a) := by
  intro w hw he
  have hr := hw
  simp [Instr.wellFormed, cvtTable] at hr
  apply decode_of_readFields hw he
  obtain rfl := Option.some.inj he
  clear he hw
  rcases hr with rfl | rfl | rfl | rfl | rfl | rfl | rfl | rfl | rfl | rfl | rfl | rfl | rfl | rfl | rfl | rfl | rfl | rfl | rfl | rfl | rfl | rfl | rfl | rfl | rfl | rfl | rfl | rfl | rfl | rfl | rfl | rfl | rfl | rfl | rfl | rfl <;>
    exact read_encA (by decide) (by decide) (by decide) (by have := d.isLt; omega) (by have := a.isLt; omega) (by decide) fun w P C O D A B => by obtain rfl := regAt_eq D; obtain rfl := regAt_eq A; (unfold readFields; simp only [P, C, O]; unfold readF; simp only [B]; rfl)
theorem pack (f : PackFmt) (d : Reg) (a : Reg) (b : Reg) : Statement (.pack f d a b) := by
  intro w hw he
  apply decode_of_readFields hw he
  obtain rfl := Option.some.inj he
  cases f <;>
    exact read_encA (by decide) (by decide) (by decide) (by have := d.isLt; omega) (by have := a.isLt; omega) (by have := b.isLt; omega) fun w P C O D A B => by obtain rfl := regAt_eq D; obtain rfl := regAt_eq A; obtain rfl : regAt w 0 = b := regAt_eq (by have := B; have := (b : Reg).isLt; omega); (unfold readFields; simp only [P, C, O]; rfl)
theorem fscl (wide : Bool) (d : Reg) (a : Reg) (b : Reg) : Statement (.fscl wide d a b) := by
  intro w hw he
  apply decode_of_readFields hw he
  obtain rfl := Option.some.inj he
  cases wide <;>
    exact read_encA (by decide) (by decide) (by decide) (by have := d.isLt; omega) (by have := a.isLt; omega) (by have := b.isLt; omega) fun w P C O D A B => by obtain rfl := regAt_eq D; obtain rfl := regAt_eq A; obtain rfl : regAt w 0 = b := regAt_eq (by have := B; have := (b : Reg).isLt; omega); (unfold readFields; simp only [P, C, O]; rfl)
theorem ufscl (wide : Bool) (d : Reg) (a : Reg) (b : Reg) : Statement (.ufscl wide d a b) := by
  intro w hw he
  apply decode_of_readFields hw he
  obtain rfl := Option.some.inj he
  cases wide <;>
    exact read_encA (by decide) (by decide) (by decide) (by have := d.isLt; omega) (by have := a.isLt; omega) (by have := b.isLt; omega) fun w P C O D A B => by obtain rfl := regAt_eq D; obtain rfl := regAt_eq A; obtain rfl : regAt w 0 = b := regAt_eq (by have := B; have := (b : Reg).isLt; omega); (unfold readFields; simp only [P, C, O]; rfl)
theorem immediate (o : ImmOp) (d : Reg) (imm : BitVec 16) : Statement (.immediate o d imm) := by
  intro w hw he
  apply decode_of_readFields hw he
  obtain rfl := Option.some.inj he
  cases o <;>
    exact read_encI (by decide) (by decide) (by have := d.isLt; omega) (by have := imm.isLt; omega) fun w P C O D X => by obtain rfl := regAt_eq D; obtain rfl := ofNat_eq (m := 16) (by decide) X; (unfold readFields; simp only [P, C]; unfold readI; simp only [O]; rfl)
theorem uimmediate (o : ImmOp) (d : Reg) (imm : BitVec 16) : Statement (.uimmediate o d imm) := by
  intro w hw he
  apply decode_of_readFields hw he
  obtain rfl := Option.some.inj he
  cases o <;>
    exact read_encI (by decide) (by decide) (by have := d.isLt; omega) (by have := imm.isLt; omega) fun w P C O D X => by obtain rfl := regAt_eq D; obtain rfl := ofNat_eq (m := 16) (by decide) X; (unfold readFields; simp only [P, C]; unfold readI; simp only [O]; rfl)
theorem ldg (wide : Bool) (d : Reg) (a : Reg) (off : BitVec 10) : Statement (.ldg wide d a off) := by
  intro w hw he
  apply decode_of_readFields hw he
  obtain rfl := Option.some.inj he
  cases wide <;>
    exact read_encM (by decide) (by decide) (by have := d.isLt; omega) (by have := a.isLt; omega) (by have := off.isLt; omega) fun w P C O D A X => by obtain rfl := regAt_eq D; obtain rfl := regAt_eq A; obtain rfl := ofNat_eq (m := 10) (by decide) X; (unfold readFields; simp only [P, C]; unfold readM; simp only [O]; rfl)
theorem uldg (wide : Bool) (d : Reg) (a : Reg) (off : BitVec 10) : Statement (.uldg wide d a off) := by
  intro w hw he
  apply decode_of_readFields hw he
  obtain rfl := Option.some.inj he
  cases wide <;>
    exact read_encM (by decide) (by decide) (by have := d.isLt; omega) (by have := a.isLt; omega) (by have := off.isLt; omega) fun w P C O D A X => by obtain rfl := regAt_eq D; obtain rfl := regAt_eq A; obtain rfl := ofNat_eq (m := 10) (by decide) X; (unfold readFields; simp only [P, C]; unfold readM; simp only [O]; rfl)
theorem stg (wide : Bool) (src : Reg) (a : Reg) (off : BitVec 10) : Statement (.stg wide src a off) := by
  intro w hw he
  apply decode_of_readFields hw he
  obtain rfl := Option.some.inj he
  cases wide <;>
    exact read_encM (by decide) (by decide) (by have := src.isLt; omega) (by have := a.isLt; omega) (by have := off.isLt; omega) fun w P C O D A X => by obtain rfl := regAt_eq D; obtain rfl := regAt_eq A; obtain rfl := ofNat_eq (m := 10) (by decide) X; (unfold readFields; simp only [P, C]; unfold readM; simp only [O]; rfl)
theorem ustg (wide : Bool) (src : Reg) (a : Reg) (off : BitVec 10) : Statement (.ustg wide src a off) := by
  intro w hw he
  apply decode_of_readFields hw he
  obtain rfl := Option.some.inj he
  cases wide <;>
    exact read_encM (by decide) (by decide) (by have := src.isLt; omega) (by have := a.isLt; omega) (by have := off.isLt; omega) fun w P C O D A X => by obtain rfl := regAt_eq D; obtain rfl := regAt_eq A; obtain rfl := ofNat_eq (m := 10) (by decide) X; (unfold readFields; simp only [P, C]; unfold readM; simp only [O]; rfl)
theorem lds (w : MemWidth) (d : Reg) (a : Reg) (off : BitVec 10) : Statement (.lds w d a off) := by
  intro w hw he
  apply decode_of_readFields hw he
  obtain rfl := Option.some.inj he
  cases w <;>
    exact read_encM (by decide) (by decide) (by have := d.isLt; omega) (by have := a.isLt; omega) (by have := off.isLt; omega) fun w P C O D A X => by obtain rfl := regAt_eq D; obtain rfl := regAt_eq A; obtain rfl := ofNat_eq (m := 10) (by decide) X; (unfold readFields; simp only [P, C]; unfold readM; simp only [O]; rfl)
theorem ulds (w : MemWidth) (d : Reg) (a : Reg) (off : BitVec 10) : Statement (.ulds w d a off) := by
  intro w hw he
  apply decode_of_readFields hw he
  obtain rfl := Option.some.inj he
  cases w <;>
    exact read_encM (by decide) (by decide) (by have := d.isLt; omega) (by have := a.isLt; omega) (by have := off.isLt; omega) fun w P C O D A X => by obtain rfl := regAt_eq D; obtain rfl := regAt_eq A; obtain rfl := ofNat_eq (m := 10) (by decide) X; (unfold readFields; simp only [P, C]; unfold readM; simp only [O]; rfl)
theorem sts (w : MemWidth) (src : Reg) (a : Reg) (off : BitVec 10) : Statement (.sts w src a off) := by
  intro w hw he
  apply decode_of_readFields hw he
  obtain rfl := Option.some.inj he
  cases w <;>
    exact read_encM (by decide) (by decide) (by have := src.isLt; omega) (by have := a.isLt; omega) (by have := off.isLt; omega) fun w P C O D A X => by obtain rfl := regAt_eq D; obtain rfl := regAt_eq A; obtain rfl := ofNat_eq (m := 10) (by decide) X; (unfold readFields; simp only [P, C]; unfold readM; simp only [O]; rfl)
theorem usts (w : MemWidth) (src : Reg) (a : Reg) (off : BitVec 10) : Statement (.usts w src a off) := by
  intro w hw he
  apply decode_of_readFields hw he
  obtain rfl := Option.some.inj he
  cases w <;>
    exact read_encM (by decide) (by decide) (by have := src.isLt; omega) (by have := a.isLt; omega) (by have := off.isLt; omega) fun w P C O D A X => by obtain rfl := regAt_eq D; obtain rfl := regAt_eq A; obtain rfl := ofNat_eq (m := 10) (by decide) X; (unfold readFields; simp only [P, C]; unfold readM; simp only [O]; rfl)
theorem spl (d : Reg) (a : Reg) (off : BitVec 10) : Statement (.spl d a off) := by
  intro w hw he
  apply decode_of_readFields hw he
  obtain rfl := Option.some.inj he
  exact read_encM (by decide) (by decide) (by have := d.isLt; omega) (by have := a.isLt; omega) (by have := off.isLt; omega) fun w P C O D A X => by obtain rfl := regAt_eq D; obtain rfl := regAt_eq A; obtain rfl := ofNat_eq (m := 10) (by decide) X; (unfold readFields; simp only [P, C]; unfold readM; simp only [O]; rfl)
theorem uspl (d : Reg) (a : Reg) (off : BitVec 10) : Statement (.uspl d a off) := by
  intro w hw he
  apply decode_of_readFields hw he
  obtain rfl := Option.some.inj he
  exact read_encM (by decide) (by decide) (by have := d.isLt; omega) (by have := a.isLt; omega) (by have := off.isLt; omega) fun w P C O D A X => by obtain rfl := regAt_eq D; obtain rfl := regAt_eq A; obtain rfl := ofNat_eq (m := 10) (by decide) X; (unfold readFields; simp only [P, C]; unfold readM; simp only [O]; rfl)
theorem sps (src : Reg) (a : Reg) (off : BitVec 10) : Statement (.sps src a off) := by
  intro w hw he
  apply decode_of_readFields hw he
  obtain rfl := Option.some.inj he
  exact read_encM (by decide) (by decide) (by have := src.isLt; omega) (by have := a.isLt; omega) (by have := off.isLt; omega) fun w P C O D A X => by obtain rfl := regAt_eq D; obtain rfl := regAt_eq A; obtain rfl := ofNat_eq (m := 10) (by decide) X; (unfold readFields; simp only [P, C]; unfold readM; simp only [O]; rfl)
theorem usps (src : Reg) (a : Reg) (off : BitVec 10) : Statement (.usps src a off) := by
  intro w hw he
  apply decode_of_readFields hw he
  obtain rfl := Option.some.inj he
  exact read_encM (by decide) (by decide) (by have := src.isLt; omega) (by have := a.isLt; omega) (by have := off.isLt; omega) fun w P C O D A X => by obtain rfl := regAt_eq D; obtain rfl := regAt_eq A; obtain rfl := ofNat_eq (m := 10) (by decide) X; (unfold readFields; simp only [P, C]; unfold readM; simp only [O]; rfl)
theorem mwait (d : Reg) (a : Reg) (off : BitVec 10) : Statement (.mwait d a off) := by
  intro w hw he
  apply decode_of_readFields hw he
  obtain rfl := Option.some.inj he
  exact read_encM (by decide) (by decide) (by have := d.isLt; omega) (by have := a.isLt; omega) (by have := off.isLt; omega) fun w P C O D A X => by obtain rfl := regAt_eq D; obtain rfl := regAt_eq A; obtain rfl := ofNat_eq (m := 10) (by decide) X; (unfold readFields; simp only [P, C]; unfold readM; simp only [O]; rfl)
theorem ldgxStsx (o : IdxOp) (d : Reg) (a : Reg) (b : Reg) : Statement (.ldgxStsx o d a b) := by
  intro w hw he
  apply decode_of_readFields hw he
  obtain rfl := Option.some.inj he
  cases o <;>
    exact read_encA (by decide) (by decide) (by decide) (by have := d.isLt; omega) (by have := a.isLt; omega) (by have := b.isLt; omega) fun w P C O D A B => by obtain rfl := regAt_eq D; obtain rfl := regAt_eq A; obtain rfl : regAt w 0 = b := regAt_eq (by have := B; have := (b : Reg).isLt; omega); (unfold readFields; simp only [P, C, O]; rfl)
theorem owr (k : BitVec 4) (a : Reg) (b : Reg) : Statement (.owr k a b) := by
  intro w hw he
  apply decode_of_readFields hw he
  obtain rfl := Option.some.inj he
  exact read_encA (by decide) (by decide) (by decide) (by have := k.isLt; omega) (by have := a.isLt; omega) (by have := b.isLt; omega) fun w P C O D A B => by obtain rfl := ofNat_eq (m := 7) (by decide) D; obtain rfl := regAt_eq A; obtain rfl : regAt w 0 = b := regAt_eq (by have := B; have := (b : Reg).isLt; omega); (unfold readFields; simp only [P, C, O]; rfl)
theorem ord (d : Reg) (a : Reg) (b : Reg) : Statement (.ord d a b) := by
  intro w hw he
  apply decode_of_readFields hw he
  obtain rfl := Option.some.inj he
  exact read_encA (by decide) (by decide) (by decide) (by have := d.isLt; omega) (by have := a.isLt; omega) (by have := b.isLt; omega) fun w P C O D A B => by obtain rfl := regAt_eq D; obtain rfl := regAt_eq A; obtain rfl : regAt w 0 = b := regAt_eq (by have := B; have := (b : Reg).isLt; omega); (unfold readFields; simp only [P, C, O]; rfl)
theorem sample (d : Reg) (a : Reg) (b : Reg) : Statement (.sample d a b) := by
  intro w hw he
  apply decode_of_readFields hw he
  obtain rfl := Option.some.inj he
  exact read_encA (by decide) (by decide) (by decide) (by have := d.isLt; omega) (by have := a.isLt; omega) (by have := b.isLt; omega) fun w P C O D A B => by obtain rfl := regAt_eq D; obtain rfl := regAt_eq A; obtain rfl : regAt w 0 = b := regAt_eq (by have := B; have := (b : Reg).isLt; omega); (unfold readFields; simp only [P, C, O]; rfl)
theorem samplel (d : Reg) (a : Reg) (b : Reg) : Statement (.samplel d a b) := by
  intro w hw he
  apply decode_of_readFields hw he
  obtain rfl := Option.some.inj he
  exact read_encA (by decide) (by decide) (by decide) (by have := d.isLt; omega) (by have := a.isLt; omega) (by have := b.isLt; omega) fun w P C O D A B => by obtain rfl := regAt_eq D; obtain rfl := regAt_eq A; obtain rfl : regAt w 0 = b := regAt_eq (by have := B; have := (b : Reg).isLt; omega); (unfold readFields; simp only [P, C, O]; rfl)
theorem sampleg (d : Reg) (a : Reg) (b : Reg) : Statement (.sampleg d a b) := by
  intro w hw he
  apply decode_of_readFields hw he
  obtain rfl := Option.some.inj he
  exact read_encA (by decide) (by decide) (by decide) (by have := d.isLt; omega) (by have := a.isLt; omega) (by have := b.isLt; omega) fun w P C O D A B => by obtain rfl := regAt_eq D; obtain rfl := regAt_eq A; obtain rfl : regAt w 0 = b := regAt_eq (by have := B; have := (b : Reg).isLt; omega); (unfold readFields; simp only [P, C, O]; rfl)
theorem gath4 (d : Reg) (a : Reg) (b : Reg) : Statement (.gath4 d a b) := by
  intro w hw he
  apply decode_of_readFields hw he
  obtain rfl := Option.some.inj he
  exact read_encA (by decide) (by decide) (by decide) (by have := d.isLt; omega) (by have := a.isLt; omega) (by have := b.isLt; omega) fun w P C O D A B => by obtain rfl := regAt_eq D; obtain rfl := regAt_eq A; obtain rfl : regAt w 0 = b := regAt_eq (by have := B; have := (b : Reg).isLt; omega); (unfold readFields; simp only [P, C, O]; rfl)
theorem txq (d : Reg) (a : Reg) (b : Reg) : Statement (.txq d a b) := by
  intro w hw he
  apply decode_of_readFields hw he
  obtain rfl := Option.some.inj he
  exact read_encA (by decide) (by decide) (by decide) (by have := d.isLt; omega) (by have := a.isLt; omega) (by have := b.isLt; omega) fun w P C O D A B => by obtain rfl := regAt_eq D; obtain rfl := regAt_eq A; obtain rfl : regAt w 0 = b := regAt_eq (by have := B; have := (b : Reg).isLt; omega); (unfold readFields; simp only [P, C, O]; rfl)
theorem trace (d : Reg) (a : Reg) (b : Reg) : Statement (.trace d a b) := by
  intro w hw he
  apply decode_of_readFields hw he
  obtain rfl := Option.some.inj he
  exact read_encA (by decide) (by decide) (by decide) (by have := d.isLt; omega) (by have := a.isLt; omega) (by have := b.isLt; omega) fun w P C O D A B => by obtain rfl := regAt_eq D; obtain rfl := regAt_eq A; obtain rfl : regAt w 0 = b := regAt_eq (by have := B; have := (b : Reg).isLt; omega); (unfold readFields; simp only [P, C, O]; rfl)
theorem resume (op : Reg) (a : Reg) (b : Reg) : Statement (.resume op a b) := by
  intro w hw he
  apply decode_of_readFields hw he
  obtain rfl := Option.some.inj he
  exact read_encA (by decide) (by decide) (by decide) (by have := op.isLt; omega) (by have := a.isLt; omega) (by have := b.isLt; omega) fun w P C O D A B => by obtain rfl := regAt_eq D; obtain rfl := regAt_eq A; obtain rfl : regAt w 0 = b := regAt_eq (by have := B; have := (b : Reg).isLt; omega); (unfold readFields; simp only [P, C, O]; rfl)
theorem hitr (d : Reg) (a : Reg) (f : BitVec 7) : Statement (.hitr d a f) := by
  intro w hw he
  apply decode_of_readFields hw he
  obtain rfl := Option.some.inj he
  exact read_encA (by decide) (by decide) (by decide) (by have := d.isLt; omega) (by have := a.isLt; omega) (by have := f.isLt; omega) fun w P C O D A B => by obtain rfl := regAt_eq D; obtain rfl := regAt_eq A; obtain rfl : regAt w 0 = f := regAt_eq (by have := B; have := (f : Reg).isLt; omega); (unfold readFields; simp only [P, C, O]; rfl)
theorem qsamp (d : Reg) (a : Reg) (b : Reg) : Statement (.qsamp d a b) := by
  intro w hw he
  apply decode_of_readFields hw he
  obtain rfl := Option.some.inj he
  exact read_encA (by decide) (by decide) (by decide) (by have := d.isLt; omega) (by have := a.isLt; omega) (by have := b.isLt; omega) fun w P C O D A B => by obtain rfl := regAt_eq D; obtain rfl := regAt_eq A; obtain rfl : regAt w 0 = b := regAt_eq (by have := B; have := (b : Reg).isLt; omega); (unfold readFields; simp only [P, C, O]; rfl)
theorem qraw (d : Reg) (a : Reg) (b : Reg) : Statement (.qraw d a b) := by
  intro w hw he
  apply decode_of_readFields hw he
  obtain rfl := Option.some.inj he
  exact read_encA (by decide) (by decide) (by decide) (by have := d.isLt; omega) (by have := a.isLt; omega) (by have := b.isLt; omega) fun w P C O D A B => by obtain rfl := regAt_eq D; obtain rfl := regAt_eq A; obtain rfl : regAt w 0 = b := regAt_eq (by have := B; have := (b : Reg).isLt; omega); (unfold readFields; simp only [P, C, O]; rfl)
theorem qsampd (d : Reg) (a : Reg) (b : Reg) : Statement (.qsampd d a b) := by
  intro w hw he
  apply decode_of_readFields hw he
  obtain rfl := Option.some.inj he
  exact read_encA (by decide) (by decide) (by decide) (by have := d.isLt; omega) (by have := a.isLt; omega) (by have := b.isLt; omega) fun w P C O D A B => by obtain rfl := regAt_eq D; obtain rfl := regAt_eq A; obtain rfl : regAt w 0 = b := regAt_eq (by have := B; have := (b : Reg).isLt; omega); (unfold readFields; simp only [P, C, O]; rfl)
theorem visq (d : Reg) (f : BitVec 7) : Statement (.visq d f) := by
  intro w hw he
  apply decode_of_readFields hw he
  obtain rfl := Option.some.inj he
  exact read_encA (by decide) (by decide) (by decide) (by have := d.isLt; omega) (by decide) (by have := f.isLt; omega) fun w P C O D A B => by obtain rfl := regAt_eq D; obtain rfl : regAt w 0 = f := regAt_eq (by have := B; have := (f : Reg).isLt; omega); (unfold readFields; simp only [P, C, O]; rfl)
theorem pixw (a : Reg) (b : Reg) : Statement (.pixw a b) := by
  intro w hw he
  apply decode_of_readFields hw he
  obtain rfl := Option.some.inj he
  exact read_encA (by decide) (by decide) (by decide) (by decide) (by have := a.isLt; omega) (by have := b.isLt; omega) fun w P C O D A B => by obtain rfl := regAt_eq A; obtain rfl : regAt w 0 = b := regAt_eq (by have := B; have := (b : Reg).isLt; omega); (unfold readFields; simp only [P, C, O]; rfl)
theorem srate (a : Reg) (b : Reg) : Statement (.srate a b) := by
  intro w hw he
  apply decode_of_readFields hw he
  obtain rfl := Option.some.inj he
  exact read_encA (by decide) (by decide) (by decide) (by decide) (by have := a.isLt; omega) (by have := b.isLt; omega) fun w P C O D A B => by obtain rfl := regAt_eq A; obtain rfl : regAt w 0 = b := regAt_eq (by have := B; have := (b : Reg).isLt; omega); (unfold readFields; simp only [P, C, O]; rfl)
theorem atom (o : AtomOp) (d : Reg) (a : Reg) (b : Reg) : Statement (.atom o d a b) := by
  intro w hw he
  apply decode_of_readFields hw he
  obtain rfl := Option.some.inj he
  cases o <;> first | exact Bool.noConfusion hw |
    exact read_encA (by decide) (by decide) (by decide) (by have := d.isLt; omega) (by have := a.isLt; omega) (by have := b.isLt; omega) fun w P C O D A B => by obtain rfl := regAt_eq D; obtain rfl := regAt_eq A; obtain rfl : regAt w 0 = b := regAt_eq (by have := B; have := (b : Reg).isLt; omega); (unfold readFields; simp only [P, C, O]; rfl)
theorem red (o : AtomOp) (a : Reg) (b : Reg) : Statement (.red o a b) := by
  intro w hw he
  apply decode_of_readFields hw he
  obtain rfl := Option.some.inj he
  cases o <;> first | exact Bool.noConfusion hw |
    exact read_encA (by decide) (by decide) (by decide) (by decide) (by have := a.isLt; omega) (by have := b.isLt; omega) fun w P C O D A B => by obtain rfl := regAt_eq A; obtain rfl : regAt w 0 = b := regAt_eq (by have := B; have := (b : Reg).isLt; omega); (unfold readFields; simp only [P, C, O]; rfl)
theorem cas (wide : Bool) (d : Reg) (a : Reg) (b : Reg) : Statement (.cas wide d a b) := by
  intro w hw he
  apply decode_of_readFields hw he
  obtain rfl := Option.some.inj he
  cases wide <;>
    exact read_encA (by decide) (by decide) (by decide) (by have := d.isLt; omega) (by have := a.isLt; omega) (by have := b.isLt; omega) fun w P C O D A B => by obtain rfl := regAt_eq D; obtain rfl := regAt_eq A; obtain rfl : regAt w 0 = b := regAt_eq (by have := B; have := (b : Reg).isLt; omega); (unfold readFields; simp only [P, C, O]; rfl)
theorem tkarg (d : Reg) (a : Reg) (b : Reg) : Statement (.tkarg d a b) := by
  intro w hw he
  apply decode_of_readFields hw he
  obtain rfl := Option.some.inj he
  exact read_encA (by decide) (by decide) (by decide) (by have := d.isLt; omega) (by have := a.isLt; omega) (by have := b.isLt; omega) fun w P C O D A B => by obtain rfl := regAt_eq D; obtain rfl := regAt_eq A; obtain rfl : regAt w 0 = b := regAt_eq (by have := B; have := (b : Reg).isLt; omega); (unfold readFields; simp only [P, C, O]; rfl)
theorem atom64 (o : AtomOp) (d : Reg) (a : Reg) (b : Reg) : Statement (.atom64 o d a b) := by
  intro w hw he
  apply decode_of_readFields hw he
  obtain rfl := Option.some.inj he
  cases o <;> first | exact Bool.noConfusion hw |
    exact read_encA (by decide) (by decide) (by decide) (by have := d.isLt; omega) (by have := a.isLt; omega) (by have := b.isLt; omega) fun w P C O D A B => by obtain rfl := regAt_eq D; obtain rfl := regAt_eq A; obtain rfl : regAt w 0 = b := regAt_eq (by have := B; have := (b : Reg).isLt; omega); (unfold readFields; simp only [P, C, O]; rfl)
theorem red64 (o : AtomOp) (a : Reg) (b : Reg) : Statement (.red64 o a b) := by
  intro w hw he
  apply decode_of_readFields hw he
  obtain rfl := Option.some.inj he
  cases o <;> first | exact Bool.noConfusion hw |
    exact read_encA (by decide) (by decide) (by decide) (by decide) (by have := a.isLt; omega) (by have := b.isLt; omega) fun w P C O D A B => by obtain rfl := regAt_eq A; obtain rfl : regAt w 0 = b := regAt_eq (by have := B; have := (b : Reg).isLt; omega); (unfold readFields; simp only [P, C, O]; rfl)
theorem cpy (a : Reg) : Statement (.cpy a) := by
  intro w hw he
  apply decode_of_readFields hw he
  obtain rfl := Option.some.inj he
  exact read_encA (by decide) (by decide) (by decide) (by decide) (by have := a.isLt; omega) (by decide) fun w P C O D A B => by obtain rfl := regAt_eq A; (unfold readFields; simp only [P, C, O]; rfl)
theorem cpyg (a : Reg) (b : Reg) : Statement (.cpyg a b) := by
  intro w hw he
  apply decode_of_readFields hw he
  obtain rfl := Option.some.inj he
  exact read_encA (by decide) (by decide) (by decide) (by decide) (by have := a.isLt; omega) (by have := b.isLt; omega) fun w P C O D A B => by obtain rfl := regAt_eq A; obtain rfl : regAt w 0 = b := regAt_eq (by have := B; have := (b : Reg).isLt; omega); (unfold readFields; simp only [P, C, O]; rfl)
theorem cpys (a : Reg) (b : Reg) : Statement (.cpys a b) := by
  intro w hw he
  apply decode_of_readFields hw he
  obtain rfl := Option.some.inj he
  exact read_encA (by decide) (by decide) (by decide) (by decide) (by have := a.isLt; omega) (by have := b.isLt; omega) fun w P C O D A B => by obtain rfl := regAt_eq A; obtain rfl : regAt w 0 = b := regAt_eq (by have := B; have := (b : Reg).isLt; omega); (unfold readFields; simp only [P, C, O]; rfl)
theorem close (d : Reg) : Statement (.close d) := by
  intro w hw he
  apply decode_of_readFields hw he
  obtain rfl := Option.some.inj he
  exact read_encA (by decide) (by decide) (by decide) (by have := d.isLt; omega) (by decide) (by decide) fun w P C O D A B => by obtain rfl := regAt_eq D; (unfold readFields; simp only [P, C, O]; rfl)
theorem waitb (d : Reg) (b : Reg) : Statement (.waitb d b) := by
  intro w hw he
  apply decode_of_readFields hw he
  obtain rfl := Option.some.inj he
  exact read_encA (by decide) (by decide) (by decide) (by have := d.isLt; omega) (by decide) (by have := b.isLt; omega) fun w P C O D A B => by obtain rfl := regAt_eq D; obtain rfl : regAt w 0 = b := regAt_eq (by have := B; have := (b : Reg).isLt; omega); (unfold readFields; simp only [P, C, O]; rfl)
theorem ores (k : BitVec 4) (a : Reg) (b : Reg) : Statement (.ores k a b) := by
  intro w hw he
  apply decode_of_readFields hw he
  obtain rfl := Option.some.inj he
  exact read_encA (by decide) (by decide) (by decide) (by have := k.isLt; omega) (by have := a.isLt; omega) (by have := b.isLt; omega) fun w P C O D A B => by obtain rfl := ofNat_eq (m := 7) (by decide) D; obtain rfl := regAt_eq A; obtain rfl : regAt w 0 = b := regAt_eq (by have := B; have := (b : Reg).isLt; omega); (unfold readFields; simp only [P, C, O]; rfl)
theorem orel (k : BitVec 4) : Statement (.orel k) := by
  intro w hw he
  apply decode_of_readFields hw he
  obtain rfl := Option.some.inj he
  exact read_encA (by decide) (by decide) (by decide) (by have := k.isLt; omega) (by decide) (by decide) fun w P C O D A B => by obtain rfl := ofNat_eq (m := 7) (by decide) D; (unfold readFields; simp only [P, C, O]; rfl)
theorem mma (t : BitVec 5) (a : Reg) (b : Reg) : Statement (.mma t a b) := by
  intro w hw he
  apply decode_of_readFields hw he
  obtain rfl := Option.some.inj he
  exact read_encA (by decide) (by decide) (by decide) (by have := t.isLt; omega) (by have := a.isLt; omega) (by have := b.isLt; omega) fun w P C O D A B => by obtain rfl := ofNat_eq (m := 7) (by decide) D; obtain rfl := regAt_eq A; obtain rfl : regAt w 0 = b := regAt_eq (by have := B; have := (b : Reg).isLt; omega); (unfold readFields; simp only [P, C, O]; rfl)
theorem mmac (t : BitVec 5) (a : Reg) (b : Reg) : Statement (.mmac t a b) := by
  intro w hw he
  apply decode_of_readFields hw he
  obtain rfl := Option.some.inj he
  exact read_encA (by decide) (by decide) (by decide) (by have := t.isLt; omega) (by have := a.isLt; omega) (by have := b.isLt; omega) fun w P C O D A B => by obtain rfl := ofNat_eq (m := 7) (by decide) D; obtain rfl := regAt_eq A; obtain rfl : regAt w 0 = b := regAt_eq (by have := B; have := (b : Reg).isLt; omega); (unfold readFields; simp only [P, C, O]; rfl)
theorem azero (t : BitVec 5) : Statement (.azero t) := by
  intro w hw he
  apply decode_of_readFields hw he
  obtain rfl := Option.some.inj he
  exact read_encA (by decide) (by decide) (by decide) (by have := t.isLt; omega) (by decide) (by decide) fun w P C O D A B => by obtain rfl := ofNat_eq (m := 7) (by decide) D; (unfold readFields; simp only [P, C, O]; rfl)
theorem adrain (t : BitVec 5) (a : Reg) (b : Reg) : Statement (.adrain t a b) := by
  intro w hw he
  apply decode_of_readFields hw he
  obtain rfl := Option.some.inj he
  exact read_encA (by decide) (by decide) (by decide) (by have := t.isLt; omega) (by have := a.isLt; omega) (by have := b.isLt; omega) fun w P C O D A B => by obtain rfl := ofNat_eq (m := 7) (by decide) D; obtain rfl := regAt_eq A; obtain rfl : regAt w 0 = b := regAt_eq (by have := B; have := (b : Reg).isLt; omega); (unfold readFields; simp only [P, C, O]; rfl)
theorem aload (t : BitVec 5) (a : Reg) (b : Reg) : Statement (.aload t a b) := by
  intro w hw he
  apply decode_of_readFields hw he
  obtain rfl := Option.some.inj he
  exact read_encA (by decide) (by decide) (by decide) (by have := t.isLt; omega) (by have := a.isLt; omega) (by have := b.isLt; omega) fun w P C O D A B => by obtain rfl := ofNat_eq (m := 7) (by decide) D; obtain rfl := regAt_eq A; obtain rfl : regAt w 0 = b := regAt_eq (by have := B; have := (b : Reg).isLt; omega); (unfold readFields; simp only [P, C, O]; rfl)
theorem msync (b : Reg) : Statement (.msync b) := by
  intro w hw he
  apply decode_of_readFields hw he
  obtain rfl := Option.some.inj he
  exact read_encA (by decide) (by decide) (by decide) (by decide) (by decide) (by have := b.isLt; omega) fun w P C O D A B => by obtain rfl : regAt w 0 = b := regAt_eq (by have := B; have := (b : Reg).isLt; omega); (unfold readFields; simp only [P, C, O]; rfl)
theorem hwait (k : BitVec 4) (b : Reg) : Statement (.hwait k b) := by
  intro w hw he
  apply decode_of_readFields hw he
  obtain rfl := Option.some.inj he
  exact read_encA (by decide) (by decide) (by decide) (by have := k.isLt; omega) (by decide) (by have := b.isLt; omega) fun w P C O D A B => by obtain rfl := ofNat_eq (m := 7) (by decide) D; obtain rfl : regAt w 0 = b := regAt_eq (by have := B; have := (b : Reg).isLt; omega); (unfold readFields; simp only [P, C, O]; rfl)
theorem send (d : Reg) (a : Reg) (b : Reg) : Statement (.send d a b) := by
  intro w hw he
  apply decode_of_readFields hw he
  obtain rfl := Option.some.inj he
  exact read_encA (by decide) (by decide) (by decide) (by have := d.isLt; omega) (by have := a.isLt; omega) (by have := b.isLt; omega) fun w P C O D A B => by obtain rfl := regAt_eq D; obtain rfl := regAt_eq A; obtain rfl : regAt w 0 = b := regAt_eq (by have := B; have := (b : Reg).isLt; omega); (unfold readFields; simp only [P, C, O]; rfl)
theorem recv (d : Reg) (a : Reg) (b : Reg) : Statement (.recv d a b) := by
  intro w hw he
  apply decode_of_readFields hw he
  obtain rfl := Option.some.inj he
  exact read_encA (by decide) (by decide) (by decide) (by have := d.isLt; omega) (by have := a.isLt; omega) (by have := b.isLt; omega) fun w P C O D A B => by obtain rfl := regAt_eq D; obtain rfl := regAt_eq A; obtain rfl : regAt w 0 = b := regAt_eq (by have := B; have := (b : Reg).isLt; omega); (unfold readFields; simp only [P, C, O]; rfl)
theorem nqack (a : Reg) (b : Reg) : Statement (.nqack a b) := by
  intro w hw he
  apply decode_of_readFields hw he
  obtain rfl := Option.some.inj he
  exact read_encA (by decide) (by decide) (by decide) (by decide) (by have := a.isLt; omega) (by have := b.isLt; omega) fun w P C O D A B => by obtain rfl := regAt_eq A; obtain rfl : regAt w 0 = b := regAt_eq (by have := B; have := (b : Reg).isLt; omega); (unfold readFields; simp only [P, C, O]; rfl)
theorem nqrst (a : Reg) (b : Reg) : Statement (.nqrst a b) := by
  intro w hw he
  apply decode_of_readFields hw he
  obtain rfl := Option.some.inj he
  exact read_encA (by decide) (by decide) (by decide) (by decide) (by have := a.isLt; omega) (by have := b.isLt; omega) fun w P C O D A B => by obtain rfl := regAt_eq A; obtain rfl : regAt w 0 = b := regAt_eq (by have := B; have := (b : Reg).isLt; omega); (unfold readFields; simp only [P, C, O]; rfl)
theorem enq (d : Reg) (a : Reg) (b : Reg) : Statement (.enq d a b) := by
  intro w hw he
  apply decode_of_readFields hw he
  obtain rfl := Option.some.inj he
  exact read_encA (by decide) (by decide) (by decide) (by have := d.isLt; omega) (by have := a.isLt; omega) (by have := b.isLt; omega) fun w P C O D A B => by obtain rfl := regAt_eq D; obtain rfl := regAt_eq A; obtain rfl : regAt w 0 = b := regAt_eq (by have := B; have := (b : Reg).isLt; omega); (unfold readFields; simp only [P, C, O]; rfl)
theorem tkspawn (d : Reg) (a : Reg) (b : Reg) : Statement (.tkspawn d a b) := by
  intro w hw he
  apply decode_of_readFields hw he
  obtain rfl := Option.some.inj he
  exact read_encA (by decide) (by decide) (by decide) (by have := d.isLt; omega) (by have := a.isLt; omega) (by have := b.isLt; omega) fun w P C O D A B => by obtain rfl := regAt_eq D; obtain rfl := regAt_eq A; obtain rfl : regAt w 0 = b := regAt_eq (by have := B; have := (b : Reg).isLt; omega); (unfold readFields; simp only [P, C, O]; rfl)
theorem rslot (d : Reg) : Statement (.rslot d) := by
  intro w hw he
  apply decode_of_readFields hw he
  obtain rfl := Option.some.inj he
  exact read_encA (by decide) (by decide) (by decide) (by have := d.isLt; omega) (by decide) (by decide) fun w P C O D A B => by obtain rfl := regAt_eq D; (unfold readFields; simp only [P, C, O]; rfl)
theorem rpub : Statement (.rpub) := by
  intro w hw he
  apply decode_of_readFields hw he
  obtain rfl := Option.some.inj he
  exact read_encA (by decide) (by decide) (by decide) (by decide) (by decide) (by decide) fun w P C O D A B => by (unfold readFields; simp only [P, C, O]; rfl)
theorem rrel : Statement (.rrel) := by
  intro w hw he
  apply decode_of_readFields hw he
  obtain rfl := Option.some.inj he
  exact read_encA (by decide) (by decide) (by decide) (by decide) (by decide) (by decide) fun w P C O D A B => by (unfold readFields; simp only [P, C, O]; rfl)
theorem qtab (slot : BitVec 2) (a : Reg) (b : Reg) : Statement (.qtab slot a b) := by
  intro w hw he
  apply decode_of_readFields hw he
  obtain rfl := Option.some.inj he
  exact read_encA (by decide) (by decide) (by decide) (by have := slot.isLt; omega) (by have := a.isLt; omega) (by have := b.isLt; omega) fun w P C O D A B => by obtain rfl := ofNat_eq (m := 7) (by decide) D; obtain rfl := regAt_eq A; obtain rfl : regAt w 0 = b := regAt_eq (by have := B; have := (b : Reg).isLt; omega); (unfold readFields; simp only [P, C, O]; rfl)
theorem qseed (slot : BitVec 2) (a : Reg) : Statement (.qseed slot a) := by
  intro w hw he
  apply decode_of_readFields hw he
  obtain rfl := Option.some.inj he
  exact read_encA (by decide) (by decide) (by decide) (by have := slot.isLt; omega) (by have := a.isLt; omega) (by decide) fun w P C O D A B => by obtain rfl := ofNat_eq (m := 7) (by decide) D; obtain rfl := regAt_eq A; (unfold readFields; simp only [P, C, O]; rfl)
theorem braBrz (z : Bool) (a : Reg) (off : BitVec 17) : Statement (.braBrz z a off) := by
  intro w hw he
  apply decode_of_readFields hw he
  obtain rfl := Option.some.inj he
  cases z <;>
    exact read_encB (by decide) (by decide) (by have := a.isLt; omega) (by have := off.isLt; omega) fun w P C O A X => by obtain rfl := regAt_eq A; obtain rfl := ofNat_eq (m := 17) (by decide) X; (unfold readFields; simp only [P, C]; unfold readB; simp only [O]; rfl)
theorem ubraUbrz (z : Bool) (a : Reg) (off : BitVec 17) : Statement (.ubraUbrz z a off) := by
  intro w hw he
  apply decode_of_readFields hw he
  obtain rfl := Option.some.inj he
  cases z <;>
    exact read_encB (by decide) (by decide) (by have := a.isLt; omega) (by have := off.isLt; omega) fun w P C O A X => by obtain rfl := regAt_eq A; obtain rfl := ofNat_eq (m := 17) (by decide) X; (unfold readFields; simp only [P, C]; unfold readB; simp only [O]; rfl)
theorem jmp (off : BitVec 17) : Statement (.jmp off) := by
  intro w hw he
  apply decode_of_readFields hw he
  obtain rfl := Option.some.inj he
  exact read_encB (by decide) (by decide) (by decide) (by have := off.isLt; omega) fun w P C O A X => by obtain rfl := ofNat_eq (m := 17) (by decide) X; (unfold readFields; simp only [P, C]; unfold readB; simp only [O]; rfl)
theorem ujmp (off : BitVec 17) : Statement (.ujmp off) := by
  intro w hw he
  apply decode_of_readFields hw he
  obtain rfl := Option.some.inj he
  exact read_encB (by decide) (by decide) (by decide) (by have := off.isLt; omega) fun w P C O A X => by obtain rfl := ofNat_eq (m := 17) (by decide) X; (unfold readFields; simp only [P, C]; unfold readB; simp only [O]; rfl)
theorem call (a : Reg) (off : BitVec 17) : Statement (.call a off) := by
  intro w hw he
  apply decode_of_readFields hw he
  obtain rfl := Option.some.inj he
  exact read_encB (by decide) (by decide) (by have := a.isLt; omega) (by have := off.isLt; omega) fun w P C O A X => by obtain rfl := regAt_eq A; obtain rfl := ofNat_eq (m := 17) (by decide) X; (unfold readFields; simp only [P, C]; unfold readB; simp only [O]; rfl)
theorem ucall (a : Reg) (off : BitVec 17) : Statement (.ucall a off) := by
  intro w hw he
  apply decode_of_readFields hw he
  obtain rfl := Option.some.inj he
  exact read_encB (by decide) (by decide) (by have := a.isLt; omega) (by have := off.isLt; omega) fun w P C O A X => by obtain rfl := regAt_eq A; obtain rfl := ofNat_eq (m := 17) (by decide) X; (unfold readFields; simp only [P, C]; unfold readB; simp only [O]; rfl)
theorem ret (a : Reg) : Statement (.ret a) := by
  intro w hw he
  apply decode_of_readFields hw he
  obtain rfl := Option.some.inj he
  exact read_encB (by decide) (by decide) (by have := a.isLt; omega) (by decide) fun w P C O A X => by obtain rfl := regAt_eq A; (unfold readFields; simp only [P, C]; unfold readB; simp only [O]; rfl)
theorem uret (a : Reg) : Statement (.uret a) := by
  intro w hw he
  apply decode_of_readFields hw he
  obtain rfl := Option.some.inj he
  exact read_encB (by decide) (by decide) (by have := a.isLt; omega) (by decide) fun w P C O A X => by obtain rfl := regAt_eq A; (unfold readFields; simp only [P, C]; unfold readB; simp only [O]; rfl)
theorem mark (off : BitVec 17) : Statement (.mark off) := by
  intro w hw he
  apply decode_of_readFields hw he
  obtain rfl := Option.some.inj he
  exact read_encB (by decide) (by decide) (by decide) (by have := off.isLt; omega) fun w P C O A X => by obtain rfl := ofNat_eq (m := 17) (by decide) X; (unfold readFields; simp only [P, C]; unfold readB; simp only [O]; rfl)
theorem uloop (a : Reg) (off : BitVec 17) : Statement (.uloop a off) := by
  intro w hw he
  apply decode_of_readFields hw he
  obtain rfl := Option.some.inj he
  exact read_encB (by decide) (by decide) (by have := a.isLt; omega) (by have := off.isLt; omega) fun w P C O A X => by obtain rfl := regAt_eq A; obtain rfl := ofNat_eq (m := 17) (by decide) X; (unfold readFields; simp only [P, C]; unfold readB; simp only [O]; rfl)
theorem nop : Statement (.nop) := by
  intro w hw he
  apply decode_of_readFields hw he
  obtain rfl := Option.some.inj he
  exact read_encX (by decide) (by decide) (by decide) fun w P C O X => by (unfold readFields; simp only [P, C, O]; rfl)
theorem unop : Statement (.unop) := by
  intro w hw he
  apply decode_of_readFields hw he
  obtain rfl := Option.some.inj he
  exact read_encX (by decide) (by decide) (by decide) fun w P C O X => by (unfold readFields; simp only [P, C, O]; rfl)
theorem exit : Statement (.exit) := by
  intro w hw he
  apply decode_of_readFields hw he
  obtain rfl := Option.some.inj he
  exact read_encX (by decide) (by decide) (by decide) fun w P C O X => by (unfold readFields; simp only [P, C, O]; rfl)
theorem trap (imm : BitVec 16) : Statement (.trap imm) := by
  intro w hw he
  apply decode_of_readFields hw he
  obtain rfl := Option.some.inj he
  exact read_encX (by decide) (by decide) (by have := imm.isLt; omega) fun w P C O X => by obtain rfl := ofNat_eq (m := 21) (by decide) X; (unfold readFields; simp only [P, C, O]; rfl)
theorem utrap (imm : BitVec 16) : Statement (.utrap imm) := by
  intro w hw he
  apply decode_of_readFields hw he
  obtain rfl := Option.some.inj he
  exact read_encX (by decide) (by decide) (by have := imm.isLt; omega) fun w P C O X => by obtain rfl := ofNat_eq (m := 21) (by decide) X; (unfold readFields; simp only [P, C, O]; rfl)
theorem brk (imm : BitVec 16) : Statement (.brk imm) := by
  intro w hw he
  apply decode_of_readFields hw he
  obtain rfl := Option.some.inj he
  exact read_encX (by decide) (by decide) (by have := imm.isLt; omega) fun w P C O X => by obtain rfl := ofNat_eq (m := 21) (by decide) X; (unfold readFields; simp only [P, C, O]; rfl)
theorem ubrk (imm : BitVec 16) : Statement (.ubrk imm) := by
  intro w hw he
  apply decode_of_readFields hw he
  obtain rfl := Option.some.inj he
  exact read_encX (by decide) (by decide) (by have := imm.isLt; omega) fun w P C O X => by obtain rfl := ofNat_eq (m := 21) (by decide) X; (unfold readFields; simp only [P, C, O]; rfl)
theorem join : Statement (.join) := by
  intro w hw he
  apply decode_of_readFields hw he
  obtain rfl := Option.some.inj he
  exact read_encX (by decide) (by decide) (by decide) fun w P C O X => by (unfold readFields; simp only [P, C, O]; rfl)
theorem regang : Statement (.regang) := by
  intro w hw he
  apply decode_of_readFields hw he
  obtain rfl := Option.some.inj he
  exact read_encX (by decide) (by decide) (by decide) fun w P C O X => by (unfold readFields; simp only [P, C, O]; rfl)
theorem bar (k : BitVec 4) : Statement (.bar k) := by
  intro w hw he
  apply decode_of_readFields hw he
  obtain rfl := Option.some.inj he
  exact read_encX (by decide) (by decide) (by have := k.isLt; omega) fun w P C O X => by obtain rfl := ofNat_eq (m := 21) (by decide) X; (unfold readFields; simp only [P, C, O]; rfl)
theorem bara (k : BitVec 4) : Statement (.bara k) := by
  intro w hw he
  apply decode_of_readFields hw he
  obtain rfl := Option.some.inj he
  exact read_encX (by decide) (by decide) (by have := k.isLt; omega) fun w P C O X => by obtain rfl := ofNat_eq (m := 21) (by decide) X; (unfold readFields; simp only [P, C, O]; rfl)
theorem barw (k : BitVec 4) : Statement (.barw k) := by
  intro w hw he
  apply decode_of_readFields hw he
  obtain rfl := Option.some.inj he
  exact read_encX (by decide) (by decide) (by have := k.isLt; omega) fun w P C O X => by obtain rfl := ofNat_eq (m := 21) (by decide) X; (unfold readFields; simp only [P, C, O]; rfl)
theorem gbar : Statement (.gbar) := by
  intro w hw he
  apply decode_of_readFields hw he
  obtain rfl := Option.some.inj he
  exact read_encX (by decide) (by decide) (by decide) fun w P C O X => by (unfold readFields; simp only [P, C, O]; rfl)
theorem fence (sc : Scope) : Statement (.fence sc) := by
  intro w hw he
  apply decode_of_readFields hw he
  obtain rfl := Option.some.inj he
  cases sc <;>
    exact read_encX (by decide) (by decide) (by decide) fun w P C O X => by (have Y : w % 8 = w % 2 ^ 21 % 8 := by omega); (rw [X] at Y); (unfold readFields; simp only [P, C, O]; unfold readX; simp only [Y]; rfl)
theorem ufence (sc : Scope) : Statement (.ufence sc) := by
  intro w hw he
  apply decode_of_readFields hw he
  obtain rfl := Option.some.inj he
  cases sc <;>
    exact read_encX (by decide) (by decide) (by decide) fun w P C O X => by (have Y : w % 8 = w % 2 ^ 21 % 8 := by omega); (rw [X] at Y); (unfold readFields; simp only [P, C, O]; unfold readX; simp only [Y]; rfl)
theorem acq (p : Reg) (q : Reg) : Statement (.acq p q) := by
  intro w hw he
  apply decode_of_readFields hw he
  obtain rfl := Option.some.inj he
  exact read_encX (by decide) (by decide) (by have := p.isLt; have := q.isLt; omega) fun w P C O X => by have e7 : regAt w 7 = p := regAt_eq (by have := X; have := p.isLt; have := q.isLt; omega); have e0 : regAt w 0 = q := regAt_eq (by have := X; have := p.isLt; have := q.isLt; omega); subst e7 e0; (unfold readFields; simp only [P, C, O]; rfl)
theorem uacq (p : Reg) (q : Reg) : Statement (.uacq p q) := by
  intro w hw he
  apply decode_of_readFields hw he
  obtain rfl := Option.some.inj he
  exact read_encX (by decide) (by decide) (by have := p.isLt; have := q.isLt; omega) fun w P C O X => by have e7 : regAt w 7 = p := regAt_eq (by have := X; have := p.isLt; have := q.isLt; omega); have e0 : regAt w 0 = q := regAt_eq (by have := X; have := p.isLt; have := q.isLt; omega); subst e7 e0; (unfold readFields; simp only [P, C, O]; rfl)
theorem rel (p : Reg) : Statement (.rel p) := by
  intro w hw he
  apply decode_of_readFields hw he
  obtain rfl := Option.some.inj he
  exact read_encX (by decide) (by decide) (by have := p.isLt; omega) fun w P C O X => by have e7 : regAt w 7 = p := regAt_eq (by have := X; have := p.isLt; omega); subst e7; (unfold readFields; simp only [P, C, O]; rfl)
theorem urel (p : Reg) : Statement (.urel p) := by
  intro w hw he
  apply decode_of_readFields hw he
  obtain rfl := Option.some.inj he
  exact read_encX (by decide) (by decide) (by have := p.isLt; omega) fun w P C O X => by have e7 : regAt w 7 = p := regAt_eq (by have := X; have := p.isLt; omega); subst e7; (unfold readFields; simp only [P, C, O]; rfl)
theorem bind (p : Reg) (b : Reg) (l : Reg) : Statement (.bind p b l) := by
  intro w hw he
  apply decode_of_readFields hw he
  obtain rfl := Option.some.inj he
  exact read_encX (by decide) (by decide) (by have := p.isLt; have := b.isLt; have := l.isLt; omega) fun w P C O X => by have e14 : regAt w 14 = p := regAt_eq (by have := X; have := p.isLt; have := b.isLt; have := l.isLt; omega); have e7 : regAt w 7 = b := regAt_eq (by have := X; have := p.isLt; have := b.isLt; have := l.isLt; omega); have e0 : regAt w 0 = l := regAt_eq (by have := X; have := p.isLt; have := b.isLt; have := l.isLt; omega); subst e14 e7 e0; (unfold readFields; simp only [P, C, O]; rfl)
theorem ubind (p : Reg) (b : Reg) (l : Reg) : Statement (.ubind p b l) := by
  intro w hw he
  apply decode_of_readFields hw he
  obtain rfl := Option.some.inj he
  exact read_encX (by decide) (by decide) (by have := p.isLt; have := b.isLt; have := l.isLt; omega) fun w P C O X => by have e14 : regAt w 14 = p := regAt_eq (by have := X; have := p.isLt; have := b.isLt; have := l.isLt; omega); have e7 : regAt w 7 = b := regAt_eq (by have := X; have := p.isLt; have := b.isLt; have := l.isLt; omega); have e0 : regAt w 0 = l := regAt_eq (by have := X; have := p.isLt; have := b.isLt; have := l.isLt; omega); subst e14 e7 e0; (unfold readFields; simp only [P, C, O]; rfl)
theorem waitt (n : BitVec 4) : Statement (.waitt n) := by
  intro w hw he
  apply decode_of_readFields hw he
  obtain rfl := Option.some.inj he
  exact read_encX (by decide) (by decide) (by have := n.isLt; omega) fun w P C O X => by obtain rfl := ofNat_eq (m := 21) (by decide) X; (unfold readFields; simp only [P, C, O]; rfl)
theorem hsig (k : BitVec 4) : Statement (.hsig k) := by
  intro w hw he
  apply decode_of_readFields hw he
  obtain rfl := Option.some.inj he
  exact read_encX (by decide) (by decide) (by have := k.isLt; omega) fun w P C O X => by obtain rfl := ofNat_eq (m := 21) (by decide) X; (unfold readFields; simp only [P, C, O]; rfl)
theorem uhsig (k : BitVec 4) : Statement (.uhsig k) := by
  intro w hw he
  apply decode_of_readFields hw he
  obtain rfl := Option.some.inj he
  exact read_encX (by decide) (by decide) (by have := k.isLt; omega) fun w P C O X => by obtain rfl := ofNat_eq (m := 21) (by decide) X; (unfold readFields; simp only [P, C, O]; rfl)
theorem ordb (sample : Bool) : Statement (.ordb sample) := by
  intro w hw he
  apply decode_of_readFields hw he
  obtain rfl := Option.some.inj he
  cases sample <;>
    exact read_encX (by decide) (by decide) (by decide) fun w P C O X => by (have Y : w % 2 = w % 2 ^ 21 % 2 := by omega); (rw [X] at Y); (unfold readFields; simp only [P, C, O]; unfold readX; simp only [Y]; rfl)
theorem orde : Statement (.orde) := by
  intro w hw he
  apply decode_of_readFields hw he
  obtain rfl := Option.some.inj he
  exact read_encX (by decide) (by decide) (by decide) fun w P C O X => by (unfold readFields; simp only [P, C, O]; rfl)
theorem frete : Statement (.frete) := by
  intro w hw he
  apply decode_of_readFields hw he
  obtain rfl := Option.some.inj he
  exact read_encX (by decide) (by decide) (by decide) fun w P C O X => by (unfold readFields; simp only [P, C, O]; rfl)
theorem halt : Statement (.halt) := by
  intro w hw he
  apply decode_of_readFields hw he
  obtain rfl := Option.some.inj he
  exact read_encX (by decide) (by decide) (by decide) fun w P C O X => by (unfold readFields; simp only [P, C, O]; rfl)
end Encoding

theorem Encoding.at (imm : BitVec 21) : Encoding.Statement (.at imm) := by
  intro w hw he
  apply decode_of_readFields hw he
  obtain rfl := Option.some.inj he
  exact read_encX (by decide) (by decide) (by have := imm.isLt; omega) fun w P C O X => by obtain rfl := ofNat_eq (m := 21) (by decide) X; (unfold readFields; simp only [P, C, O]; rfl)

namespace Encoding

theorem atv (n : Reg) : Statement (.atv n) := by
  intro w hw he
  apply decode_of_readFields hw he
  obtain rfl := Option.some.inj he
  exact read_encX (by decide) (by decide) (by have := n.isLt; omega) fun w P C O X => by obtain rfl : regAt w 0 = n := regAt_eq (by have := X; have := (n : Reg).isLt; omega); (unfold readFields; simp only [P, C, O]; rfl)
theorem waitc : Statement (.waitc) := by
  intro w hw he
  apply decode_of_readFields hw he
  obtain rfl := Option.some.inj he
  exact read_encX (by decide) (by decide) (by decide) fun w P C O X => by (unfold readFields; simp only [P, C, O]; rfl)
theorem tune (imm : BitVec 16) : Statement (.tune imm) := by
  intro w hw he
  apply decode_of_readFields hw he
  obtain rfl := Option.some.inj he
  exact read_encX (by decide) (by decide) (by have := imm.isLt; omega) fun w P C O X => by obtain rfl := ofNat_eq (m := 21) (by decide) X; (unfold readFields; simp only [P, C, O]; rfl)
theorem waveIssueTurn (g : Nat) (w : Nat) : Statement (.waveIssueTurn g w) := fun _ _ h => nomatch h
theorem resultArrival (g : Nat) (w : Nat) (k : Nat) : Statement (.resultArrival g w k) := fun _ _ h => nomatch h
theorem deferredResultArrival (g : Nat) (w : Nat) (k : Nat) : Statement (.deferredResultArrival g w k) := fun _ _ h => nomatch h
theorem trapGroupSave (g : Nat) : Statement (.trapGroupSave g) := fun _ _ h => nomatch h
theorem trapRecordPost (part : Nat) : Statement (.trapRecordPost part) := fun _ _ h => nomatch h
theorem relIncrement (r : Nat) : Statement (.relIncrement r) := fun _ _ h => nomatch h
theorem mwaitWake (g : Nat) (w : Nat) : Statement (.mwaitWake g w) := fun _ _ h => nomatch h
theorem bankRequest (r : Nat) : Statement (.bankRequest r) := fun _ _ h => nomatch h
theorem localStoreRequest (r : Nat) : Statement (.localStoreRequest r) := fun _ _ h => nomatch h
theorem bankRetentionEntry (cluster : Nat) (bank : Nat) : Statement (.bankRetentionEntry cluster bank) := fun _ _ h => nomatch h
theorem correctionWriteback (word : Nat) : Statement (.correctionWriteback word) := fun _ _ h => nomatch h
theorem elogack (inst : Nat) (n : Nat) : Statement (.elogack inst n) := fun _ _ h => nomatch h
theorem einjWrite (inst : Nat) (value : BitVec 128) : Statement (.einjWrite inst value) := fun _ _ h => nomatch h
theorem fdlogack (n : Nat) : Statement (.fdlogack n) := fun _ _ h => nomatch h
theorem fretCommit (launch : Nat) : Statement (.fretCommit launch) := fun _ _ h => nomatch h
theorem hostSubmission (part : Nat) (data : List Byte) : Statement (.hostSubmission part data) := fun _ _ h => nomatch h
theorem intakeCardRead (part : Nat) : Statement (.intakeCardRead part) := fun _ _ h => nomatch h
theorem cardDispatch (launch : Nat) : Statement (.cardDispatch launch) := fun _ _ h => nomatch h
theorem groupPlacement (launch : Nat) (cluster : Nat) : Statement (.groupPlacement launch cluster) := fun _ _ h => nomatch h
theorem stealRequest (launch : Nat) (cluster : Nat) : Statement (.stealRequest launch cluster) := fun _ _ h => nomatch h
theorem stealRetryTimer (launch : Nat) (cluster : Nat) : Statement (.stealRetryTimer launch cluster) := fun _ _ h => nomatch h
theorem terminationTokenPass (launch : Nat) : Statement (.terminationTokenPass launch) := fun _ _ h => nomatch h
theorem cardCompletion (launch : Nat) : Statement (.cardCompletion launch) := fun _ _ h => nomatch h
theorem hostRecordPost (queue : Nat) : Statement (.hostRecordPost queue) := fun _ _ h => nomatch h
theorem deadlineEvent (launch : Nat) : Statement (.deadlineEvent launch) := fun _ _ h => nomatch h
theorem preemption (g : Nat) : Statement (.preemption g) := fun _ _ h => nomatch h
theorem groupRestore (g : Nat) : Statement (.groupRestore g) := fun _ _ h => nomatch h
theorem copyPieceTransfer (copy : Nat) (piece : Nat) : Statement (.copyPieceTransfer copy piece) := fun _ _ h => nomatch h
theorem faultRecordPost (part : Nat) : Statement (.faultRecordPost part) := fun _ _ h => nomatch h
theorem fqverdRetry (part : Nat) (seq : Nat) : Statement (.fqverdRetry part seq) := fun _ _ h => nomatch h
theorem fqverdFail (part : Nat) (seq : Nat) : Statement (.fqverdFail part seq) := fun _ _ h => nomatch h
theorem translationWalk (part : Nat) (ctx : Nat) (va : Nat) (acc : Access) : Statement (.translationWalk part ctx va acc) := fun _ _ h => nomatch h
theorem matrixCommandStart (cluster : Nat) : Statement (.matrixCommandStart cluster) := fun _ _ h => nomatch h
theorem matrixCommandCompletion (cluster : Nat) (num : Nat) : Statement (.matrixCommandCompletion cluster num) := fun _ _ h => nomatch h
theorem stampedCommandStart (cluster : Nat) (num : Nat) : Statement (.stampedCommandStart cluster num) := fun _ _ h => nomatch h
theorem flitSourceRead (send : Nat) (k : Nat) : Statement (.flitSourceRead send k) := fun _ _ h => nomatch h
theorem flitSend (send : Nat) (k : Nat) : Statement (.flitSend send k) := fun _ _ h => nomatch h
theorem flitLanding (f : Flit) : Statement (.flitLanding f) := fun _ _ h => nomatch h
theorem collision (f : Flit) (flits : Nat) : Statement (.collision f flits) := fun _ _ h => nomatch h
theorem linkError (f : Flit) (flits : Nat) : Statement (.linkError f flits) := fun _ _ h => nomatch h
theorem bestEffortFlit (f : Flit) : Statement (.bestEffortFlit f) := fun _ _ h => nomatch h
theorem haltNotice (m : Notice) : Statement (.haltNotice m) := fun _ _ h => nomatch h
theorem lockedHalt (launch : Nat) : Statement (.lockedHalt launch) := fun _ _ h => nomatch h
theorem receiveWindowClose (launch : Nat) : Statement (.receiveWindowClose launch) := fun _ _ h => nomatch h
theorem domainControlMessage (m : DomainMsg) : Statement (.domainControlMessage m) := fun _ _ h => nomatch h
theorem holdRequest (cycles : Nat) : Statement (.holdRequest cycles) := fun _ _ h => nomatch h
theorem tuneInsertionEnd (launch : Nat) : Statement (.tuneInsertionEnd launch) := fun _ _ h => nomatch h
theorem tuneMismatch (tag : Nat) : Statement (.tuneMismatch tag) := fun _ _ h => nomatch h
theorem ptpMessage (m : PtpMsg) : Statement (.ptpMessage m) := fun _ _ h => nomatch h
theorem timebaseEvent (code : Nat) (delta : Int) : Statement (.timebaseEvent code delta) := fun _ _ h => nomatch h
theorem portFailure (port : Nat) : Statement (.portFailure port) := fun _ _ h => nomatch h
theorem packetDelivery (pk : Packet) : Statement (.packetDelivery pk) := fun _ _ h => nomatch h
theorem rdmaWrite (pk : Packet) : Statement (.rdmaWrite pk) := fun _ _ h => nomatch h
theorem rdmaRead (pk : Packet) : Statement (.rdmaRead pk) := fun _ _ h => nomatch h
theorem rdmaAtomicRequest (pk : Packet) : Statement (.rdmaAtomicRequest pk) := fun _ _ h => nomatch h
theorem neighbourSolicitation (pk : Packet) : Statement (.neighbourSolicitation pk) := fun _ _ h => nomatch h
theorem qpRetryExhausted (qp : Nat) : Statement (.qpRetryExhausted qp) := fun _ _ h => nomatch h
theorem qdescStateRun (q : Nat) : Statement (.qdescStateRun q) := fun _ _ h => nomatch h
theorem qdescStateOff (q : Nat) : Statement (.qdescStateOff q) := fun _ _ h => nomatch h
theorem stripStart (launch : Nat) : Statement (.stripStart launch) := fun _ _ h => nomatch h
theorem stripDeadline (launch : Nat) : Statement (.stripDeadline launch) := fun _ _ h => nomatch h
theorem binningPrimitive (launch : Nat) : Statement (.binningPrimitive launch) := fun _ _ h => nomatch h
theorem primaryRayTrace (launch : Nat) (tile : Nat) : Statement (.primaryRayTrace launch tile) := fun _ _ h => nomatch h
theorem tileVisibilityFinal (launch : Nat) (tile : Nat) : Statement (.tileVisibilityFinal launch tile) := fun _ _ h => nomatch h
theorem rayRest (ray : Nat) : Statement (.rayRest ray) := fun _ _ h => nomatch h
theorem textureServe (g : Nat) (w : Nat) (k : Nat) : Statement (.textureServe g w k) := fun _ _ h => nomatch h
theorem tableStoreLoad (cluster : Nat) : Statement (.tableStoreLoad cluster) := fun _ _ h => nomatch h
theorem entrySkip (head : Nat) : Statement (.entrySkip head) := fun _ _ h => nomatch h
theorem displayLineFetch (display : Nat) : Statement (.displayLineFetch display) := fun _ _ h => nomatch h
theorem encoderStripCopy (encoder : Nat) : Statement (.encoderStripCopy encoder) := fun _ _ h => nomatch h
theorem tileRowCode (encoder : Nat) (coded : List Byte) : Statement (.tileRowCode encoder coded) := fun _ _ h => nomatch h
theorem rdoffWrite (encoder : Nat) (value : Nat) : Statement (.rdoffWrite encoder value) := fun _ _ h => nomatch h
theorem ringcfgEnable (head : Nat) : Statement (.ringcfgEnable head) := fun _ _ h => nomatch h
theorem ringcfgDisable (head : Nat) : Statement (.ringcfgDisable head) := fun _ _ h => nomatch h
theorem qcfgEnable (q : Nat) : Statement (.qcfgEnable q) := fun _ _ h => nomatch h
theorem stplValid (head : Nat) : Statement (.stplValid head) := fun _ _ h => nomatch h
theorem stplWithdraw (head : Nat) : Statement (.stplWithdraw head) := fun _ _ h => nomatch h
theorem pcfgEnable (part : Nat) : Statement (.pcfgEnable part) := fun _ _ h => nomatch h
theorem teardown (part : Nat) : Statement (.teardown part) := fun _ _ h => nomatch h
theorem mownWrite (granule : Nat) (value : Nat) : Statement (.mownWrite granule value) := fun _ _ h => nomatch h
theorem scrubComplete (granule : Nat) : Statement (.scrubComplete granule) := fun _ _ h => nomatch h
theorem tlbinv (value : BitVec 64) : Statement (.tlbinv value) := fun _ _ h => nomatch h
theorem tlbinvComplete (part : Nat) : Statement (.tlbinvComplete part) := fun _ _ h => nomatch h
theorem tbcfgWrite (value : BitVec 64) : Statement (.tbcfgWrite value) := fun _ _ h => nomatch h
theorem qpctxState (qp : Nat) (state : Nat) : Statement (.qpctxState qp state) := fun _ _ h => nomatch h
theorem channelShare (part : Nat) (value : Nat) : Statement (.channelShare part value) := fun _ _ h => nomatch h
theorem registerWrite (host : Bool) (off : Nat) (value : BitVec 64) : Statement (.registerWrite host off value) := fun _ _ h => nomatch h
theorem checkpointFlit (f : Flit) : Statement (.checkpointFlit f) := fun _ _ h => nomatch h
theorem heartbeatMiss (pkg : Nat) : Statement (.heartbeatMiss pkg) := fun _ _ h => nomatch h
theorem powerMeasurement (milliwatts : Nat) : Statement (.powerMeasurement milliwatts) := fun _ _ h => nomatch h
theorem childCardRead (child : Nat) : Statement (.childCardRead child) := fun _ _ h => nomatch h
theorem tileStart (launch : Nat) (tile : Nat) : Statement (.tileStart launch tile) := fun _ _ h => nomatch h
theorem launchStartCycle (launch : Nat) : Statement (.launchStartCycle launch) := fun _ _ h => nomatch h
theorem teardownComplete (part : Nat) : Statement (.teardownComplete part) := fun _ _ h => nomatch h
theorem connectionManagementMessage (pk : Packet) : Statement (.connectionManagementMessage pk) := fun _ _ h => nomatch h
theorem mappingUpdate : Statement (.mappingUpdate) := fun _ _ h => nomatch h
theorem holdAnnounce : Statement (.holdAnnounce) := fun _ _ h => nomatch h
theorem holdStart : Statement (.holdStart) := fun _ _ h => nomatch h
theorem holdEnd : Statement (.holdEnd) := fun _ _ h => nomatch h
theorem regrd : Statement (.regrd) := fun _ _ h => nomatch h
theorem regwr : Statement (.regwr) := fun _ _ h => nomatch h
theorem attest : Statement (.attest) := fun _ _ h => nomatch h
theorem locate : Statement (.locate) := fun _ _ h => nomatch h
theorem grpctlResume : Statement (.grpctlResume) := fun _ _ h => nomatch h
theorem killgroup : Statement (.killgroup) := fun _ _ h => nomatch h
theorem killcard : Statement (.killcard) := fun _ _ h => nomatch h
theorem preempt : Statement (.preempt) := fun _ _ h => nomatch h
theorem dplink : Statement (.dplink) := fun _ _ h => nomatch h
theorem memwr : Statement (.memwr) := fun _ _ h => nomatch h
theorem memrd : Statement (.memrd) := fun _ _ h => nomatch h
theorem checkpointAnnounce : Statement (.checkpointAnnounce) := fun _ _ h => nomatch h
theorem checkpoint : Statement (.checkpoint) := fun _ _ h => nomatch h
theorem checkpointEnd : Statement (.checkpointEnd) := fun _ _ h => nomatch h
theorem recovery : Statement (.recovery) := fun _ _ h => nomatch h
theorem throttleRestore : Statement (.throttleRestore) := fun _ _ h => nomatch h
theorem bringUp : Statement (.bringUp) := fun _ _ h => nomatch h
theorem functionLevelReset : Statement (.functionLevelReset) := fun _ _ h => nomatch h

end Encoding

end Sys2Proof.Laws
end

