-- ==== Sys2Proof/Laws/Sparse.lean ====
section
/-! SUPPORT. Sparse maps and the byte memory: reading after writing, and that every operation keeps the canonical form. -/

namespace Sys2Proof.Machine

/-! ### Reading after writing -/

@[simp] theorem mget_mset_same {α : Type} (k : Nat) (v : α) (m : Map α) : mget k (mset k v m) = some v := by
  induction m with
  | nil => simp [mset, mget]
  | cons e t ih =>
    obtain ⟨j, x⟩ := e
    simp only [mset]
    split
    · rename_i h; simp [mget, ih, Nat.ne_of_lt h]
    · split <;> simp [mget]

@[simp] theorem mget_mset_ne {α : Type} {j k : Nat} (v : α) (m : Map α) (h : j ≠ k) : mget j (mset k v m) = mget j m := by
  induction m with
  | nil => simp [mset, mget, Ne.symm h]
  | cons e t ih =>
    obtain ⟨i, x⟩ := e
    simp only [mset]
    split
    · simp [mget, ih]
    · split
      · rename_i h2; subst h2; simp [mget, Ne.symm h]
      · simp [mget, Ne.symm h]

theorem mget_mupd {α : Type} (j k : Nat) (f : α → α) (m : Map α) :
    mget j (mupd k f m) = if j = k then (mget j m).map f else mget j m := by
  induction m with
  | nil => simp [mupd, mget]
  | cons e t ih =>
    obtain ⟨i, x⟩ := e
    simp only [mupd]
    split
    · rename_i h; subst h
      by_cases h : j = i
      · subst h; simp [mget]
      · simp [mget, h, Ne.symm h]
    · rename_i h
      by_cases h2 : i = j
      · subst h2; simp [mget, h]
      · simp [mget, h2, ih]

@[simp] theorem mget_mupd_same {α : Type} (k : Nat) (f : α → α) (m : Map α) : mget k (mupd k f m) = (mget k m).map f := by
  simp [mget_mupd]
@[simp] theorem mget_mupd_ne {α : Type} {j k : Nat} (f : α → α) (m : Map α) (h : j ≠ k) : mget j (mupd k f m) = mget j m := by
  simp [mget_mupd, h]

/-! ### The keys rise -/

/-- The first key of a map is above a bound. -/
def above {α : Type} (b : Nat) : Map α → Bool
  | [] => true
  | (j, _) :: _ => decide (b < j)

theorem rising_cons {α : Type} (j : Nat) (x : α) (t : Map α) : rising ((j, x) :: t) = (above j t && rising t) := by
  cases t with
  | nil => simp [rising, above]
  | cons e t => obtain ⟨i, y⟩ := e; simp [rising, above]

theorem above_mono {α : Type} {a b : Nat} {m : Map α} (h : a ≤ b) (hb : above b m = true) : above a m = true := by
  cases m with
  | nil => rfl
  | cons e t => obtain ⟨i, y⟩ := e; simp [above] at *; omega

theorem above_mset {α : Type} {b k : Nat} (v : α) {m : Map α} (hb : above b m = true) (hk : b < k) : above b (mset k v m) = true := by
  cases m with
  | nil => simp [mset, above, hk]
  | cons e t =>
    obtain ⟨i, y⟩ := e
    simp only [mset]
    split
    · simpa [above] using hb
    · split
      · simp [above, hk]
      · simp [above, hk]

theorem above_mdel {α : Type} {b k : Nat} {m : Map α} (hr : rising m = true) (hb : above b m = true) : above b (mdel k m) = true := by
  cases m with
  | nil => rfl
  | cons e t =>
    obtain ⟨i, y⟩ := e
    rw [rising_cons] at hr
    simp only [Bool.and_eq_true] at hr
    simp only [mdel]
    split
    · exact above_mono (by simp [above] at hb; omega) hr.1
    · simpa [above] using hb

/-- A write keeps the keys rising. -/
theorem rising_mset {α : Type} (k : Nat) (v : α) (m : Map α) (h : rising m = true) : rising (mset k v m) = true := by
  induction m with
  | nil => simp [mset, rising]
  | cons e t ih =>
    obtain ⟨i, y⟩ := e
    rw [rising_cons] at h
    simp only [Bool.and_eq_true] at h
    simp only [mset]
    split
    · rename_i hi
      rw [rising_cons]
      simp [ih h.2, above_mset v h.1 hi]
    · split
      · rename_i _ hi; subst hi; rw [rising_cons]; simp [h.1, h.2]
      · rename_i h1 h2
        have hk : k < i := by omega
        rw [rising_cons, rising_cons, h.1, h.2]
        simp [above, hk]

/-- A removal keeps the keys rising. -/
theorem rising_mdel {α : Type} (k : Nat) (m : Map α) (h : rising m = true) : rising (mdel k m) = true := by
  induction m with
  | nil => rfl
  | cons e t ih =>
    obtain ⟨i, y⟩ := e
    rw [rising_cons] at h
    simp only [Bool.and_eq_true] at h
    simp only [mdel]
    split
    · exact h.2
    · rw [rising_cons]; simp [ih h.2, above_mdel h.2 h.1]

/-- A key below every key of a map is not listed. -/
theorem mget_above {α : Type} {k : Nat} {m : Map α} (hr : rising m = true) (h : above k m = true) : mget k m = none := by
  induction m with
  | nil => rfl
  | cons e t ih =>
    obtain ⟨i, y⟩ := e
    rw [rising_cons] at hr
    simp only [Bool.and_eq_true] at hr
    simp only [above, decide_eq_true_eq] at h
    have : i ≠ k := by omega
    simp only [mget, this, if_false]
    exact ih hr.2 (above_mono (by omega) hr.1)

theorem mget_mdel {α : Type} (j k : Nat) (m : Map α) (hr : rising m = true) :
    mget j (mdel k m) = if j = k then none else mget j m := by
  induction m with
  | nil => simp [mdel, mget]
  | cons e t ih =>
    obtain ⟨i, y⟩ := e
    rw [rising_cons] at hr
    simp only [Bool.and_eq_true] at hr
    simp only [mdel]
    split
    · rename_i h; subst h
      by_cases hj : j = i
      · subst hj; simp [mget_above hr.2 hr.1]
      · simp [mget, hj, Ne.symm hj]
    · rename_i h
      by_cases hj : i = j
      · subst hj; simp [mget, h]
      · simp [mget, hj, ih hr.2]

/-- A filter keeps the keys rising. -/
theorem rising_filter {α : Type} (p : Nat × α → Bool) (m : Map α) (h : rising m = true) : rising (m.filter p) = true ∧
    ∀ b, above b m = true → above b (m.filter p) = true := by
  induction m with
  | nil => simp [rising]
  | cons e t ih =>
    obtain ⟨i, y⟩ := e
    rw [rising_cons] at h
    simp only [Bool.and_eq_true] at h
    obtain ⟨ihr, iha⟩ := ih h.2
    by_cases hp : p (i, y) = true
    · rw [List.filter_cons_of_pos hp, rising_cons]
      exact ⟨by simp [iha i h.1, ihr], fun b hb => by simpa [above] using hb⟩
    · rw [List.filter_cons_of_neg hp]
      exact ⟨ihr, fun b hb => iha b (above_mono (by simp [above] at hb; omega) h.1)⟩

/-! ### The byte memory -/

theorem mem_mset {α : Type} {k : Nat} {v : α} {m : Map α} {e : Nat × α} (h : e ∈ mset k v m) : e = (k, v) ∨ e ∈ m := by
  induction m with
  | nil => simp [mset] at h; exact .inl h
  | cons c t ih =>
    obtain ⟨i, y⟩ := c
    simp only [mset] at h
    split at h
    · rcases List.mem_cons.mp h with h | h
      · exact .inr (by simp [h])
      · rcases ih h with h | h
        · exact .inl h
        · exact .inr (by simp [h])
    · split at h
      · rcases List.mem_cons.mp h with h | h
        · exact .inl h
        · exact .inr (by simp [h])
      · rcases List.mem_cons.mp h with h | h
        · exact .inl h
        · exact .inr h

theorem mem_mdel {α : Type} {k : Nat} {m : Map α} {e : Nat × α} (h : e ∈ mdel k m) : e ∈ m := by
  induction m with
  | nil => simp [mdel] at h
  | cons c t ih =>
    obtain ⟨i, y⟩ := c
    simp only [mdel] at h
    split at h
    · simp [h]
    · rcases List.mem_cons.mp h with h | h
      · simp [h]
      · simp [ih h]

theorem Mem.wf_iff (m : Mem) : m.wf = true ↔ rising m = true ∧ ∀ c ∈ m, c.2 ≠ 0#8 := by
  simp [Mem.wf]

/-- The empty memory is in canonical form. -/
@[simp] theorem Mem.wf_nil : Mem.wf [] = true := rfl

/-- Writing one byte keeps the canonical form. -/
theorem Mem.wf_setByte (m : Mem) (a : Nat) (b : Byte) (h : m.wf = true) : (m.setByte a b).wf = true := by
  rw [Mem.wf_iff] at *
  unfold Mem.setByte dset
  split
  · exact ⟨rising_mdel a m h.1, fun c hc => h.2 c (mem_mdel hc)⟩
  · rename_i hb
    refine ⟨rising_mset a b m h.1, fun c hc => ?_⟩
    rcases mem_mset hc with hc | hc
    · subst hc; exact hb
    · exact h.2 c hc

/-- Writing bytes keeps the canonical form. -/
theorem Mem.wf_setBytes (bs : List Byte) (m : Mem) (a : Nat) (h : m.wf = true) : (m.setBytes a bs).wf = true := by
  induction bs generalizing m a with
  | nil => exact h
  | cons b bs ih => exact ih _ _ (Mem.wf_setByte m a b h)

/-- Writing a number keeps the canonical form. -/
theorem Mem.wf_store (m : Mem) (a n x : Nat) (h : m.wf = true) : (m.store a n x).wf = true := Mem.wf_setBytes _ m a h

/-- A filter keeps the canonical form. -/
theorem Mem.wf_filter (m : Mem) (p : Host.Cell → Bool) (h : m.wf = true) : Mem.wf (m.filter p) = true := by
  rw [Mem.wf_iff] at *
  exact ⟨(rising_filter p m h.1).1, fun c hc => h.2 c (List.mem_filter.mp hc).1⟩

/-- Zeroing a range keeps the canonical form. -/
theorem Mem.wf_clear (m : Mem) (a n : Nat) (h : m.wf = true) : (m.clear a n).wf = true := Mem.wf_filter m _ h

/-- Folding byte writes keeps the canonical form. -/
theorem Mem.wf_foldl {β : Type} (xs : List β) (f : Mem → β → Mem) (hf : ∀ m x, Mem.wf m = true → Mem.wf (f m x) = true) (m : Mem)
    (h : m.wf = true) : Mem.wf (xs.foldl f m) = true := by
  induction xs generalizing m with
  | nil => exact h
  | cons x xs ih => exact ih _ (hf m x h)

/-- A byte reads as it was written. -/
theorem Mem.byte_setByte (m : Mem) (a b : Nat) (x : Byte) (h : m.wf = true) :
    (m.setByte a x).byte b = if b = a then x else m.byte b := by
  rw [Mem.wf_iff] at h
  unfold Mem.setByte Mem.byte dset dget
  split
  · rename_i hx; subst hx
    rw [mget_mdel b a m h.1]
    split <;> simp_all
  · by_cases hb : b = a
    · subst hb; simp
    · simp [hb, mget_mset_ne x m hb]

/-- Outside the bytes written, every byte reads as before. -/
theorem Mem.byte_setBytes_outside (bs : List Byte) (m : Mem) (a b : Nat) (h : m.wf = true) (hb : b < a ∨ a + bs.length ≤ b) :
    (m.setBytes a bs).byte b = m.byte b := by
  induction bs generalizing m a with
  | nil => rfl
  | cons x xs ih =>
    simp only [List.length_cons] at hb
    rw [Mem.setBytes, ih _ _ (Mem.wf_setByte m a x h) (by omega), Mem.byte_setByte m a b x h, if_neg (by omega)]

/-- Inside them, it reads as written. -/
theorem Mem.byte_setBytes_inside (bs : List Byte) (m : Mem) (a i : Nat) (h : m.wf = true) (hi : i < bs.length) :
    (m.setBytes a bs).byte (a + i) = bs[i] := by
  induction bs generalizing m a i with
  | nil => simp at hi
  | cons x xs ih =>
    rw [Mem.setBytes]
    cases i with
    | zero =>
      rw [Mem.byte_setBytes_outside xs _ _ _ (Mem.wf_setByte m a x h) (by omega), Nat.add_zero, Mem.byte_setByte m a a x h]
      simp
    | succ i =>
      have := ih (m.setByte a x) (a + 1) i (Mem.wf_setByte m a x h) (by simpa using hi)
      rw [show a + (i + 1) = a + 1 + i by omega, this]
      simp

/-- Zeroed bytes read as 0, and the others as before. -/
theorem Mem.byte_clear (m : Mem) (a n b : Nat) (h : m.wf = true) :
    (m.clear a n).byte b = if a ≤ b ∧ b < a + n then 0#8 else m.byte b := by
  rw [Mem.wf_iff] at h
  have key : ∀ m : Mem, rising m = true →
      mget b (m.filter fun c => decide (c.1 < a) || decide (a + n ≤ c.1)) = if a ≤ b ∧ b < a + n then none else mget b m := by
    intro m hr
    induction m with
    | nil => simp [mget]
    | cons e t ih =>
      obtain ⟨i, y⟩ := e
      rw [rising_cons] at hr
      simp only [Bool.and_eq_true] at hr
      have ih := ih hr.2
      simp only [List.filter_cons]
      split
      · rename_i hp
        simp only [Bool.or_eq_true, decide_eq_true_eq] at hp
        simp only [mget]
        by_cases hi : i = b
        · subst hi; simp; omega
        · simp only [hi, if_false]; exact ih
      · rename_i hp
        simp only [Bool.or_eq_true, decide_eq_true_eq, not_or] at hp
        by_cases hi : i = b
        · subst hi; rw [ih, if_pos (by omega), if_pos (by omega)]
        · rw [ih]; simp [mget, hi]
  unfold Mem.byte dget
  rw [show m.clear a n = m.filter _ from rfl, key m h.1]
  split <;> simp

end Sys2Proof.Machine
end

