-- ==== Sys2Proof/Tests/Slice0.lean ====
section
/-! SUPPORT. Tests of the model on small states, each of one step, with results worked out from the spec's tables, rules and examples; and for
every obligation a witness that meets its hypotheses. Every theorem is decided by the kernel. -/

open Sys2Proof Sys2Proof.Machine Sys2Proof.Rules

namespace Sys2Proof.Tests
set_option Elab.async false

/-! ### Instructions as words -/

/-- The word decodes to the instruction. -/
def decodesTo (w : BitVec 32) (i : Instr) : Bool := match decode w with
  | .ok j => j == i
  | .error _ => false
/-- The word is no instruction. -/
def refused (w : BitVec 32) : Bool := match decode w with
  | .ok _ => false
  | .error _ => true

/-- Each check of well-formedness refuses a term: an index of no state (R70, R71), a function without an FP64 form, a conversion that Table 04-9
does not have, atomics of the other table half (R196), RED.EXCH, and functions beyond Tables 14-5 and 13-4. -/
theorem test_ill_formed : ([.rds 5 29, .urds 5 29, .wrs 6 18, .uwrs 6 0, .fp64Function .exp2 2 4, .ufp64Function .cos 2 4,
    .cvt ⟨.f64, .f64, false⟩ 1 2, .ucvt ⟨.i32, .i32, false⟩ 1 2, .atom .min64 4 6 8, .red .exch 6 8, .red .maxu64 6 8, .atom64 .add32 4 6 8,
    .red64 .exch 6 8, .hitr 5 6 6, .visq 5 5] : List Instr).all (fun i => !i.wellFormed && (encode i).all (!decodesTo · i)) = true := by decide +kernel
/-- The largest operands that the checks admit. -/
theorem test_well_formed : ([.rds 127 28, .wrs 127 27, .fp64Function .fclass 2 4, .cvt ⟨.f32, .n64, false⟩ 1 2, .atom .exch 4 6 8, .red .xor 6 8,
    .atom64 .maxu64 4 6 8, .hitr 5 6 5, .visq 5 4] : List Instr).all (fun i => i.wellFormed && (encode i).any (decodesTo · i)) = true := by decide +kernel
/-- Words of class A and what they stand for (Tables 02-1 to 02-12, 02-14; 03, 04, 06, 16 worked words). -/
theorem test_decode_A : ([
  (0x02E14307, .intArithLogic .bfi 5 6 7), (0x01010308, .intArithLogic .mul64 4 6 8), (0x82814307, .uintArithLogic .rotl 5 6 7), (0x03414307, .divRem .rem 5 6 7),
  (0x83214307, .udivRem .divu 5 6 7), (0x03814307, .sel 5 6 7), (0x83814307, .usel 5 6 7), (0x04414307, .setCompare .slt 5 6 7),
  (0x85014308, .usetCompare .sltu64 5 6 8), (0x0601430A, .unary .zext8 5 6), (0x86014304, .uunary .clz 5 6), (0x08414307, .shfl .up 5 6 7),
  (0x08814307, .bcast 5 6 7), (0x08A14302, .vote .ballot 5 6), (0x08C14300, .matchv false 5 6), (0x08E14300, .matchv true 5 6),
  (0x0901430A, .wred .xor 5 6), (0x09214304, .wscan .minU 5 6), (0x09414303, .qswz .ddyc 5 6), (0x0C01401C, .rds 5 28),
  (0x8C014000, .urds 5 0), (0x0C200311, .wrs 6 17), (0x8C20031A, .uwrs 6 26), (0x0C414000, .flgrd 5),
  (0x8C414000, .uflgrd 5)
] : List (BitVec 32 × Instr)).all (fun e => decodesTo e.1 e.2) = true := by decide +kernel
/-- Words of class F and what they stand for (Tables 02-1 to 02-12, 02-14; 03, 04, 06, 16 worked words). -/
theorem test_decode_F : ([
  (0x11014307, .fp32Arith .div 5 6 7), (0x90214307, .ufp32Arith .sub 5 6 7), (0x12008206, .fp64Arith .add 2 4 6), (0x92608206, .ufp64Arith .fma 2 4 6),
  (0x14414307, .packedHalf .hfma 5 6 7), (0x14E14307, .dot4 .e5m2 5 6 7), (0x14C10286, .dot4 .e4m3 4 5 6), (0x16214307, .fpCompare false .lt 5 6 7),
  (0x96E14308, .ufpCompare true .un 5 6 8), (0x18004102, .fp32Function .sqrt 1 2), (0x98004108, .ufp32Function .cos 1 2), (0x1820820B, .fp64Function .ceil 2 4),
  (0x9820820D, .ufp64Function .fclass 2 4), (0x19004111, .cvt ⟨.i32, .f32, true⟩ 1 2), (0x9900410A, .ucvt ⟨.e4m3, .f32, true⟩ 1 2), (0x19414307, .pack .bfloat 5 6 7),
  (0x19A14307, .fscl false 5 6 7), (0x99C10307, .ufscl true 4 6 7)
] : List (BitVec 32 × Instr)).all (fun e => decodesTo e.1 e.2) = true := by decide +kernel
/-- Words of class I and what they stand for (Tables 02-1 to 02-12, 02-14; 03, 04, 06, 16 worked words). -/
theorem test_decode_I : ([
  (0x45058001, .immediate .slti 5 0x8001), (0xC67FFFFF, .uimmediate .muli 127 0xFFFF)
] : List (BitVec 32 × Instr)).all (fun e => decodesTo e.1 e.2) = true := by decide +kernel
/-- Words of class M and what they stand for (Tables 02-1 to 02-12, 02-14; 03, 04, 06, 16 worked words). -/
theorem test_decode_M : ([
  (0x50100BFF, .ldg false 8 2 0x3FF), (0x52100801, .ldg true 8 2 1), (0xD0100801, .uldg false 8 2 1), (0x53100801, .stg true 8 2 1),
  (0xD1100801, .ustg false 8 2 1), (0x58100801, .lds .w4 8 2 1), (0xD6100801, .ulds .w2 8 2 1), (0x59100801, .sts .w4 8 2 1),
  (0xD5100801, .usts .w1 8 2 1), (0x5A100801, .spl 8 2 1), (0xDA100801, .uspl 8 2 1), (0x5B100801, .sps 8 2 1),
  (0xDB100801, .usps 8 2 1), (0x5C100801, .mwait 8 2 1)
] : List (BitVec 32 × Instr)).all (fun e => decodesTo e.1 e.2) = true := by decide +kernel
/-- Words of class E and what they stand for (Tables 02-1 to 02-12, 02-14; 03, 04, 06, 16 worked words). -/
theorem test_decode_E : ([
  (0x20614307, .ldgxStsx .stsx 5 6 7), (0x2103C307, .owr 15 6 7), (0x21214307, .ord 5 6 7), (0x22014307, .sample 5 6 7),
  (0x22214307, .samplel 5 6 7), (0x22414307, .sampleg 5 6 7), (0x22614307, .gath4 5 6 7), (0x22814307, .txq 5 6 7),
  (0x23014307, .trace 5 6 7), (0x23214307, .resume 5 6 7), (0x23414305, .hitr 5 6 5), (0x23830409, .qsamp 12 8 9),
  (0x23A30409, .qraw 12 8 9), (0x23C30409, .qsampd 12 8 9), (0x24014004, .visq 5 4), (0x24200307, .pixw 6 7),
  (0x24400103, .srate 2 3), (0x29214307, .atom .fmax32 5 6 7), (0x2A000D14, .red .add32 26 20), (0x2C210308, .cas true 4 6 8),
  (0x2C014307, .cas false 5 6 7), (0x2D014307, .tkarg 5 6 7), (0x2E410308, .atom64 .minu64 4 6 8), (0x2F200308, .red64 .max64 6 8)
] : List (BitVec 32 × Instr)).all (fun e => decodesTo e.1 e.2) = true := by decide +kernel
/-- Words of class E uniform and what they stand for (Tables 02-1 to 02-12, 02-14; 03, 04, 06, 16 worked words). -/
theorem test_decode_E_uniform : ([
  (0xA0000300, .cpy 6), (0xA0200307, .cpyg 6 7), (0xA0400307, .cpys 6 7), (0xA0614000, .close 5),
  (0xA0814007, .waitb 5 7), (0xA203C307, .ores 15 6 7), (0xA223C000, .orel 15), (0xA247C307, .mma 31 6 7),
  (0xA267C307, .mmac 31 6 7), (0xA287C000, .azero 31), (0xA2A7C307, .adrain 31 6 7), (0xA2C7C307, .aload 31 6 7),
  (0xA2E00007, .msync 7), (0xA403C007, .hwait 15 7), (0xA5014307, .send 5 6 7), (0xA5214307, .recv 5 6 7),
  (0xA5400307, .nqack 6 7), (0xA5600307, .nqrst 6 7), (0xA6014307, .enq 5 6 7), (0xA6214307, .tkspawn 5 6 7),
  (0xA7014000, .rslot 5), (0xA7200000, .rpub), (0xA7400000, .rrel), (0xA8000206, .qtab 0 4 6),
  (0xA8204100, .qseed 1 2)
] : List (BitVec 32 × Instr)).all (fun e => decodesTo e.1 e.2) = true := by decide +kernel
/-- Words of class B and what they stand for (Tables 02-1 to 02-12, 02-14; 03, 04, 06, 16 worked words). -/
theorem test_decode_B : ([
  (0x610DFFFD, .braBrz true 6 0x1FFFD), (0xE00C0005, .ubraUbrz false 6 5), (0x6201FFFF, .jmp 0x1FFFF), (0xE2010000, .ujmp 0x10000),
  (0x630C0005, .call 6 5), (0xE30C0005, .ucall 6 5), (0x640C0000, .ret 6), (0xE40C0000, .uret 6),
  (0x65000006, .mark 6), (0xE60DFFFE, .uloop 6 0x1FFFE)
] : List (BitVec 32 × Instr)).all (fun e => decodesTo e.1 e.2) = true := by decide +kernel
/-- Words of class X and what they stand for (Tables 02-1 to 02-12, 02-14; 03, 04, 06, 16 worked words). -/
theorem test_decode_X : ([
  (0x70000000, .nop), (0xF0000000, .unop), (0x70200000, .exit), (0x7040FFFF, .trap 0xFFFF),
  (0xF0400001, .utrap 1), (0x70600002, .brk 2), (0xF0600003, .ubrk 3), (0x70800000, .join),
  (0x70A00000, .regang), (0x7100000F, .bar 15), (0x7120000E, .bara 14), (0x7140000D, .barw 13),
  (0x71600000, .gbar), (0x71800005, .fence .system), (0xF1800000, .ufence .wave), (0x71A00307, .acq 6 7),
  (0xF1A00307, .uacq 6 7), (0x71C00300, .rel 6), (0xF1C00300, .urel 6), (0x71E14307, .bind 5 6 7),
  (0xF1E14307, .ubind 5 6 7), (0x7200000F, .waitt 15), (0x7220000F, .hsig 15), (0xF2200001, .uhsig 1),
  (0x72400001, .ordb true), (0x72400000, .ordb false), (0x72600000, .orde), (0x72800000, .frete),
  (0xF4000000, .halt), (0xF43FFFFF, .at 0x1FFFFF), (0xF4400006, .atv 6), (0xF4600000, .waitc),
  (0xF480FFFF, .tune 0xFFFF)
] : List (BitVec 32 × Instr)).all (fun e => decodesTo e.1 e.2) = true := by decide +kernel
/-- Words that no table assigns (R66): all ones, class 011, unused bits of JOIN and MSYNC, a uniform form that does not exist, RED.EXCH. -/
theorem test_unassigned_words : ([0xFFFFFFFF, 0x30000000, 0x70800001, 0xA2E04007, 0x88814307, 0x2BE00D14, 0xF0A00000, 0x03A14307, 0x0600403F, 0x4D800000]
    : List (BitVec 32)).all refused = true := by decide +kernel
/-- Words of Table 04-4. -/
theorem test_table_04_4 : decodesTo 0x0821C409 (.shfl .xor 7 8 9) = true ∧ decodesTo 0x09008081 (.wred .addF 2 1) = true := by decide +kernel
/-- `decodeTableWord` is the decoder on the opcode table's words. -/
theorem test_table_word : decodeTableWord 32 0x00014307 = some (.intArithLogic .add32 5 6 7) ∧ decodeTableWord 32 0xFFFFFFFF = none := by decide +kernel

/-! ### Values: one step of a wave of 32 threads -/

/-- Registers with one value for all threads, in ascending order. -/
def vs (l : List (Nat × Nat)) (w : Wave) : Wave :=
  { w with regs := l.flatMap fun e => (List.range 32).map fun t => (e.1 * 32 + t, BitVec.ofNat 32 e.2) }
/-- A register with a value for each thread. -/
def vt (n : Nat) (f : Nat → Nat) (w : Wave) : Wave :=
  { w with regs := (List.range 32).map fun t => (n * 32 + t, BitVec.ofNat 32 (f t)) }
/-- A module that is about to run an instruction, with its wave and its card as given. -/
def about (i : Instr) (f : Wave → Wave := id) (k : Card → Card := id) : State :=
  ((State.reset.withFetchWord 32 ((encode i).getD 0).toNat).updWave 0 0 f).updLaunch 0 fun l => { l with card := k l.card }
/-- What a step leaves. -/
def after (s : State) (p : State → Bool) : Bool := match step s with
  | .next t => p t
  | _ => false
/-- A register of a thread once everything on its way has landed. -/
def outcome (w : Wave) (n t : Nat) : Nat :=
  match (w.pend.flatMap fun e => match e.what with | .regs v => v | _ => []).find? fun x => x.1 == n * 32 + t with
  | some x => x.2.toNat
  | none => (w.reg t n).toNat
/-- The step's wave. -/
def wave (t : State) : Wave := (t.wave 0 0).getD Wave.init
/-- Only threads 4 and 9 are active. -/
def few (w : Wave) : Wave := { w with active := 0x210 }
/-- The step gives register n of thread t the value x. -/
def gives (s : State) (n t x : Nat) : Bool := after s fun u => outcome (wave u) n t == x
/-- The issuer of the reset machine's first instruction, its wave as given. -/
def issuer (f : Wave → Wave) : Option Ctx := (State.reset.withFetchWord 32 0).issuer.map fun c => { c with w := f c.w }
/-- The instruction gives register n of thread 9 (of the leader, in a uniform form) the value x when the registers hold the given values. -/
def table (n : Nat) (f : Wave → Wave) (l : List (Instr × List (Nat × Nat) × Nat)) : Bool := l.all fun e =>
  match commonRow e.1 <|> laneRow e.1, issuer (f ∘ vs e.2.1) with
  | some r, some c => (r.value c (if isUniform e.1 then c.leader else 9)).1 / 2 ^ (32 * (n - r.d.toNat)) % 2 ^ 32 == e.2.2
  | _, _ => false
/-- The same for operands that differ by thread. -/
def exchange (l : List (Instr × (Wave → Wave) × Nat)) : Bool := l.all fun e =>
  match laneRow e.1, issuer e.2.1 with
  | some r, some c => (r.value c 9).1 == e.2.2
  | _, _ => false

/-- Integer operations at their edges (Table 04-5): wrap, sign, shift counts of 32 and of 65, fields of width 0, inserts. -/
theorem test_integer : table 5 id
    [(.intArithLogic .add32 5 6 7, [(6, 0xFFFFFFFF), (7, 2)], 1), (.intArithLogic .sub32 5 6 7, [(6, 1), (7, 2)], 0xFFFFFFFF),
     (.intArithLogic .mulh32 5 6 7, [(6, 0x80000000), (7, 2)], 0xFFFFFFFF), (.intArithLogic .mulhu32 5 6 7, [(6, 0x80000000), (7, 2)], 1),
     (.intArithLogic .mad32 5 6 7, [(5, 9), (6, 3), (7, 4)], 21), (.intArithLogic .min32 5 6 7, [(6, 0xFFFFFFFF), (7, 1)], 0xFFFFFFFF),
     (.intArithLogic .maxu32 5 6 7, [(6, 0xFFFFFFFF), (7, 1)], 0xFFFFFFFF), (.intArithLogic .andn 5 6 7, [(6, 0xFF), (7, 0x0F)], 0xF0),
     (.intArithLogic .shl 5 6 7, [(6, 1), (7, 32)], 0), (.intArithLogic .shl 5 6 7, [(6, 1), (7, 65)], 2),
     (.intArithLogic .sar 5 6 7, [(6, 0x80000000), (7, 40)], 0xFFFFFFFF), (.intArithLogic .rotl 5 6 7, [(6, 0x80000001), (7, 1)], 3),
     (.intArithLogic .bfx 5 6 7, [(6, 0xABCD1234), (7, 0x808)], 0x12), (.intArithLogic .bfxs 5 6 7, [(6, 0xF000), (7, 0x40C)], 0xFFFFFFFF),
     (.intArithLogic .bfi 5 6 7, [(5, 0xFFFFFFFF), (6, 0), (7, 0x804)], 0xFFFFF00F), (.intArithLogic .add64 4 6 8, [(6, 0xFFFFFFFF), (8, 1)], 1)] = true := by decide +kernel
/-- Division truncates toward zero; by zero and of the most negative number it gives the fixed values (R135). -/
theorem test_division : table 5 id
    [(.divRem .div 5 6 7, [(6, 0xFFFFFFF9), (7, 2)], 0xFFFFFFFD), (.divRem .rem 5 6 7, [(6, 0xFFFFFFF9), (7, 2)], 0xFFFFFFFF),
     (.divRem .div 5 6 7, [(6, 7)], 0xFFFFFFFF), (.divRem .remu 5 6 7, [(6, 7)], 7),
     (.divRem .div 5 6 7, [(6, 0x80000000), (7, 0xFFFFFFFF)], 0x80000000), (.udivRem .rem 5 6 7, [(5, 1), (6, 0x80000000), (7, 0xFFFFFFFF)], 0)] = true := by decide +kernel
/-- SEL looks at the old destination; comparisons are signed and natural (R136, R137). -/
theorem test_select_and_compare : table 5 id
    [(.sel 5 6 7, [(5, 2), (6, 10), (7, 11)], 10), (.sel 5 6 7, [(6, 10), (7, 11)], 11), (.usel 5 6 7, [(6, 10), (7, 11)], 11),
     (.setCompare .slt 5 6 7, [(6, 0xFFFFFFFF), (7, 1)], 1), (.setCompare .sltu 5 6 7, [(6, 0xFFFFFFFF), (7, 1)], 0),
     (.setCompare .seq64 5 6 8, [(6, 1), (7, 2), (8, 1), (9, 3)], 0), (.usetCompare .slt64 5 6 8, [(7, 0x80000000)], 1)] = true := by decide +kernel
/-- The unary group at its edges (R138). -/
theorem test_unary : table 5 id
    [(.unary .abs 5 6, [(6, 0x80000000)], 0x80000000), (.unary .clz 5 6, [], 32), (.unary .ctz 5 6, [(6, 8)], 3), (.unary .popc 5 6, [(6, 0x80000001)], 2),
     (.unary .brev 5 6, [(6, 1)], 0x80000000), (.unary .sext8 5 6, [(6, 0x180)], 0xFFFFFF80), (.uunary .zext16 5 6, [(6, 0x1FFFF)], 0xFFFF),
     (.unary .neg64 4 6, [(6, 1)], 0xFFFFFFFF)] = true := by decide +kernel
/-- Immediates are sign-extended or not as Table 04-6 says. -/
theorem test_immediate : table 5 id
    [(.immediate .lim 5 0xFFFE, [], 0xFFFFFFFE), (.immediate .limz 5 0xFFFE, [], 0xFFFE), (.immediate .limh 5 0x1234, [(5, 0x5678)], 0x12345678),
     (.immediate .addi 5 0xFFFF, [], 0xFFFFFFFF), (.uimmediate .andi 5 0xFFFF, [(5, 0xFFFFFFFF)], 0xFFFF), (.immediate .slti 5 0, [(5, 0x80000000)], 1),
     (.immediate .muli 5 0xFFFF, [(5, 2)], 0xFFFFFFFE), (.immediate .limf 5 0x3F80, [], 0x3F800000), (.immediate .sari 5 40, [(5, 0x80000000)], 0xFFFFFFFF)] = true := by decide +kernel
/-- Exchanges read the source thread's register (R140-R146); the sum of 0 to 31 is 496, that of 0 to 9 is 45. -/
theorem test_exchanges : exchange
    [(.shfl .xor 5 6 7, fun w => { w with regs := (vt 6 (· + 100) w).regs ++ (vs [(7, 1)] w).regs }, 108),
     (.shfl .up 5 6 7, fun w => { w with regs := (vt 6 (· + 100) w).regs ++ (vs [(7, 10)] w).regs }, 109),
     (.bcast 5 6 7, fun w => { w with regs := (vt 6 (· + 100) w).regs ++ (vs [(7, 35)] w).regs }, 103),
     (.vote .ballot 5 6, vt 6 (· / 16), 0xFFFF0000), (.vote .all 5 6, vt 6 id, 0), (.matchv false 5 6, vt 6 (· / 2), 0x300), (.wred .addI 5 6, vt 6 id, 496),
     (.wscan .addI 5 6, vt 6 id, 45), (.qswz .ddxf 5 6, vt 6 fun t => if t % 2 = 0 then 0x3F800000 else 0x40400000, 0x40000000)] = true := by decide +kernel
/-- Table 04-2: zero sums under round toward −∞ are +0, but for the sum of two −0. -/
theorem test_zero_sums : table 5 (fun w => { w with rmode := 3 })
    [(.fp32Arith .add 5 6 7, [(6, 0x3F800000), (7, 0xBF800000)], 0), (.fp32Arith .add 5 6 7, [(7, 0x80000000)], 0),
     (.ufp32Arith .add 5 6 7, [(6, 0x80000000), (7, 0x80000000)], 0x80000000), (.fp32Arith .add 5 6 7, [(6, 0x80000001)], 0x80000001)] = true := by decide +kernel
/-- FP32 results: 3/2, a NaN, 2·3 + 1, the NaN rule of MIN and MINN (R152), sqrt 4, the tie of RNE, the absolute value, FSCL's tie (R160), packed halves. -/
theorem test_float : table 5 id
    [(.fp32Arith .div 5 6 7, [(6, 0x40400000), (7, 0x40000000)], 0x3FC00000), (.fp32Arith .mul 5 6 7, [(6, 0xFFFFFFFF), (7, 0)], 0x7FC00000),
     (.fp32Arith .fma 5 6 7, [(5, 0x3F800000), (6, 0x40000000), (7, 0x40400000)], 0x40E00000),
     (.fpCompare false .lt 5 6 7, [(6, 0x7FC00000)], 0), (.ufpCompare false .un 5 6 7, [(6, 0x7FC00000)], 1),
     (.fp32Function .sqrt 5 6, [(6, 0x40800000)], 0x40000000), (.fp32Function .rne 5 6, [(6, 0x40200000)], 0x40000000),
     (.ufp32Function .abs 5 6, [(6, 0xBF800000)], 0x3F800000), (.fscl false 5 6 7, [(6, 0x3F800000), (7, 0xFFFFFF6A)], 0),
     (.ufscl false 5 6 7, [(6, 0x3F800000), (7, 3)], 0x41000000), (.packedHalf .hadd 5 6 7, [(6, 0x3C003C00), (7, 0x3C003C00)], 0x40004000),
     (.pack .half 5 6 7, [(6, 0x3F800000), (7, 0x40000000)], 0x40003C00)] = true := by decide +kernel
/-- FP64 results in a pair: 1 + 1, 1/2, and the comparison of pairs; the high words. -/
theorem test_double : table 5 id
    [(.fp64Arith .add 4 6 8, [(7, 0x3FF00000), (9, 0x3FF00000)], 0x40000000), (.ufp64Arith .div 4 6 8, [(7, 0x3FF00000), (9, 0x40000000)], 0x3FE00000),
     (.fpCompare true .lt 5 6 8, [(7, 0x3FF00000), (9, 0x40000000)], 1), (.fp64Function .neg 4 6, [(7, 0x3FF00000)], 0xBFF00000),
     (.ufp64Function .trunc 4 6, [(7, 0x3FF80000)], 0x3FF00000), (.fscl true 4 6 8, [(7, 0x3FF00000), (8, 1)], 0x40000000)] = true := by decide +kernel
/-- R155's DOT4.e4m3: 2^24 + 2 in one rounding; DOT4.i8 is signed. -/
theorem test_dot : table 4 id [(.dot4 .e4m3 4 5 6, [(4, 0x4B800000), (5, 0x00004038), (6, 0x38383038)], 0x4B800001),
    (.dot4 .i8 4 5 6, [(4, 10), (5, 0x0302FF01), (6, 0x01010101)], 15)] = true := by decide +kernel
/-- Conversions saturate, truncate with .rz, and give 0 for a NaN (R157, R158). -/
theorem test_conversions : table 5 id
    [(.cvt ⟨.i32, .f32, true⟩ 5 6, [(6, 0xBFC00000)], 0xFFFFFFFF), (.cvt ⟨.i32, .f32, false⟩ 5 6, [(6, 0x4F800000)], 0x7FFFFFFF),
     (.cvt ⟨.n32, .f32, false⟩ 5 6, [(6, 0x7FC00000)], 0), (.cvt ⟨.f16, .f32, false⟩ 5 6, [(6, 0x3F800000)], 0x3C00),
     (.ucvt ⟨.f32, .i32, false⟩ 5 6, [(6, 0xFFFFFFFF)], 0xBF800000), (.cvt ⟨.e4m3, .f32, true⟩ 5 6, [(6, 0x7F800000)], 0x7E),
     (.ucvt ⟨.e4m3, .f32, false⟩ 5 6, [(6, 0x7F800000)], 0x7F)] = true := by decide +kernel
/-- State indexes of Table 02-15: thread in wave, active mask, waves in group, group index; FLGRD is the OR over the threads (R73). -/
theorem test_state_reads :
    gives (about (.rds 5 1) few) 5 9 9 = true ∧ gives (about (.rds 5 19) few) 5 9 0x210 = true ∧ gives (about (.urds 5 3) few) 5 9 0 = true ∧ gives (about (.urds 5 1) few) 5 9 4 = true ∧
    after (about (.flgrd 5) fun w => { few w with fflags := [(3, 1), (7, 16)] }) (fun t => (wave t).reg 9 5 == 17) = true := by decide +kernel
/-- WRS 26 sets the wave's rounding mode from the leader, WRS 17 each thread's flags (R72). -/
theorem test_state_writes : after (about (.wrs 6 26) (few ∘ vs [(6, 7)])) (fun t => (wave t).rmode == 3) = true ∧
    after (about (.wrs 6 17) (few ∘ vt 6 id)) (fun t => (wave t).flags 9 == 9) = true ∧ after (about (.uwrs 6 17) (few ∘ vt 6 (· + 2))) (fun t => (wave t).flags 9 == 6) = true := by decide +kernel
/-- The flags of FSCL's tie: underflow and inexact (R160); of an inexact addition: inexact. -/
theorem test_flags : after (about (.fscl false 5 6 7) (few ∘ vs [(6, 0x3F800000), (7, 0xFFFFFF6A)])) (fun t => (wave t).flags 9 == 24) = true ∧
    after (about (.fp32Arith .add 5 6 7) (few ∘ vs [(6, 0x4B800000), (7, 0x3F800000)])) (fun t => (wave t).flags 9 == 16 && (wave t).reg 9 5 == 0x4B800000) = true := by decide +kernel
/-- A lane form writes the active threads, a uniform form all of them with the leader's value (R50). -/
theorem test_masks : after (about (.intArithLogic .add32 5 6 7) fun w => { vt 6 id w with active := 0x30 }) (fun t => (wave t).reg 9 5 == 0 && (wave t).reg 5 5 == 5) = true ∧
    after (about (.uintArithLogic .add32 5 6 7) fun w => { vt 6 id w with active := 0x30 }) (fun t => (wave t).reg 9 5 == 4 && (wave t).reg 0 5 == 4) = true := by decide +kernel
/-- Table 03-3, slot 0: the quotient lands three slots on, and no read sees it before. -/
theorem test_landing_distance : after (about (.fp32Arith .div 1 6 7) (few ∘ vs [(1, 10), (6, 0x40400000), (7, 0x40000000)])) (fun t =>
    (wave t).reg 9 1 == 10 && ((wave t).pend.map fun e => e.slot) == [3] && outcome (wave t) 1 9 == 0x3FC00000) = true := by decide +kernel
/-- Table 03-3, slot 2: of two landings at slot 3 the LIMZ, issued later, stands. -/
theorem test_landing_order : after ({ about (.immediate .limz 1 7) fun w => { few w with slot := 2, pend :=
      [{ id := 0, slot := 3, pc := 0, width := 32, mask := 0xFFFFFFFF, what := .regs [(1 * 32 + 9, 0x3FC00000#32)], raise := [], waiting := 0, arrived := true, nextFret := false, ecc := none, acqFail := none, again := false }] } with seq := 1 })
    (fun t => (wave t).reg 9 1 == 7 && (wave t).pend == []) = true := by decide +kernel

/-! ### Witnesses: for every statement with hypotheses, states that meet them -/

/-- The issuer of a state is ready (`Rules.Ready`), and p holds of it. -/
def isReady (s : State) (p : Ctx → Bool) : Bool := match s.issuer with
  | some c => c.w.faulty.isNone && !c.w.late && !(c.ordered && c.w.fretEnded) && c.w.active != 0 && s.eccBad == [] && p c
  | none => false
/-- Every state of a list has a ready issuer of which its condition holds. -/
def Meets (l : List (State × (Ctx → Bool))) : Prop := ∀ e ∈ l, ∃ c, Ready e.1 c ∧ e.2 c = true
theorem meets {l : List (State × (Ctx → Bool))} (h : (l.all fun e => isReady e.1 e.2) = true) : Meets l := by
  intro e he
  have h := List.all_eq_true.mp h e he
  unfold isReady at h
  split at h
  · next c hc =>
    simp only [Bool.and_eq_true, Option.isNone_iff_eq_none, Bool.not_eq_true', bne_iff_ne, ne_eq, beq_iff_eq] at h
    exact ⟨c, ⟨hc, h.1.1.1.1.1, h.1.1.1.1.2, h.1.1.1.2, h.1.1.2, h.1.2⟩, h.2⟩
  · cases h
/-- The register operands are legal (`Rules.Legal`). -/
def legal (c : Ctx) (us : List Use) : Bool := us.all fun u => u.reg.toNat % u.align == 0 && decide (u.reg.toNat + u.n ≤ if c.isCore then 128 else c.card.regs)
theorem legal_iff (c : Ctx) (us : List Use) : legal c us = true ↔ Legal c us := by simp [legal, Legal]
/-- The outcome is a next state of which p holds. -/
def isNext (o : Host.Outcome State Fault Refusal) (p : State → Bool := fun _ => true) : Bool := match o with
  | .next t => p t
  | _ => false
/-- A trap comes of it: the group halts and a record with the code is held for the trap queue of partition 0. -/
def trapsWith (code : Nat) (o : Host.Outcome State Fault Refusal) : Bool := isNext o fun t =>
  (t.heldOf 2).any fun r => (r.headD 0).toNat == code

/-- A wave of two active threads, and the control core of a cluster; in the elastic, the ordered and the locked regime. -/
def lane (f : Wave → Wave := id) (k : Card → Card := id) : State := about .nop (f ∘ few) k
def core (f : Wave → Wave := id) (k : Card → Card := id) : State := about .halt f k
def ordered (k : Card) : Card := { k with regime := 1 }
def lockedCard (k : Card) : Card := { k with regime := 2 }

theorem witness_DecodeInvertsEncode : (Instr.bind 5 6 7).wellFormed = true ∧ encode (.bind 5 6 7) = some 0x71E14307#32 := by decide +kernel
theorem witness_DecodedWordIsTheEncoding : decodesTo 0x71E14307 (.bind 5 6 7) = true := by decide +kernel
/-- A word of class 011, and words of A 1D, A 1F and X 04 (JOIN) with a bit set. -/
theorem witness_ReservedWordsAreRefused : ([0x30000000, 0xBFFFFFFF, 0x03A00000, 0x03E00000, 0x70800001] : List (BitVec 32)).all refused = true := by decide +kernel
/-- The wave's word at its pc; a locked control core, whose cleared stream cache holds ADD.i32 v0, v0, v0. -/
theorem witness_StepRunsDecodedInstruction : Meets
    [(lane, fun c => (match (lane.xlate c.part c.l.ctx c.w.pc.toNat .fetch).1 with | .pa a => decodesTo (BitVec.ofNat 32 (lane.mainLoad c.part a 4)) .nop | _ => false) &&
        comparatorFires lane c == none && !(c.locked && c.isCore)),
     (core id lockedCard, fun c => let s := core id lockedCard
        (match (s.xlate c.part c.l.ctx c.w.pc.toNat .fetch).1 with | .pa _ => true | _ => false) && c.locked && c.isCore &&
        decide (c.card.controlEntry ≤ c.w.pc.toNat) && decide (c.w.pc.toNat < c.card.controlEntry + 16384) && comparatorFires s c == none &&
        decodesTo (BitVec.ofNat 32 (ofBytes (s.mem.bytes (Base.stream c.grp.cluster + (c.w.pc.toNat - c.card.controlEntry)) 4))) (.intArithLogic .add32 0 0 0))] :=
  meets (by decide +kernel)

/-- One instruction of each lane form and of each uniform form of `commonRow` and `laneRow`. -/
def laneForms : List Instr := [.intArithLogic .bfi 5 6 7, .divRem .rem 5 6 7, .sel 5 6 7, .setCompare .slt64 5 6 8, .unary .neg64 4 6, .shfl .up 5 6 7, .bcast 5 6 7,
  .vote .any 5 6, .matchv true 5 6, .wred .addD 4 6, .wscan .xor 5 6, .qswz .ddyc 5 6, .fp32Arith .fma 5 6 7, .fp64Arith .div 4 6 8, .packedHalf .bfma 5 6 7, .dot4 .e5m2 5 6 7,
  .fpCompare true .le 5 6 8, .fp32Function .sin 5 6, .fp64Function .rsq 4 6, .cvt ⟨.f64, .f32, false⟩ 4 6, .pack .e4m3 5 6 7, .fscl true 4 6 7, .immediate .limh 5 1]
def uniformForms : List Instr := [.uintArithLogic .mul64 4 6 8, .udivRem .div 5 6 7, .usel 5 6 7, .usetCompare .sltu64 5 6 8, .uunary .brev 5 6, .ufp32Arith .min 5 6 7,
  .ufp64Arith .fma 4 6 8, .ufpCompare false .un 5 6 7, .ufp32Function .exp2 5 6, .ufp64Function .fclass 5 6, .ucvt ⟨.i64, .f64, true⟩ 4 6, .ufscl false 5 6 7, .uimmediate .shli 5 3]
theorem witness_LaneFormsComplete : Meets [(lane, fun c => !c.isCore && laneForms.all fun i => (laneRow i).any fun r => legal c r.uses)] := meets (by decide +kernel)
theorem witness_UniformFormsComplete : Meets
    [(lane, fun c => uniformForms.all fun i => (uniformRow i).any fun r => legal c r.uses), (core, fun c => uniformForms.all fun i => (uniformRow i).any fun r => legal c r.uses)] :=
  meets (by decide +kernel)
/-- The register file's injector is not armed (`Rules.Unarmed`). -/
def unarmed (s : State) (c : Ctx) : Bool := !s.barFlag (elogOff 1 c.grp.cluster + 0x410) 72
/-- ADD.i32 and MOV.i64: one word and two, one slot on. -/
theorem witness_ShortResultsAreVisibleNext : Meets [(lane, fun c => unarmed lane c && !c.isCore && !c.ordered && c.w.pend == [] &&
    ([.intArithLogic .add32 5 6 7, .unary .mov64 4 6] : List Instr).all fun i => (laneRow i).any fun r => r.dist == 1 && legal c r.uses)] := meets (by decide +kernel)
/-- A landing entry of the given slot that writes one register of thread 9. -/
def entry (id slot n x : Nat) (arrived : Bool) : Landing := { id := id, slot := slot, pc := 0, width := 32, mask := 0x200, what := .regs [(n * 32 + 9, BitVec.ofNat 32 x)], raise := [], waiting := if arrived then 0 else 1, arrived := arrived, nextFret := false, ecc := none, acqFail := none, again := false }
/-- With an entry on its way in another register. -/
theorem witness_RegisterFormsKeepTheRest : Meets
    [(lane fun w => { w with pend := [entry 7 2 9 1 true] }, fun c => let s := lane fun w => { w with pend := [entry 7 2 9 1 true] }
      unarmed s c && !c.isCore && isNext (exec (.intArithLogic .add32 5 6 7) s) && isNext (exec (.uintArithLogic .add32 5 6 7) s))] := meets (by decide +kernel)
/-- One entry before its slot and one at it; two of one slot; one that is missing before one that is there. -/
theorem witness_LandingsComeInOrder :
    ({ Wave.init with slot := 2, pend := [entry 0 3 5 1 true] }).settle.pend.length = 1 ∧
    ({ Wave.init with slot := 3, pend := [entry 0 3 5 1 true] }).settle.reg 9 5 = 1#32 ∧
    ({ Wave.init with slot := 3, pend := [entry 0 3 5 1 true, entry 1 3 5 2 true] }).settle.reg 9 5 = 2#32 ∧
    ({ Wave.init with slot := 3, pend := [entry 0 3 5 1 false, entry 1 3 5 2 true] }).settle.pend.length = 2 := by decide +kernel
theorem witness_DivisionTruncatesTowardZero : (0xFFFFFFF9#32 ≠ 0 ∧ ¬(0xFFFFFFF9#32 = 0x80000000#32 ∧ 2#32 = 0xFFFFFFFF#32)) ∧
    Meets [(lane, fun c => !c.isCore && legal c [w1 5, r1 6, r1 7])] := ⟨by decide, meets (by decide +kernel)⟩
theorem witness_ComparesAndSelectionAreAsStated : Meets [(lane, fun c => !c.isCore && legal c [w1 5, { reg := 6, n := 2, align := 2 }, { reg := 8, n := 2, align := 2 }] && legal c [r1 5, r1 6, r1 7]),
    (core, fun c => legal c [w1 127, { reg := 6, n := 2, align := 2 }, { reg := 126, n := 2, align := 2 }])] := meets (by decide +kernel)
theorem witness_ReductionsSumTheContributors : (31 : Nat) < 32 := by decide
theorem witness_VotesAndExchangesAreAsStated : (31 : Nat) < 32 ∧ (0 : Nat) < 32 := by decide
/-- A quiet and a signalling NaN of each width. -/
theorem witness_FloatResultsObeyTheCommonRules : (0x7FC00000 / 2 ^ 23 % 2 ^ 8 = 255 ∧ 0x7FC00000 % 2 ^ 23 ≠ 0) ∧ (0xFF800001 / 2 ^ 23 % 2 ^ 8 = 255 ∧ 0xFF800001 % 2 ^ 23 ≠ 0) ∧
    (0x7FF8000000000000 / 2 ^ 52 % 2 ^ 11 = 2047 ∧ 0x7FF8000000000000 % 2 ^ 52 ≠ 0) ∧ (0xFFF0000000000001 / 2 ^ 52 % 2 ^ 11 = 2047 ∧ 0xFFF0000000000001 % 2 ^ 52 ≠ 0) := by decide
theorem witness_StateReadsComplete : Meets [(lane, fun c => !c.isCore && legal c [w1 5] && legal c [r1 6]), (core, fun c => legal c [w1 127] && legal c [r1 127])] := meets (by decide +kernel)
/-- BRA taken by all (v6 is 1), by none (v7 is 0), and by one of two threads (v8), with room on the stack and without. -/
theorem witness_BranchesComplete :
    let f (w : Wave) : Wave := { w with regs := [(6 * 32 + 4, 4#32), (6 * 32 + 9, 4#32), (8 * 32 + 9, 4#32)] }
    let full (w : Wave) : Wave := { f w with stack := List.replicate 32 { pc := 0, mask := 1, rejoin := true } }
    let takenBy (c : Ctx) (a : Reg) : BitVec 32 := maskOf (c.active.filter fun t => c.w.reg t a.toNat ≠ 0)
    Meets [(lane f, fun c => !c.isCore && legal c [r1 6] && takenBy c 6 == c.w.active && takenBy c 7 == 0 && takenBy c 8 == 0x200 && c.w.stack == [] && (c.w.reg c.leader 6).toNat % 4 == 0),
      (lane full, fun c => legal c [r1 8] && takenBy c 8 == 0x200 && c.w.stack.length == 32), (core, fun c => legal c [r1 127] && (c.w.reg c.leader 127).toNat % 4 == 0)] := meets (by decide +kernel)
/-- MARK with 31 entries, JOIN with one, the others with none. -/
theorem witness_MarkJoinNopExitComplete :
    let n (k : Nat) (w : Wave) : Wave := { w with stack := List.replicate k { pc := 0, mask := 1, rejoin := true } }
    Meets [(lane (n 31), fun c => !c.isCore && decide (c.w.stack.length < 32)), (lane (n 1), fun c => !c.isCore && c.w.stack != []), (lane, fun c => !c.isCore)] := meets (by decide +kernel)
theorem witness_ControlKeepsMemoryAndRegisters :
    let f (w : Wave) : Wave := { w with stack := [{ pc := 0x1000, mask := 0x10, rejoin := true }] }
    Meets [(lane f, fun c => unarmed (lane f) c && legal c [r1 6] && !c.isCore && c.w.pend == [] && decide (c.w.stack.length < 32) && c.w.stack != [] &&
      (c.w.reg c.leader 6).toNat % 4 == 0 && (c.w.stack.all fun e => e.mask != 0) &&
      ([.braBrz false 6 0, .ubraUbrz true 6 0, .jmp 0, .ujmp 0, .ret 6, .uret 6, .mark 0, .join, .nop, .unop] : List Instr).all fun i => isNext (exec i (lane f)))] := meets (by decide +kernel)
/-- A wave with an empty mask. -/
def empty : State := lane fun w => { w with active := 0 }
theorem witness_EmptyMaskOnlyTakesASlot : (match empty.issuer with
    | some c => c.w.faulty.isNone && !c.w.late && !(c.ordered && c.w.fretEnded) && !c.isCore && c.w.active == 0 && legal c [r1 6, r1 7, r1 5]
    | none => false) = true := by decide +kernel
theorem witness_SoftwareTrapsTakeTheTrap : Meets [(lane, fun c => !c.isCore), (core, fun c => c.isCore)] := meets (by decide +kernel)
theorem witness_TrapHaltsTheGroupAndPostsARecord : Meets [(lane, fun c => !c.isCore && !c.locked)] := meets (by decide +kernel)
/-- A trap with every field at its greatest value. -/
theorem witness_TrapRecordIsTabled : Meets [(lane, fun c => decide (c.l.ctx < 16) && decide (c.part < 64) && decide (c.card.regime < 3) && decide (c.grp.cluster < 256) &&
    decide (c.wi < 32) && decide (c.l.cardVa < 2 ^ 64) && decide (c.grp.index < 2 ^ 32))] ∧ lane.cyc < 2 ^ 64 ∧
    ({ code := 15, index := 15, imm := 0xFFFF, addr := 2 ^ 64 - 1, detail := 2 ^ 32 - 1 } : TrapInfo).causePc = none := ⟨meets (by decide +kernel), by decide +kernel, rfl⟩
/-- The core; a wave of a card with 64 registers and an odd pair; of a locked card; with a full stack and an empty one; a misaligned return. -/
theorem witness_IllegalFormsTrapAtDecode : Meets
    [(core, fun c => c.isCore), (lane id fun k => { k with regs := 64 }, fun c => !c.isCore && decide (c.card.regs ≤ (64 : Reg).toNat)), (lane id lockedCard, fun c => c.locked && legal c [r1 5, r1 6]),
     (lane fun w => { w with stack := List.replicate 32 { pc := 0, mask := 1, rejoin := true } }, fun c => c.w.stack.length == 32), (lane, fun c => c.w.stack == []),
     (lane (vs [(6, 2)]), fun c => legal c [r1 6] && (c.w.reg c.leader 6).toNat % 4 != 0)] := meets (by decide +kernel)

/-! ### One instruction each: control flow and traps (03) -/

/-- BRA that one of two threads takes parks the taker at the target and goes on with the other (R92); BRZ is its converse. -/
theorem test_divergence : isNext (exec (.braBrz false 6 4) (lane fun w => { w with regs := [(6 * 32 + 9, 1#32)] })) (fun t =>
      let w := wave t; w.pc == 0x1004 && w.active == 0x10 && w.stack == [{ pc := 0x1010, mask := 0x200, rejoin := false }]) = true ∧
    isNext (exec (.braBrz true 6 0x1FFFF) lane) (fun t => (wave t).pc == 0xFFC && (wave t).active == 0x210) = true := by decide +kernel
/-- MARK keeps the mask for the rejoin point; JOIN takes the top entry (R90, R98). -/
theorem test_mark_join : isNext (exec (.mark 2) lane) (fun t => (wave t).pc == 0x1004 && (wave t).stack == [{ pc := 0x1008, mask := 0x210, rejoin := true }]) = true ∧
    isNext (exec .join (lane fun w => { w with stack := [{ pc := 0x2000, mask := 0x200, rejoin := false }] })) (fun t =>
      (wave t).pc == 0x2000 && (wave t).active == 0x200 && (wave t).stack == []) = true := by decide +kernel
/-- CALL links the active threads, UCALL all; RET goes to the leader's link; ULOOP counts down and leaves at 1 (R94-R97). -/
theorem test_calls_and_loops : isNext (exec (.call 6 0x100) lane) (fun t => (wave t).pc == 0x1400 && (wave t).reg 9 6 == 0x1004 && (wave t).reg 8 6 == 0) = true ∧
    isNext (exec (.ucall 6 0x100) lane) (fun t => (wave t).reg 8 6 == 0x1004) = true ∧ isNext (exec (.ret 6) (lane (vs [(6, 0x80)]))) (fun t => (wave t).pc == 0x80) = true ∧
    isNext (exec (.uloop 6 0x1FFFF) (lane (vs [(6, 2)]))) (fun t => (wave t).pc == 0xFFC && (wave t).reg 9 6 == 1) = true ∧
    isNext (exec (.uloop 6 0x1FFFF) (lane (vs [(6, 1)]))) (fun t => (wave t).pc == 0x1004 && (wave t).reg 9 6 == 0) = true := by decide +kernel
/-- JMP and UJMP are pc-relative; NOP and UNOP advance; EXIT ends the active threads and the rest stays live (R93, R99, R101). -/
theorem test_jumps_and_exit : isNext (exec (.jmp 0x1FFFF) lane) (fun t => (wave t).pc == 0xFFC) = true ∧ isNext (exec (.ujmp 3) lane) (fun t => (wave t).pc == 0x100C) = true ∧
    isNext (exec .unop lane) (fun t => (wave t).pc == 0x1004) = true ∧
    isNext (exec .exit lane) (fun t => (wave t).active == 0 && (wave t).live == 0xFFFFFDEF) = true ∧ isNext (exec (.ubraUbrz false 6 3) (lane (vs [(6, 1)]))) (fun t => (wave t).pc == 0x100C) = true ∧
    isNext (exec (.uret 6) (lane (vs [(6, 0x84)]))) (fun t => (wave t).pc == 0x84) = true := by decide +kernel
/-- TRAP halts the group behind itself and posts a record with code 11 and its number (R102, R109-R113); BRK code 12. -/
theorem test_software_traps : isNext (exec (.trap 0x1234) lane) (fun t => (wave t).pc == 0x1004 && ((mget 0 t.groups).map (·.status)) == some .halted && t.turn == none &&
      ((t.heldOf 2).map fun r => (ofBytes (r.take 8) % 2 ^ 16, bits (ofBytes r) 63 48, bits (ofBytes r) 127 64)) == [(11, 0x1234, 0x1000)]) = true ∧
    trapsWith 12 (exec (.ubrk 1) lane) = true ∧ trapsWith 11 (exec (.utrap 1) core) = true ∧ trapsWith 12 (exec (.brk 1) lane) = true := by decide +kernel
/-- The codes of the traps of the decode and of the control instructions: UDF 1, ILLOP 2, ALIGN 3, STACK 7. -/
theorem test_trap_codes : trapsWith 1 (exec .halt lane) = true ∧ trapsWith 2 (exec (.unary .mov64 5 6) lane) = true ∧ trapsWith 3 (exec (.ret 6) (lane (vs [(6, 2)]))) = true ∧
    trapsWith 7 (exec .join lane) = true := by decide +kernel

/-! ### One instruction each, and witnesses: memory (05, 06) -/

/-- Threads 4 and 9 with addresses of their own in v2 (group memory), v3 (scratchpad) and, 8 bytes apart, v6 and v7. -/
def addresses (w : Wave) : Wave := { w with regs := [(2 * 32 + 4, 16#32), (2 * 32 + 9, 36#32), (3 * 32 + 4, 0x40000020#32), (3 * 32 + 9, 0x40000048#32), (4 * 32 + 4, 0xAB#32), (4 * 32 + 9, 0xCD#32), (6 * 32 + 4, 0x20#32), (6 * 32 + 9, 0x48#32)] }
def leaderOnly (w : Wave) : Wave := { w with regs := [(2 * 32, 16#32), (3 * 32, 0x40000020#32), (6 * 32, 0x20#32)] }

/-- Every bank that a load touches is asked for a word of each thread, and its result lands three slots on in group memory, twelve in the scratchpad (R103). -/
theorem test_loads : isNext (exec (.ldg false 5 2 1) (lane addresses)) (fun t => (t.reqs.map fun r => (r.onDie, r.width, r.targets)) == [(20, 4, [4]), (40, 4, [9])] &&
      ((wave t).pend.map fun e => (e.slot, e.waiting)) == [(3, 2)]) = true ∧
    isNext (exec (.uldg true 8 6 0) (lane addresses)) (fun t => (t.reqs.map fun r => (r.addr - Base.local_ 0, r.width, r.targets.length)) == [(0x20, 8, 32)]) = true ∧
    isNext (exec (.lds .w1 5 3 0) (lane addresses)) (fun t => (t.reqs.map fun r => (r.addr - Base.slice 0, r.local_)) == [(0x20, false), (0x48, false)] &&
      ((wave t).pend.map fun e => e.slot) == [12]) = true ∧
    isNext (exec (.ldgxStsx .ldgx 5 2 6) (lane addresses)) (fun t => (t.reqs.map fun r => r.onDie) == [0x30, 0x6C]) = true := by decide +kernel
/-- A store carries each thread's own word; a uniform store the leader's; a helper's store is dropped (R121). -/
theorem test_stores : isNext (exec (.stg false 4 2 0) (lane addresses)) (fun t => (t.reqs.map fun r => r.kind) == [.store 0xAB, .store 0xCD]) = true ∧
    isNext (exec (.usts .w1 4 3 0) (lane addresses)) (fun t => (t.reqs.map fun r => r.kind) == [.store 0xAB]) = true ∧
    isNext (exec (.sts .w1 4 3 0) (lane fun w => { addresses w with helper := 0x10 })) (fun t => (t.reqs.map fun r => r.kind) == [.store 0xCD]) = true := by decide +kernel
/-- A spill goes to thread t's word of its row: offset 4 is row 1, 128 bytes on (R166). -/
theorem test_spill : isNext (exec (.sps 4 7 1) (lane addresses fun k => { k with spillBytes := 256 })) (fun t =>
      (t.reqs.map fun r => (r.addr - Base.local_ 0, r.kind)) == [(128 + 16, .store 0xAB), (128 + 36, .store 0xCD)]) = true ∧
    trapsWith 7 (exec (.spl 4 7 2) (lane addresses fun k => { k with spillBytes := 256 })) = true := by decide +kernel
/-- The degrees of Table 05-3: 4·t and one word for all are legal in the locked regime, 128·t overloads bank 0 in every step. -/
theorem test_bank_degree :
    let lds (f : Nat → Nat) : Bool := State.overloaded false false ((List.range 32).map fun t => (t, .window (Base.slice 0 + f t))) 4
    let ldg (f : Nat → Nat) : Bool := State.overloaded false false ((List.range 32).map fun t => (t, .group (Base.local_ 0 + f t))) 4
    ldg (4 * ·) = false ∧ ldg (128 * ·) = true ∧ ldg (fun _ => 0x40) = false ∧ lds (8 * ·) = false := by decide +kernel
/-- ALIGN before BOUNDS before WATCH, by thread (R169); a control core has no group memory. -/
theorem test_access_traps : trapsWith 3 (exec (.ldg false 5 2 0) (lane (vs [(2, 6)]))) = true ∧ trapsWith 4 (exec (.ldg false 5 2 0) (lane (vs [(2, 0x10000)]))) = true ∧
    trapsWith 4 (exec (.sts .w1 4 3 0) (lane (vs [(3, 0x40200000)]))) = true ∧ trapsWith 4 (exec (.uldg false 4 2 0) core) = true := by decide +kernel
/-- Each atomic asks the bank once per thread; RED returns nothing; CAS carries the old destination (R197, R201). -/
theorem test_atomics : isNext (exec (.atom .add32 5 2 4) (lane addresses)) (fun t => (t.reqs.map fun r => (r.kind, r.land.isSome)) == [(.atomic .add32 0xAB, true), (.atomic .add32 0xCD, true)]) = true ∧
    isNext (exec (.red .xor 3 4) (lane addresses)) (fun t => (t.reqs.map fun r => (r.kind, r.land.isSome)) == [(.atomic .xor 0xAB, false), (.atomic .xor 0xCD, false)]) = true ∧
    isNext (exec (.cas false 4 2 6) (lane addresses)) (fun t => (t.reqs.map fun r => r.kind) == [.cas 0xAB 0x20, .cas 0xCD 0x48]) = true ∧
    atomicNew .add32 0xFFFFFFFF 2 = 1 ∧ atomicNew .min32 1 0xFFFFFFFF = 0xFFFFFFFF ∧ atomicNew .minu32 1 0xFFFFFFFF = 1 ∧ atomicNew .fmax32 0x3F800000 0x7FC00000 = 0x7FC00000 := by decide +kernel

/-- Accesses reach their places (`Rules.Reaches`), and no bank twice in a step. -/
def reaches (s : State) (c : Ctx) (ad : Admit) (rd wr : Bool) (ts : List Nat) (addr : Nat → Nat) (n : Nat) : Bool :=
  (ts.all fun t => addr t % n == 0 && (s.place c ad (addr t) n).isSome && (s.watchAt c (addr t) n rd wr).isNone) &&
  !State.overloaded (rd && wr) (ts.length == 1) (ts.map fun t => (t, (s.place c ad (addr t) n).getD (.group 0))) n
/-- The elastic, the ordered and the locked regime. -/
theorem witness_LoadsComplete : Meets ([id, ordered, lockedCard].map fun k => (lane addresses k, fun c => let s := lane addresses k
      legal c [r1 2, r1 6] && !c.isCore && legal c [gUse true 8 false] && legal c [sUse .w4 8 false] && legal c [sUse .w2 8 false] && reaches s c .group true false c.active (mem c · 2 1 4) 4 &&
      reaches s c .group true false c.active (mem c · 6 0 8) 8 && reaches s c .group true false [c.leader] (mem c · 6 0x3FF 8) 8 &&
      reaches s c .windowOrGeometry true false c.active (mem c · 3 0 8) 8 && reaches s c .windowOrGeometry true false [c.leader] (mem c · 3 0 4) 4)) ∧
    Meets [(core leaderOnly, fun c => reaches (core leaderOnly) c .windowOrGeometry true false [c.leader] (mem c · 3 0 16) 16)] := ⟨meets (by decide +kernel), meets (by decide +kernel)⟩
theorem witness_StoresComplete : Meets ([id, ordered, lockedCard].map fun k => (lane addresses k, fun c => let s := lane addresses k
      legal c [r1 2, r1 6] && !c.isCore && legal c [gUse true 8 true] && legal c [sUse .w4 8 true] && reaches s c .group false true (doers c) (mem c · 2 1 4) 4 &&
      reaches s c .group false true [c.leader] (mem c · 6 0 8) 8 && reaches s c .window false true (doers c) (mem c · 3 0 8) 8)) ∧
    Meets [(core leaderOnly, fun c => reaches (core leaderOnly) c .window false true [c.leader] (mem c · 3 0 16) 16)] := ⟨meets (by decide +kernel), meets (by decide +kernel)⟩
theorem witness_AccessesAreAskedOfTheBanks : Meets [(lane, fun c => !c.ordered), (lane id ordered, fun c => c.ordered)] := meets (by decide +kernel)
/-- A watchpoint of context 0 of partition 0 on reads and writes of bytes 36 to 39 of group memory. -/
def watched : State := { lane addresses with bar := (lane addresses).bar.store 0x11C040 9 (36 / 8 * 8 + 8 * 2 ^ 32 + 3 * 2 ^ 64) }
/-- Thread 9 after thread 4: misaligned, outside, watched. -/
theorem witness_AccessTrapsComeInOrder :
    let at9 (x : Nat) (w : Wave) : Wave := { w with regs := [(2 * 32 + 4, 16#32), (2 * 32 + 9, BitVec.ofNat 32 x), (3 * 32 + 4, 0x40000020#32), (3 * 32 + 9, BitVec.ofNat 32 (0x40000000 + x))] }
    let first (s : State) (c : Ctx) : Bool := c.active == [4, 9] && !c.isCore && legal c [r1 5, r1 2] && reaches s c .group true false [4] (mem c · 2 0 4) 4 && reaches s c .window false true [4] (mem c · 3 0 4) 4
    Meets [(lane (at9 38), fun c => first (lane (at9 38)) c && mem c 9 2 0 4 % 4 != 0), (lane (at9 0x200000), fun c => first (lane (at9 0x200000)) c &&
        (lane (at9 0x200000)).place c .group (mem c 9 2 0 4) 4 == none && (lane (at9 0x200000)).place c .window (mem c 9 3 0 4) 4 == none),
      (watched, fun c => watched.watchAt c (mem c 9 2 0 4) 4 true false == some 0 && (watched.watchAt c (mem c 4 2 0 4) 4 true false).isNone), (core, fun c => c.isCore)] := meets (by decide +kernel)
/-- No error injection register is armed while the error blocks read as reset. -/
theorem noInjection {s : State} (h : (s.bar.all fun c => decide (c.1 < 0x1000000)) = true) : NoInjection s := by
  have hz : ∀ a, 0x1000000 ≤ a → s.bar.byte a = 0#8 := by
    intro a ha
    have : mget a s.bar = none := by
      generalize s.bar = m at h
      induction m with
      | nil => rfl
      | cons e t ih =>
        simp only [List.all_cons, Bool.and_eq_true, decide_eq_true_eq] at h
        obtain ⟨k, v⟩ := e
        simp only [mget]
        rw [if_neg (by have := h.1; simp only at this; omega)]
        exact ih h.2
    simp [Mem.byte, dget, this]
  have hl : ∀ n a, 0x1000000 ≤ a → s.bar.load a n = 0 := by
    intro n
    unfold Mem.load
    induction n with
    | zero => intro a _; rfl
    | succ n ih => intro a ha; simp [Mem.bytes, ofBytes, hz a ha, ih (a + 1) (by omega)]
  intro w
  unfold State.injectorFor
  split
  · rfl
  · next id cl off _ =>
    have hb : s.barFlag (elogOff id cl + 0x410) 72 = false := by
      simp only [State.barFlag, State.barBits]
      rw [hl _ _ (by unfold elogOff; split <;> omega)]
      decide
    simp [hb]
/-- Offsets inside the stack (rows 0 and 1 of 2), misaligned, and beyond it. -/
theorem witness_SpillAccessesComplete :
    let k (k : Card) : Card := { k with spillBytes := 256 }
    let o (c : Ctx) (a : Reg) (off : BitVec 10) (t : Nat) : Nat := mem c t a off 4
    let q (x : Card) : Card := ordered (k x)
    NoInjection (lane id q) ∧ (lane id q).mem.wf = true ∧
    Meets [(lane id q, fun c => c.ordered && legal c [r1 5, r1 6] && !c.isCore && (c.active.all fun t => o c 6 1 t % 4 == 0 && decide (o c 6 1 t / 4 < 2)) && c.grp.spillBase % 4 == 0 &&
        c.card.spillBytes % 128 == 0 && decide (Base.local_ c.grp.cluster + c.grp.spillBase + 256 ≤ Base.local_ (c.grp.cluster + 1))),
      (lane id k, fun c => !c.ordered && legal c [r1 5, r1 6] && !c.isCore && c.grp.spillBase % 4 == 0 && c.card.spillBytes % 128 == 0 && decide (c.grp.cluster < 256) &&
        decide (Base.local_ c.grp.cluster + c.grp.spillBase + 256 ≤ Base.local_ (c.grp.cluster + 1)) && (c.active.all fun t => o c 6 0 t % 4 == 0 && decide (o c 6 1 t / 4 < 2))),
      (lane (vs [(6, 2)]) k, fun c => o c 6 0 c.leader % 4 != 0), (lane (vs [(6, 8)]) k, fun c => o c 6 0 c.leader % 4 == 0 && decide (2 ≤ o c 6 0 c.leader / 4))] :=
  ⟨noInjection (by decide +kernel), by decide +kernel, meets (by decide +kernel)⟩
theorem witness_AtomicsComplete : Meets ([id, ordered, lockedCard].map fun k => (lane addresses k, fun c => let s := lane addresses k
      !c.isCore && unarmed s c && (c.w.pend.all fun e => e.id != s.seq) && legal c [atomUse .add32 5 false, r1 2, atomUse .add32 4 true] && legal c [gUse true 8 true, r1 6, gUse true 4 true] && legal c [atomUse .max64 4 false, r1 6, atomUse .max64 8 true] &&
      reaches s c .groupOrWindow true true (doers c) (fun t => (c.w.reg t 2).toNat) 4 && reaches s c .groupOrWindow true true (doers c) (fun t => (c.w.reg t 3).toNat) 8)) :=
  meets (by decide +kernel)

/-! ### One instruction each, and witnesses: banks, barriers and ordering (05, 06, 07) -/

/-- The state after an instruction or an event. -/
def thenDo (i : Instr) (s : State) : State := match exec i s with
  | .next t => t
  | _ => s
/-- Once its requests have reached their banks. -/
def later (s : State) : State := { s with cyc := 200 }
/-- A wave's two stores, the request of thread 4 first. -/
def stored : State := later (thenDo (.stg false 4 2 0) (lane addresses))
def scratch : State := later (thenDo (.sts .w1 4 3 0) (lane addresses))
def first (s : State) : Nat := (s.reqs.head?.map (·.id)).getD 0
/-- A bank that serves a store leaves its four bytes, little end first, and no others; one that serves a load delivers the old value (R193). -/
theorem test_bank_requests : isNext (exec (.localStoreRequest (first stored)) stored) (fun t => t.mem.load (Base.local_ 0 + 16) 4 == 0xAB && t.mem.load (Base.local_ 0 + 36) 4 == 0 && t.reqs.length == 1) = true ∧
    isNext (exec (.bankRequest (first scratch)) scratch) (fun t => t.mem.load (Base.slice 0 + 0x20) 4 == 0xAB) = true ∧
    (let s := later (thenDo (.ldg false 5 2 0) { lane addresses with mem := (lane addresses).mem.store (Base.local_ 0 + 16) 4 7 })
     isNext (exec (.localStoreRequest (first s)) s) (fun t => ((wave t).pend.map fun e => (e.what, e.waiting)) == [(.regs [(5 * 32 + 4, 7#32)], 1)])) = true := by decide +kernel
/-- A group of three waves, the turn at one of them. -/
def three (wi : Nat) (f : Group → Group := id) (h : Wave → Wave := id) : State :=
  { (lane.updGroup 0 fun g => f { g with waves := List.replicate 3 ((g.waves.headD Wave.init)) }).updWave 0 wi h with turn := some (0, wi) }
/-- R179's example: wave 0 arrives, wave 1 arrives and waits, wave 2 ends and the phase completes; a second arrival would trap. -/
theorem test_barriers : isNext (exec (.bara 0) (three 0)) (fun t => (mget 0 t.groups).map (·.barCount) == some [(0, 1)] && ((t.wave 0 0).map (·.tickets)) == some [(0, 0)]) = true ∧
    isNext (exec (.bar 0) (three 1 fun g => { g with barCount := [(0, 1)] })) (fun t => (mget 0 t.groups).map (·.barCount) == some [(0, 2)] &&
      ((t.wave 0 1).map fun w => (w.pc, w.wait)) == some (0x1000, .bar 0)) = true ∧
    isNext (exec .exit (three 2 (fun g => { g with barCount := [(0, 2)] }) fun w => { w with live := 0x210 })) (fun t => (mget 0 t.groups).map (fun g => (g.barCount, g.barPhase)) == some ([], [(0, 1)])) = true ∧
    isNext (exec (.barw 0) (three 0 (fun g => { g with barPhase := [(0, 1)] }) fun w => { w with tickets := [(0, 0)] })) (fun t => ((t.wave 0 0).map fun w => (w.pc, w.tickets)) == some (0x1004, [])) = true ∧
    trapsWith 6 (exec (.bara 0) (three 0 (fun g => { g with barCount := [(0, 1)] }) fun w => { w with tickets := [(0, 0)] })) = true := by decide +kernel
/-- A wave whose v6 names the peg at window address 0x40000000 and whose v7 is a sequence. -/
def pegged (q : Nat) : State := lane (vs [(6, 0x40000000), (7, q)])
/-- ACQ passes once the peg has reached the sequence and waits before (R221); REL is owed after the accesses; FENCE opens an epoch; FRETE ends the fret. -/
theorem test_ordering : isNext (exec (.acq 6 7) (pegged 0)) (fun t => (wave t).pc == 0x1004) = true ∧ isNext (exec (.acq 6 7) (pegged 1)) (fun t => (wave t).pc == 0x1000 && t.turn == none) = true ∧
    isNext (exec (.rel 6) (pegged 0)) (fun t => t.rels.map (·.target) == [.peg (Base.slice 0)]) = true ∧ isNext (exec (.fence .die) lane) (fun t => (wave t).epoch == 1) = true ∧
    isNext (exec .frete (lane id ordered)) (fun t => (wave t).fretEnded) = true ∧ isNext (exec .frete lane) (fun t => !(wave t).fretEnded) = true := by decide +kernel
/-- The binding of 0x100 bytes for the peg at the window's start. -/
def bound : PegBinding := { peg := 0x40000000, base := 0x40001000, len := 0x100, owner := none, links := [] }
/-- BIND names 0x100 bytes for a peg; an overlapping binding of another peg traps, length 0 withdraws it (R219). -/
theorem test_binding : isNext (exec (.bind 6 7 8) (lane (vs [(6, 0x40000000), (7, 0x40001000), (8, 0x100)]))) (fun t => (mget 0 t.launches).map (·.bindings) == some [{ bound with owner := some (0, 0) }]) = true ∧
    trapsWith 6 (exec (.ubind 6 7 8) ((lane (vs [(6, 0x40000008), (7, 0x400010F8), (8, 0x100)])).updLaunch 0 fun l => { l with bindings := [bound] })) = true := by decide +kernel

/-- The request's turn at its bank has come (`Rules.Served`). -/
def served (s : State) (r : Req) : Bool := !r.banks.any (asleep s) && match r.due with
  | none => decide (r.arrive ≤ s.cyc) && s.mayServe r && !behind s r && (!s.banksBusy r.banks || merged s r)
  | some t => decide (t ≤ s.cyc) && !bankTaken s r
theorem served_iff (s : State) (r : Req) : served s r = true ↔ Served s r := by
  unfold served Served
  cases r.due <;> cases s.banksBusy r.banks <;> simp [and_assoc]
/-- Nothing waits for the wave's accesses (`Rules.NothingWaits`). -/
def nothingWaits (s : State) (g wi : Nat) : Bool := ((s.wave g wi).all fun w => !w.leaving) &&
  (mget g s.groups).all fun x => x.barAfter == [] && (mget x.launch s.launches).all fun l => l.gbarAfter == none
theorem nothingWaits_iff (s : State) (g wi : Nat) : nothingWaits s g wi = true ↔ NothingWaits s g wi := by
  simp [nothingWaits, NothingWaits, Option.all_eq_true]
/-- The requests of a store, a load, an atomic, a CAS (elastic) and a store of a locked launch at its cycle; and no injection in any of them. -/
theorem witness_BankRequestsPerform :
    (([stored, scratch, later (thenDo (.lds .w1 5 3 0) (lane addresses)), later (thenDo (.atom .add32 5 3 4) (lane addresses)), later (thenDo (.cas true 8 3 6) (lane addresses)),
      { thenDo (.stg false 4 2 0) (lane addresses lockedCard) with cyc := 100 }]).all fun s => match s.reqs with
        | r :: _ => served s r && nothingWaits s r.group r.wave && s.eccBad == [] && s.mem.wf && s.bar.wf && (arrayOf (r.addr / 8 * 8)).isSome && decide (0 < r.width) && decide (r.addr % 8 + r.width ≤ 8)
        | [] => false) = true ∧ NoInjection stored := ⟨by decide +kernel, noInjection (by decide +kernel)⟩
theorem witness_AtomicsWriteTheTabledValue : ∃ n ∈ [0x7FC00000, 0], n / 2 ^ 23 % 256 = 255 ∧ n % 2 ^ 23 ≠ 0 := ⟨0x7FC00000, by decide⟩
/-- BARW with a past ticket, with none, BARA with a present one, of fewer than all waves, of the ordered regime; GBAR without a cooperative card and past its
phase; REGANG unparted; WAITT with an arrived result; MWAIT whose word differs and agrees. -/
theorem witness_BarrierInstructionsComplete :
    let past := three 0 (fun g => { g with barPhase := [(1, 1)] }) fun w => { w with tickets := [(1, 0)], wait := .bar 1 }
    let present := three 0 id fun w => { w with tickets := [(1, 0)] }
    let coop := (lane (fun w => { w with wait := .gbar 0 }) fun k => { k with coop := 1 }).updLaunch 0 fun l => { l with gbarPhase := 1 }
    let d : Deferred := { id := 0, pc := 0, reg := 8, words := 2, mask := 0x210, job := .visibility, value := some [], arrived := true, raise := [], ecc := none, got := [], fault := none, failed := none }
    let due (w : Wave) : Wave := { w with deferred := [d] }
    Meets [(past, fun c => !c.isCore && !c.ordered && !c.locked && mget 1 c.w.tickets == some 0 && phase c 1 != 0 && c.w.wait == .bar 1),
      (lane, fun c => mget 1 c.w.tickets == none && c.card.coop == 0 && !State.isParted c && !State.gangDiffers c), (lane id lockedCard, fun c => c.locked && c.grp.barDue == []),
      (present, fun c => mget 1 c.w.tickets == some (phase c 1) && c.w.wait != .bar 1 && !c.ordered), (three 0, fun c => dget 0 1 c.grp.barCount + 1 != State.liveWaves c.grp && c.w.wait != .bar 1),
      (lane id ordered, fun c => c.ordered && c.w.retired == 0 && mget 1 c.w.tickets != some (phase c 1)),
      (coop, fun c => c.card.coop != 0 && c.w.wait == .gbar 0 && c.l.gbarDue == none && c.l.gbarPhase != 0),
      (lane due, fun c => (c.w.deferred.take (c.w.deferred.length - 0)).all fun e => e.arrived && e.ecc == none && e.failed == none),
      (lane (vs [(5, 1)]), fun c => let s := lane (vs [(5, 1)]); !c.locked && s.reqs == [] && s.rels == [] && legal c [r1 5, r1 6] && c.w.wait == .none && (s.place c .groupOrWindow (mem c c.leader 6 0 4) 4).isSome &&
        (s.watchAt c (mem c c.leader 6 0 4) 4 true false).isNone && val c 5 == 1 && val c 6 == 0)] := meets (by decide +kernel)
theorem witness_BarrierPhasesComplete : Meets [(lane, fun c => !c.isCore && !c.locked && !c.ordered && rising c.grp.barPhase && rising c.grp.barCount &&
    mget 0 c.w.tickets != some (phase c 0) && dget 0 0 c.grp.barCount + 1 == State.liveWaves c.grp)] := meets (by decide +kernel)
/-- A peg (aligned, misaligned, outside the window), a sequence reached and not reached, bindings that overlap and do not; waves and cores, the three regimes. -/
theorem witness_OrderingInstructionsComplete :
    let ok (s : State) (c : Ctx) : Bool := legal c [r1 6, r1 7, r1 8] && val c 6 % 8 == 0 && s.inWindow c.part (val c 6) 8 && (s.watchAt c (val c 6) 8 true true).isNone && s.reqs == [] && s.rels == []
    let at_ (s : State) (c : Ctx) : Nat := s.mem.load (s.windowAddr c.part (val c 6)) 8
    let b := lane (vs [(6, 0x40000000), (7, 0x40001000), (8, 0x100)])
    let b' := (lane (vs [(6, 0x40000008), (7, 0x400010F8), (8, 0x100)])).updLaunch 0 fun l => { l with bindings := [bound] }
    let other (c : Ctx) : Bool := (c.l.bindings ++ c.l.newBindings).any fun e => e.peg != val c 6 && decide (val c 7 < e.base + e.len) && decide (e.base < val c 7 + val c 8)
    Meets ([(pegged 0, fun c => ok (pegged 0) c && !c.isCore && !c.locked && val c 7 ≤ at_ (pegged 0) c && val c 8 == 0 && !c.ordered), (pegged 1, fun c => ok (pegged 1) c && at_ (pegged 1) c < val c 7),
      (core (vs [(6, 0x40000000)]), fun c => ok (core (vs [(6, 0x40000000)])) c && c.isCore), (lane (vs [(6, 4)]), fun c => legal c [r1 6] && val c 6 % 8 != 0),
      (lane (vs [(6, 0x40200000)]), fun c => val c 6 % 8 == 0 && !(lane (vs [(6, 0x40200000)])).inWindow c.part (val c 6) 8),
      (b, fun c => ok b c && val c 7 % 8 == 0 && val c 8 % 8 == 0 && val c 8 != 0 && b.inWindow c.part (val c 7) (val c 8) && !other c && c.l.bindings == []), (b', fun c => ok b' c && b'.inWindow c.part (val c 7) (val c 8) && other c)] ++
      [ordered, lockedCard].map fun k => (lane (vs [(6, 0x40000000)]) k, fun c => ok (lane (vs [(6, 0x40000000)]) k) c && c.w.retired == 0)) := meets (by decide +kernel)

/-! ### One instruction each, and witnesses: the control core, the fabric, the matrix, copy, task and quasirandom engines (08 to 12, 16) -/

/-- The state with the registers of cluster 0 as given. -/
def withCluster (s : State) (f : Cluster → Cluster) : State := s.setCluster 0 (f (s.cluster 0))
/-- A control core of a locked card with a pending stamp. -/
def stamped (t : Nat) (f : Wave → Wave := id) (k : Card → Card := id) : State := core (fun w => { f w with stamp := some (BitVec.ofNat 64 t) }) (lockedCard ∘ k)

/-- HSIG counts up h3; HWAIT passes at a value reached and not before; HALT ends the stream; AT, ATV and WAITC keep the schedule (R268-R276). -/
theorem test_core : isNext (exec (.hsig 3) lane) (fun t => (t.cluster 0).h == [(3, 1#32)]) = true ∧ isNext (exec (.hwait 3 6) (core (vs [(6, 1)]))) (fun t => (wave t).pc == 0x1000) = true ∧
    isNext (exec (.hwait 3 6) (withCluster (core (vs [(6, 1)])) fun c => { c with h := [(3, 2#32)] })) (fun t => (wave t).pc == 0x1004) = true ∧
    isNext (exec .halt core) (fun t => (wave t).ended) = true ∧ isNext (exec (.at 0x300) (core id lockedCard)) (fun t => (wave t).stamp == some 0x300#64) = true ∧
    isNext (exec (.atv 6) (core (vs [(6, 5), (7, 1)]) lockedCard)) (fun t => (wave t).stampBase == 0x100000005#64) = true ∧
    isNext (exec .waitc (stamped 0x100)) (fun t => (wave t).nextIssue == 0x100 && (wave t).pc == 0x1000) = true := by decide +kernel
/-- A range is recorded and released; AZERO joins the queue under number 1; MSYNC passes when nothing waits (R292, R301, R303). -/
theorem test_matrix : isNext (exec (.ores 2 6 7) (core (vs [(6, 0x60140)]))) (fun t => (t.cluster 0).ranges == [(2, { gbase := 0x40, gcount := 1, fmt := 3, sb := 0, ss := 0 })]) = true ∧
    trapsWith 6 (exec (.orel 2) core) = true ∧ isNext (exec (.azero 4) core) (fun t => (t.cluster 0).cmds.map (fun m => (m.num, m.tile)) == [(1, 4)] && (t.cluster 0).issued == 1) = true ∧
    isNext (exec (.msync 6) core) (fun t => (wave t).pc == 0x1004) = true ∧ trapsWith 4 (exec (.owr 2 6 7) lane) = true := by decide +kernel
/-- A copy of 64 bytes from the scratchpad to group memory joins the engine in batch 1; CLOSE returns the batch's number and opens the next; WAITB waits for it. -/
def copyRegs : Wave → Wave := vs [(8, 0x40000000), (10, 0x40000800), (12, 0x10040), (13, 0x901), (14, 64), (15, 64)]
theorem test_copy : isNext (exec (.cpy 8) (lane copyRegs)) (fun t => t.copies.map (fun e => (e.2.src, e.2.dst, e.2.xb, e.2.yr, e.2.zp, e.2.sspace, e.2.dspace, e.2.batch)) ==
      [(0x40000000, 0x40000800, 64, 1, 1, 1, 1, 1)]) = true ∧
    isNext (exec (.close 5) (lane)) (fun t => (wave t).batch == 2 && (wave t).reg 9 5 == 1) = true ∧
    isNext (exec (.waitb 5 7) (lane fun w => { vs [(7, 1)] w with batch := 2, batchBits := [(1, 4)] })) (fun t => (wave t).reg 9 5 == 4 && (wave t).batchBits == []) = true := by decide +kernel
/-- ENQ joins the intake with status 0; TKARG computes the record's address; RPUB without a head traps (R341, R346, R433). -/
theorem test_task : isNext (exec (.enq 5 6 8) (lane (vs [(6, 0x1000)]))) (fun t => (t.partOf 0).intake.map (·.addr) == [0x1000] && outcome (wave t) 5 9 == 0) = true ∧
    isNext (exec (.tkarg 6 8 9) (lane (vs [(8, 2), (9, 4)]) fun k => { k with argBase := 0x5000, argBytes := 16, argCount := 3 })) (fun t => outcome (wave t) 6 9 == 0x5024) = true ∧
    trapsWith 14 (exec .rpub lane) = true := by decide +kernel

/-- A launch as given in the state. -/
def withLaunch (s : State) (f : Launch → Launch) : State := s.updLaunch 0 f
def noClaim : State := { lane with clusters := [] }
/-- Without and with a claim, in the three regimes; a counter reached and not reached; a core elastic and locked, without a stamp, before it and after it;
TUNE with a correction to insert, by the top-left core and by another. -/
theorem witness_CoreInstructionsComplete :
    let legal' (c : Ctx) : Bool := legal c [r1 6] && legal c [r2 8]
    let reached (s : State) (c : Ctx) : Bool := decide ((dget 0#32 3 (here s c).h - c.w.reg c.leader 6).toNat < 2 ^ 31)
    let tuned := withLaunch (core id lockedCard) fun l => { l with corr := 5 }
    let other := (withLaunch (core id lockedCard) fun l => { l with corr := 5 }).updGroup 0 fun g => { g with cluster := 1 }
    Meets ([(noClaim, fun c => !holdsClaim noClaim c && c.w.retired == 0), (lane, fun c => holdsClaim lane c && !c.isCore && !c.locked && !c.ordered && lane.reqs == [] && lane.rels == [] && legal' c && reached lane c),
      (lane id ordered, fun c => holdsClaim (lane id ordered) c && c.ordered && c.w.retired == 0), (lane id lockedCard, fun c => holdsClaim (lane id lockedCard) c && c.locked),
      (lane (vs [(6, 1)]) lockedCard, fun c => legal' c && c.locked && !reached (lane (vs [(6, 1)]) lockedCard) c), (core, fun c => c.isCore && !c.locked), (core id lockedCard, fun c => c.isCore && c.locked && c.w.stamp == none),
      (stamped 0, fun c => c.w.stamp.any fun x => x.toNat ≤ (stamped 0).scy c.l), (stamped 200, fun c => c.w.stamp.any fun x => (stamped 200).scy c.l < x.toNat),
      (tuned, fun c => c.locked && c.grp.cluster == topLeft tuned c.l && corrNow tuned c.l == 5), (other, fun c => c.grp.cluster != topLeft other c.l)] : List (State × (Ctx → Bool))) := meets (by decide +kernel)
/-- A locked core of a multi-package launch whose partition owns port 0. -/
def onPort (f : Wave → Wave) : State := { stamped 1000 f fun k => { k with pgt := 64 } with bar := (stamped 1000).bar.store (pcfgOff 0 + 8) 8 1 }
/-- A SEND of one flit on port 0; a RECV that opens 64 bytes, one that closes its window, one that overlaps an open window, and one without a stamp; the elastic core. -/
theorem witness_SendAndRecvComplete :
    let send := onPort (vs [(5, 0), (6, 0x40000000), (7, 0x10000)])
    let recv := onPort (vs [(5, 0), (6, 0x40000000), (7, 64)])
    let close := { onPort (vs [(6, 0x40000000)]) with windows := [{ launch := 0, port := 0, base := 0x40000000, len := 64, src := 0, any_ := false, from_ := 0, close := none }] }
    let open_ := { recv with windows := close.windows }
    let bare := core (vs [(6, 0x40000000)]) fun k => { lockedCard k with pgt := 64 }
    Meets [(core, fun c => c.isCore && !c.locked && legal c [r1 5, r1 6, r1 7]),
      (send, fun c => let x := val c 7; c.isCore && c.locked && c.card.pgt != 0 && c.w.stamp == some 1000#64 && decide (send.scy c.l + 128 ≤ 1000) && bits x 7 6 == 0 && bits x 31 29 == 0 && bits x 28 16 == 1 &&
        decide (bits x 15 8 < send.domSize) && bit (send.barBits (pcfgOff c.part) 127 64) (bits x 5 0) && val c 6 % 64 == 0 && val c 5 % 64 == 0 && send.inWindow c.part (val c 6) 64 &&
        (val c 6 - 0x40000000) / 2 ^ 21 == (val c 6 + 63 - 0x40000000) / 2 ^ 21 && !portTaken send 0 (send.cycOf c.l 1000) 1),
      (recv, fun c => let y := val c 5; bits y 7 6 == 0 && bits y 31 17 == 0 && val c 6 % 64 == 0 && val c 7 % 64 == 0 && val c 7 != 0 && recv.inWindow c.part (val c 6) (val c 7) && countedWindows recv c.lid c.l 0 1000 == []),
      (open_, fun c => val c 7 == 64 && (countedWindows open_ c.lid c.l 0 1000).any fun w => decide (w.base < val c 6 + val c 7) && decide (val c 6 < w.base + w.len)),
      (close, fun c => val c 7 == 0 && val c 6 % 64 == 0 && c.w.stamp == some 1000#64), (bare, fun c => c.locked && c.card.pgt != 0 && c.w.stamp == none && val c 7 == 0)] := meets (by decide +kernel)
/-- Two FP16 ranges o0 and o1, one FP64 pair, and a command queue. -/
def ranged (s : State) : State := withCluster s fun c => { c with ranges := [(0, { gbase := 0, gcount := 64, fmt := 3, sb := 0, ss := 0 }), (1, { gbase := 64, gcount := 64, fmt := 3, sb := 0, ss := 0 })] }
/-- ORES of free granules, OREL of a range, MMA, MMAC (conversion 0), AZERO, ADRAIN and ALOAD of 64 rows of 256 bytes in the window, MSYNC of nothing; with a stamp in the locked regime; OWR and ORD with a claim and without. -/
theorem witness_MatrixInstructionsComplete :
    let reads (s : State) (c : Ctx) : Bool := (match mget 0 (here s c).ranges, mget 1 (here s c).ranges with | some a, some b => pairs a.fmt b.fmt && panelIn a 0 && panelIn b 0 && pairs 3 b.fmt | _, _ => false) && decide (waitingCmds s c < 16)
    let e := ranged (core (vs [(6, 0), (7, 1)]))
    let l := ranged (stamped 1000 (vs [(6, 0), (7, 1)]))
    let drain := core (vs [(6, 0x40000000), (7, 256)])
    let tile := ranged (lane (vs [(6, 31), (7, 4092)]))
    Meets [(core (vs [(6, 0x60140)]), fun c => c.isCore && legal c [r1 5, r1 6, r1 7] && bits (val c 6) 31 21 == 0 && bits (val c 6) 20 17 == 3 && bits (val c 6) 16 8 == 1 && val c 7 == 0 && (here (core (vs [(6, 0x60140)])) c).ranges == []),
      (e, fun c => c.isCore && !c.locked && bits (val c 6) 31 20 == 0 && bits (val c 7) 31 20 == 0 && bits (val c 6) 3 0 == 0 && bits (val c 7) 3 0 == 1 && reads e c), (core, fun c => covered (matDone (here core c)) 0 && mget 0 (here core c).ranges == none),
      (l, fun c => c.locked && c.w.stamp == some 1000#64 && decide (l.scy c.l + 128 ≤ 1000) && decide ((here l c).matEnd ≤ 1000) && reads l c),
      (drain, fun c => bits (val c 7) 31 20 == 0 && rowBytes 0 false == 256 && val c 6 % 128 == 0 && (List.range 64).all fun i => drain.inWindow c.part (val c 6 + i * 256) 256),
      (noClaim, fun c => !c.isCore && !holdsClaim noClaim c), (tile, fun c => !c.isCore && holdsClaim tile c && (mget 1 (here tile c).ranges).isSome && (c.active.all fun u => (c.w.reg u 7).toNat % 4 == 0 && (c.w.reg u 7).toNat ≤ 4095 && (c.w.reg u 6).toNat ≤ 31)),
      (ranged (lane (vs [(6, 31), (7, 4092)]) lockedCard), fun c => c.locked && !tileDegree (c.active.map fun u => (u, (c.w.reg u 7).toNat % 32, (c.w.reg u 6).toNat * 4096 + (c.w.reg u 7).toNat)))] := meets (by decide +kernel)
/-- A legal copy of a wave, a locked wave and a locked core with a stamp; an illegal descriptor (all zeros); CLOSE; a batch that is complete; QTAB of four dimensions, held and not. -/
theorem witness_CopyInstructionsComplete :
    let ok (s : State) (c : Ctx) : Bool := legal c [r8 8, r1 6] && copyCheck s c (.cpy 8) (copyOf s c 0 (descriptor c 8) 0) (descriptor c 8) == none
    let st := stamped 1000 (fun w => { copyRegs w with regs := (copyRegs w).regs.filter fun e => e.1 % 32 == 0 })
    let store (s : State) : State := withCluster s fun c => { c with store := { TableStore.init with holder := some 0, dims := [4, 0, 0, 0] } }
    let q := store (lane (vs [(8, 0x1000), (6, 0x400)]) fun k => { k with qrt := 2 ^ 52 })
    Meets [(lane copyRegs, fun c => ok (lane copyRegs) c && !c.locked && decide ((openBatches (lane copyRegs) c.g c.wi c.w.batch).length < 64)), (lane copyRegs lockedCard, fun c => ok (lane copyRegs lockedCard) c && c.locked && !c.isCore),
      (st, fun c => ok st c && c.locked && c.isCore && c.w.stamp == some 1000#64 && decide (st.scy c.l + 128 ≤ 1000) && decide (copiesWaiting st c false < 16) && decide ((here st c).copyEnd ≤ 1000)),
      (lane, fun c => legal c [r1 5, r1 6] && (copyCheck lane c (.cpy 8) (copyOf lane c 0 (descriptor c 8) 0) (descriptor c 8)).isSome && c.w.retired == 0 && covered (compOf lane c.g c.wi c.w.batch) (val c 6) && c.w.batchFail == []),
      (q, fun c => legal c [r2 8, r1 6] && qtabCheck q c (.qtab 0 8 6) 0 (c.w.dreg c.leader 8).toNat (val c 6) == none), (lane, fun c => (qtabCheck lane c (.qtab 0 8 6) 0 0 0).isSome)] := meets (by decide +kernel)
/-- Head 0 with a ring of two slots of 8 lines of 64 bytes, 16 active lines of 16, enabled, whose open entry is strip 0. -/
def ringed (s : State) : State :=
  { s with bar := ((s.bar.store (ringOff 0) 16 (0x40000000 + 2 * 2 ^ 32 + 8 * 2 ^ 40 + 64 * 2 ^ 64 + 16 * 2 ^ 80 + 16 * 2 ^ 96 + 2 ^ 114)).store (ringOff 0 + 32) 6 (2 ^ 24 + 16 * 2 ^ 32))
           rings := [(0, { frame := 5, last := none, prev := none, openUnder := false, entries := [], late := [], holders := [], nextFrame := 5, nextLine := 0 })] }
/-- A card of head 0 without a claim, with one, with one published and released, and with another strip; a card without a head. -/
def ringCard (strip : Nat) (k : Option RingClaim) (r : Card → Card := id) : State := withLaunch (ringed (lane id fun k => r { k with head := 0, strip := strip })) fun l => { l with ring := k }
def claimed (p r : Bool) : RingClaim := { slot := 1, low := 0x40000200, high := 0, prev := some 0, published := p, released := r }
/-- ENQ with its forms and a full intake; TKSPAWN in a tree of one cluster; TKARG; a queue in RUN with two packets and one in ERR; the ring instructions before, in and after a claim. -/
theorem witness_TaskInstructionsComplete :
    let en := lane (vs [(6, 0x1000)])
    let full := en.setPart 0 { en.partOf 0 with intake := List.replicate 256 { seq := 0, addr := 0, onDie := false, ctx := 0, covers := [] } }
    let tree := lane (vs [(6, 0x1000)]) fun k => { k with flags := 20, rectW := 1, rectH := 1 }
    let onCore := core (vs [(6, 0x1000)])
    let late (may : Bool) : State := withLaunch (ringed (lane id fun k => { ordered k with head := 0, strip := if may then 0 else 1 })) fun l => { l with ring := none }
    let none_ : State := { lane (vs [(6, 256)]) with bar := [] }
    let queue (st : Nat) (k : Card → Card := id) : State := let s := lane (vs [(8, 1)]) k; { s with bar := s.bar.store (qdescOff 0) 16 (st * 2 ^ 40 + 0x40000000 * 2 ^ 64 + 7 * 2 ^ 36), mem := s.mem.store (Base.slice 0) 8 2 }
    let fill (s : State) : Nat := queueFill s 0 (s.mem.load (s.windowAddr (queueOwner s 0) (queuePeg s 0)) 8)
    Meets [(en, fun c => legal c [r1 5, r2 6, r1 8] && val c 8 == 0 && (c.w.dreg c.leader 6).toNat % 64 == 0 && !c.ordered && !intakeFull en c.part), (full, fun c => intakeFull full c.part), (lane (vs [(8, 2)]), fun c => 2 ≤ val c 8),
      (lane (vs [(6, 0x1000)]) ordered, fun c => c.ordered && c.w.retired == 0), (onCore, fun c => c.isCore && legal c [r1 5, r2 6, r1 8] && val c 8 == 0),
      (late true, fun c => c.ordered && c.w.retired == 0 && ringTrap (late true) c == none && (mget 0 (late true).rings).any fun r => mayClaim (late true) 0 0 r),
      (late false, fun c => c.ordered && ringTrap (late false) c == none && (mget 0 (late false).rings).any fun r => !mayClaim (late false) 0 1 r),
      (withLaunch (late true) fun l => { l with ring := some (claimed false false) }, fun c => c.ordered && c.l.ring == some (claimed false false)),
      (tree, fun c => ((mget c.l.root tree.launches).any fun r => r.card.spawn) && treeRing tree c.l.root == [0] && decide (unreadChildren tree c.l.root < 256)),
      (lane id fun k => { k with argCount := 1 }, fun c => legal c [r2 6, r1 8, r1 9] && c.active.all fun t => (c.w.reg t 8).toNat < if c.card.groups = 0 then c.grp.chunkCount else c.card.argCount),
      (none_, fun c => (queuesOf none_ c.part)[val c 6]? == none), (queue 1, fun c => (queuesOf (queue 1) c.part)[val c 6]? == some 0 && queueState (queue 1) 0 == 1 && val c 8 == 1 && fill (queue 1) == 2 && (queue 1).reqs == []),
      (queue 2, fun c => queueState (queue 2) 0 == 2 && (val c 8 + 2 ^ 32 - queueRd (queue 2) 0) % 2 ^ 32 ≤ fill (queue 2)),
      (queue 1 ordered, fun c => c.ordered && queueState (queue 1 ordered) 0 == 1 && val c 8 == 1 && fill (queue 1 ordered) == 2), (queue 2 ordered, fun c => c.ordered && queueState (queue 2 ordered) 0 == 2),
      (ringCard 0 none, fun c => ringTrap (ringCard 0 none) c == none && c.l.ring == none && (mget 0 (ringCard 0 none).rings).any fun r => mayClaim (ringCard 0 none) 0 0 r),
      (ringCard 1 none, fun c => ringTrap (ringCard 1 none) c == none && !c.locked && (mget 0 (ringCard 1 none).rings).any fun r => !mayClaim (ringCard 1 none) 0 1 r),
      (ringCard 0 (some (claimed false false)), fun c => ringTrap (ringCard 0 (some (claimed false false))) c == none && legal c [r2 6]), (ringCard 0 (some (claimed true true)), fun c => c.l.ring == some (claimed true true)),
      (lane, fun c => (ringTrap lane c).isSome)] := meets (by decide +kernel)
/-- A store of four dimensions in slot 0, held and not; the three regimes; and behind a fence. -/
def table4 (k : Card → Card := id) (f : Wave → Wave := id) : State := withCluster (lane f fun c => k { c with qrt := 2 ^ 52 }) fun c => { c with store := { TableStore.init with holder := some 0, dims := [4, 0, 0, 0] } }
/-- A store that is not yet performed, and a FENCE after it. -/
def thenFence : State := { thenDo (.stg false 4 2 0) (table4 id addresses) with turn := some (0, 0) }.updWave 0 0 fun w => { w with epoch := 1 }
theorem witness_QuasirandomInstructionsComplete : Meets ((lane, fun c => !c.isCore && !holdsStore lane c) ::
    (thenFence, fun c => holdsStore thenFence c && behindFence thenFence c && legal c [r1 5, r1 6, r1 8]) :: [id, ordered, lockedCard].map fun k => (table4 k, fun c => legal c [r1 5, r1 6, r1 8] && legal c [r2 10] && holdsStore (table4 k) c && bit c.card.slotMask 0 && !behindFence (table4 k) c &&
      (c.active.all fun t => bit c.card.slotMask (bits (c.w.reg t 8).toNat 9 8) && decide ((c.w.reg t 8).toNat % 256 < (here (table4 k) c).store.dims.getD (bits (c.w.reg t 8).toNat 9 8) 0)))) := meets (by decide +kernel)

/-! ### One instruction each, and witnesses: the texture, ray and raster engines (13, 14, 15) -/

/-- The worked ray of chapter 14 in v8 to v19: O = (1000.25, 2000.25, 10), D = (0, 0, −1), t from 0 to 100, mask 0xFF. -/
def workedRay : Wave → Wave := vs [(9, 0x408F4200), (11, 0x409F4100), (13, 0x40240000), (16, 0xBF800000), (18, 0x42C80000), (19, 0xFF00)]
/-- TRACE gives each thread token 1 and a ray that moves, with one deferred counter; HITR of another token traps (R399, R401). -/
theorem test_ray : isNext (exec (.trace 20 8 4) (lane workedRay)) (fun t => (wave t).tokens == [(4, 1), (9, 1)] && (t.rays.map fun r => (r.1, r.2.status, r.2.token)) == [(4, 15, 1), (9, 15, 1)] &&
      (wave t).deferred.map (fun d => (d.reg, d.words, d.mask)) == [(20, 2, 0x210)]) = true ∧ trapsWith 6 (exec (.hitr 22 21 1) (lane (vs [(21, 2)]))) = true := by decide +kernel
/-- A texture instruction takes a deferred counter with its coordinates as they are at issue, and no memory is touched (R107, R412); a locked wave may not. -/
theorem test_texture : isNext (exec (.samplel 8 16 24) (lane (vs [(16, 0x3F000000), (24, 0x1000)]))) (fun t => (wave t).deferred.map (fun d => d.job) ==
      [.texture 1 [(4, 0x1000, [0x3F000000, 0, 0, 0]), (9, 0x1000, [0x3F000000, 0, 0, 0])]] && (wave t).pc == 0x1004) = true ∧
    trapsWith 5 (exec (.txq 8 16 24) (lane id lockedCard)) = true := by decide +kernel
/-- A strip header of 64 by 32 pixels, two tiles, one sample each, one draw, with its target at the window's start. -/
def header : Nat := 2 ^ 64 + 64 * 2 ^ 96 + 32 * 2 ^ 112 + 0x10000 * 2 ^ 896 + 0x40000000 * 2 ^ 960 + 256 * 2 ^ 992
/-- The visibility of tile 0, final, without samples. -/
def tile0 : TileJob := { cluster := 0, samples := [], hits := [], traced := true, fault := none, bad := [], final := true, rate := 0, pending := [], open_ := 1, done := false }
/-- A wave that shades the pixels (0, 0) and (1, 0) of tile 0. -/
def shading (f : Wave → Wave := id) (k : Card → Card := id) : State :=
  (withLaunch (lane f k) fun l => { l with raster := some { emptyJob 0 [] with header := header, tiles := [(0, tile0)] } }).updGroup 0 fun g =>
    { g with shade := some { tile := 0, layer := 0, cells := [(4, { x := 0, y := 0, id := 0, helper := false }), (9, { x := 1, y := 0, id := 0, helper := false })] } }
/-- PIXW stores a thread's word at its pixel (R382); SRATE asks for a tile's rate; ORDB opens a section that ORDE closes (R383-R385); outside a shading group all trap. -/
theorem test_shading : isNext (exec (.pixw 6 7) (shading (vs [(6, 0xAABBCCDD), (7, 1)]))) (fun t => t.reqs.map (fun r => (r.addr - Base.slice 0, r.kind)) == [(0, .store 0xAABBCCDD), (4, .store 0xAABBCCDD)]) = true ∧
    isNext (exec (.srate 6 7) (shading (vs [(6, 1), (7, 2)]))) (fun t => ((mget 0 t.launches).bind (·.raster)).map (·.req) == some [(1, 2)]) = true ∧
    isNext (exec (.ordb true) shading) (fun t => (wave t).inSection == 0x210) = true ∧ isNext (exec .orde (shading fun w => { w with inSection := 0x210 })) (fun t => (wave t).inSection == 0 && (wave t).leftSection == 0x210) = true ∧
    trapsWith 6 (exec .orde shading) = true ∧ trapsWith 6 (exec (.pixw 6 7) lane) = true := by decide +kernel

/-- A counter whose result has not arrived. -/
def missing : Deferred := { id := 90, pc := 0, reg := 8, words := 5, mask := 0x210, job := .visibility, value := none, arrived := false, raise := [], ecc := none, got := [], fault := none, failed := none }
def crowded : State := lane fun w => { w with deferred := List.replicate 8 missing }
theorem witness_TextureInstructionsComplete :
    let ok (c : Ctx) : Bool := !c.isCore && legal c [{ reg := 8, n := 5, align := 4 }, { reg := 16, n := 7, align := 4 }, r2 24] && legal c [{ reg := 16, n := 1, align := 1 }]
    Meets [(lane, fun c => ok c && !c.locked && decide (c.w.deferred.length < 8)), (lane id lockedCard, fun c => ok c && c.locked),
      (crowded, fun c => ok c && c.w.deferred.length == 8 && (c.w.deferred.head?.any fun d => !d.arrived))] := meets (by decide +kernel)
/-- A ray of a thread at a candidate. -/
def ray (status : Nat) : Ray := { token := 1, scene := 0, words := [], status := status, tcur := 0, committed := none, candidate := none, visits := [], inst := none, fault := none, group := 0 }
/-- TRACE's record; HITR with the current tokens and with another; RESUME at status 2 and 3 with verdicts 0 to 2, and without a ray. -/
theorem witness_RayInstructionsComplete :
    let r := { lane (fun w => { vs [(21, 1), (25, 2)] w with tokens := [(4, 1), (9, 1)] }) with rays := [(4, ray 2), (9, ray 3)] }
    Meets [(lane workedRay, fun c => !c.isCore && !c.locked && legal c [r2 20, { reg := 8, n := 12, align := 4 }, r2 4] && decide (c.w.deferred.length < 8) &&
        (doers c).all fun t => bits (c.w.reg t 19).toNat 7 4 == 0 && bits (c.w.reg t 19).toNat 31 16 == 0),
      (r, fun c => legal c [r1 24, r1 21, r1 25] && (doers c).all fun t => (c.w.reg t 21).toNat == dget 0 t c.w.tokens && (c.w.reg t 25).toNat < 3 &&
        (match mget (rayKey c.g c.wi t) r.rays with | some x => (c.w.reg t 21).toNat == x.token && (x.status == 2 || x.status == 3) | none => false)),
      (lane (vs [(21, 1)]), fun c => legal c [r2 22, r1 21] && ((doers c).any fun t => (c.w.reg t 21).toNat != dget 0 t c.w.tokens) && doers c != [] && (doers c).all fun t => (mget (rayKey c.g c.wi t) (lane (vs [(21, 1)])).rays).isNone)] := meets (by decide +kernel)
/-- Outside a shading group; in one, before a section and in it. -/
theorem witness_RasterInstructionsComplete :
    let s := shading (vs [(7, 1)])
    let s' := shading fun w => { w with inSection := 0x210 }
    Meets [(lane, fun c => !c.isCore && c.w.retired == 0 && legal c [r2 10, r1 6, r1 7] && (shadeCtx c).isNone),
      (s, fun c => legal c [r2 10, r1 6, r1 7] && decide (c.w.deferred.length < 8) && (match shadeCtx c with
        | some k => ((doers c).all fun t => (pixwCheck s c k (c.w.reg t 7).toNat t).isNone && decide ((c.w.reg t 6).toNat < k.j.ntiles) && !c.w.inSection.getLsbD t && !blocksCell s c k (cellOf c k t)) && rising k.j.req
        | none => false)),
      (s', fun c => (shadeCtx c).isSome && (doers c).all fun t => c.w.inSection.getLsbD t)] := meets (by decide +kernel)

/-! ### Events: each happens in a state that meets its conditions (Table 02-14) -/

/-- The registers that the events look at, once bring-up is over: status 9, cluster 0 enabled, partition 0 on it with context 0 and granule 0, the power cap. -/
def registers : Mem := Mem.setBytes (Mem.setBytes (Mem.setBytes (Mem.setBytes (Mem.setBytes (Mem.setBytes [] 0 [9]) 0x3002 [128]) 0x300C [1]) (pcfgOff 0 + 2) [1, 1, 4]) (ctxOff 0 0) [1]) (mownOff 0) [0x40] ++ [(0x119000, 0x40#8), (0x119001, 6#8)]
/-- A card whose groups are small to save. -/
def light (k : Card) : Card := { k with gmemKib := 0, regs := 1 }
/-- A module with a running card of one wave and nobody's turn. -/
def idle (f : Wave → Wave := id) (k : Card → Card := id) : State := { lane f k with turn := none, bar := registers }
/-- A register field of BAR0 as given: n bytes at an offset. -/
def bar (off n x : Nat) (s : State) : State := { s with bar := s.bar.store off n x }
/-- The event happens, and leaves what is said: another state, if nothing is. -/
def occurs (i : Instr) (s : State) (p : State → Bool := fun t => t != s) : Bool := isNext (exec i s) p

/-- A ready wave takes the turn; a finished load arrives; a deferred value arrives; a write is 8 bytes of a correctable word put right (R81, R105, R107, R204). -/
theorem witness_TurnsResultsAndLogsOccur1 : occurs (.waveIssueTurn 0 0) idle (fun t => t.turn == some (0, 0)) = true ∧
    occurs (.resultArrival 0 0 7) (idle fun w => { w with slot := 2, pend := [{ entry 7 2 5 1 false with waiting := 0 }] }) (fun t => (wave t).reg 9 5 == 1) = true ∧
    occurs (.deferredResultArrival 0 0 90) (idle fun w => { w with deferred := [{ missing with value := some [] }] }) (fun t => (wave t).deferred.all (·.arrived)) = true ∧
    (let s := { lane with turn := none, eccBad := [(Base.slice 0 / 8, checkBits 8)], writebacks := [(Base.slice 0, 0)] };
     occurs (.correctionWriteback (Base.slice 0)) s (fun t => t.mem.load (Base.slice 0) 8 == 8 && t.eccBad == [] && t.writebacks == []) = true) ∧
    occurs (.bankRetentionEntry 0 3) { idle with cyc := 8192 } (fun t => t.bankAsleep == [(3, true)]) = true ∧ occurs (.bankRetentionEntry 0 3) idle = false := by decide +kernel
/-- A trapped group is saved (here into a pool that is not mapped, which ends it: R355); a record goes to the host's memory under its number; REL's increment goes to its
bank after its accesses; MWAIT wakes when its word differs, and does not where it agrees. -/
theorem witness_TurnsResultsAndLogsOccur2 : (let s := bar (pcfgOff 0 + 24) 2 1 (thenDo (.trap 1) (lane id light));
      ((mget 0 s.groups).any fun x => x.status == .halted && x.trapped && x.kind == .lane && inFlightDone s 0 x) && (saveGroup s 0).isSome && occurs (.trapGroupSave 0) s) = true ∧
    (let s := bar (qregOff 2 + 8) 1 0x14 (thenDo (.trap 1) lane);
      (s.heldOf 2).length == 1 && s.queueOpen 2 && occurs (.trapRecordPost 0) s fun t => t.heldOf 2 == [] && t.mem.byte Base.host == 11 && t.barBits (qregOff 2) 127 96 == 1) = true ∧
    (let s := bar (qregOff 0 + 8) 1 0x14 { idle with held := [(0, [List.replicate 64 7#8])] };
      s.queueOpen 0 && occurs (.hostRecordPost 0) s fun t => t.held == [] && t.mem.byte (Base.host + 59) == 7 && t.mem.byte (Base.host + 60) == 0) = true ∧
    (let s := thenDo (.rel 6) (pegged 0);
      (s.rels.all fun r => relReady s r) && occurs (.relIncrement (s.rels.headD { id := 0, group := 0, wave := 0, epoch := 0, target := .peg 0, covers := [], due := none }).id) s fun t => t.reqs.map (fun r => (r.kind, r.addr)) == [(.pegAdd, Base.slice 0)] && t.rels == []) = true ∧
    (let s := idle fun w => { w with wait := .monitor 16 5#32 false };
      (monitorDiffers s 0 0).1 && occurs (.mwaitWake 0 0) s fun t => (wave t).wait == .monitor 16 5#32 true) = true ∧
    occurs (.mwaitWake 0 0) (idle fun w => { w with wait := .monitor 16 0#32 false }) (fun t => (wave t).wait == .monitor 16 0#32 false) = true := by decide +kernel
/-- ELOGACK and FDLOGACK take records off a log of 3; EINJ_WRITE arms an injector of array 5 of cluster 0 (R207, R209, R252). -/
theorem witness_TurnsResultsAndLogsOccur3 : errorBlock 0x1005000 = true ∧ occurs (.elogack 0x1005000 2) (bar 0x1005400 1 3 idle) (fun t => t.barBits 0x1005400 5 0 == 1) = true ∧
    occurs (.einjWrite 0x1005000 (BitVec.ofNat 128 (2 ^ 72 + 1))) idle (fun t => t.barFlag 0x1005410 72 && t.barBits 0x1005410 63 0 == 1) = true ∧
    occurs (.fdlogack 5) (bar (dropLogOff + 0x400) 1 3 idle) (fun t => t.barBits (dropLogOff + 0x400) 5 0 == 0) = true := by decide +kernel

/-- A write of 64 bytes to a submission window. -/
def submission (x : Nat) : List Byte := toBytes x 64
/-- A submission of 64 bytes is accepted and rejected (its partition is not enabled, a reserved bit is set); the intake's card that cannot be read, that fails a check, that joins its queue (R332, R455). -/
theorem witness_TaskEventsOccur1 : occurs (.hostSubmission 0 (submission 0x2000)) idle (fun t => (t.partOf 0).intake.map (·.addr) == [0x2000] && (t.partOf 0).drops == 0) = true ∧
    occurs (.hostSubmission 1 (submission 0x2000)) idle (fun t => (t.partOf 1).drops == 1) = true ∧ occurs (.hostSubmission 0 (submission (2 ^ 66))) idle (fun t => (t.partOf 0).drops == 1) = true ∧
    (let at_ (a : Nat) (m : Mem → Mem) (s : State) : State := { s.setPart 0 { s.partOf 0 with intake := [{ seq := 0, addr := a, onDie := true, ctx := 0, covers := [] }] } with mem := m s.mem }
     -- a card of one group of one wave of 16 registers at 0x1000, of queue 1, which hardware queue 0 takes
     let good : Nat := 0x1000 + 2 ^ 256 + 2 ^ 288 + 16 * 2 ^ 296 + 2 ^ 416 + 0xFFFF * 2 ^ 448
     let q := bar (ctxOff 0 0 + 10) 2 1 (bar (qcfgOff 0) 16 (0x10040 + 4 * 2 ^ 64) idle)
     occurs (.intakeCardRead 0) (at_ 0x40200000 id idle) (fun t => (t.partOf 0).intake == []) &&
     occurs (.intakeCardRead 0) (at_ 0x40000000 id idle) (fun t => (t.partOf 0).intake == [] && t.launches.length == 1) &&
     occurs (.intakeCardRead 0) (at_ 0x40000000 (fun m => m.store (Base.slice 0) 256 good) q) (fun t => (t.launches.map fun e => e.2.status) == [.running, .queued])) = true := by decide +kernel
/-- The status of launch 0. -/
def statusIs (t : State) (x : LaunchStatus) : Bool := (mget 0 t.launches).map (·.status) == some x
/-- A queued card of queue 1, and a running one. -/
def queued (k : Card → Card := id) (s : State := { State.reset with bar := registers }) : State :=
  { s with launches := mset 0 (Launch.fresh (k { (default : Card) with laneEntry := 0x1000, groups := 2, wavesPerGroup := 1, regs := 16, gmemKib := 4, queue := 1, head := 0xFFFF }) 0 false 0 0 0 0 (some 0)) s.launches }
def running (k : Card → Card := id) (f : Launch → Launch := id) : State := (queued k).updLaunch 0 fun l => f { l with status := .running }
/-- A queued card is dispatched, or rejected for its start time; a group of it is placed by the queues' round, a child's by itself, and a waiting one takes its room; a locked one starts on its cycle (R332-R337). -/
theorem witness_TaskEventsOccur2 : occurs (.cardDispatch 0) queued (fun t => statusIs t .running) = true ∧ occurs (.cardDispatch 0) (queued fun k => { k with startTime := 10 ^ 9 }) (fun t => t.launches == [] || statusIs t .rejected) = true ∧
    occurs (.cardDispatch 0) (bar (qcfgOff 0) 16 0x10040 (queued fun k => { k with coop := 1 })) (fun t => statusIs t .running && t.groups.length == 2) = true ∧
    occurs (.groupPlacement 0 0) (running id fun l => { l with hwq := none, target := some 0, root := 0 }) (fun t => t.groups.length == 1) = true ∧
    occurs (.groupPlacement 0 0) (bar (qcfgOff 0) 16 0x10040 running) (fun t => t.groups.length == 1) = true ∧
    (let s := running;
     occurs (.groupPlacement 0 0) { s with groups := (s.launches.map fun e => (0, newGroup 0 e.2 0 0 0 0)) } (fun t => (t.groups.map fun e => e.2.status) == [.resident])) = true ∧
    occurs (.launchStartCycle 0) ((running id).updLaunch 0 fun l => { l with status := .dispatched, start := some 0 }) (fun t => statusIs t .running) = true := by decide +kernel
/-- A donating card asks for work; the retry timer passes; the token of a tree goes on; a finished card completes; a deadline passes; a commit begins, writes a
buffered store, and starts the next fret (R339, R345, R41, R42, R229). -/
theorem witness_TaskEventsOccur3 :
    let tree : Tree := { ring := [0, 1], balance := [], black := [], token := some 0, tokenBlack := false, tokenSum := 0, clean := 0, tokenAt := 0 }
    occurs (.stealRequest 0 0) (running fun k => { k with flags := 2 }) = true ∧ occurs (.stealRetryTimer 0 0) (withCluster running fun c => { c with stealAfter := [(0, 0)] }) (fun t => (t.cluster 0).stealAfter == []) = true ∧
    occurs (.terminationTokenPass 0) (running id fun l => { l with tree := some tree }) (fun t => ((mget 0 t.launches).bind (·.tree)).map (·.token) == some (some 1)) = true ∧
    occurs (.cardCompletion 0) (running id fun l => { l with made := 2, dealt := 2 }) = true ∧ occurs (.deadlineEvent 0) (running fun k => { k with deadline := 1 }) (fun t => (mget 0 t.launches).map (·.deadlineDone) == some true) = false ∧
    occurs (.deadlineEvent 0) { running fun k => { k with deadline := 1 } with ptp := { cyc := 0, base := 2 ^ 50, delta := 2 ^ 40 } } (fun t => (mget 0 t.launches).map (·.deadlineDone) == some true) = true ∧
    occurs (.fretCommit 0) (idle (fun w => { w with fretEnded := true, buffer := [.store (Base.slice 0) 4 7] }) ordered) (fun t => (mget 0 t.launches).map (·.committing) == some true) = true ∧
    occurs (.fretCommit 0) ((idle (fun w => { w with fretEnded := true, buffer := [.store (Base.slice 0) 4 7] }) ordered).updLaunch 0 fun l => { l with committing := true }) (fun t => t.mem.load (Base.slice 0) 4 == 7 && (wave t).buffer == []) = true ∧
    occurs (.fretCommit 0) ((idle (fun w => { w with fretEnded := true }) ordered).updLaunch 0 fun l => { l with committing := true }) (fun t => !(wave t).fretEnded && (mget 0 t.launches).map (fun l => (l.committing, l.fret)) == some (false, 1)) = true := by decide +kernel
/-- A pre-empted group stops, and is saved; a saved one comes back (from a pool that is not mapped, which ends it: R355); a spawned child's card is read (R343, R351). -/
theorem witness_TaskEventsOccur4 :
    let p := { bar (pcfgOff 0 + 24) 2 1 (idle id light) with preempts := [(0, 0)] }
    occurs (.preemption 0) p (fun t => t.preempts == []) = true ∧ occurs (.preemption 0) (p.updWave 0 0 fun w => { w with deferred := [missing] }) (fun t => (mget 0 t.groups).map (·.status) == some .stopping) = true ∧
    occurs (.preemption 0) (idle.updGroup 0 fun g => { g with status := .stopping }) (fun t => (mget 0 t.groups).map (·.status) == some .resident) = true ∧
    occurs (.groupRestore 0) (idle.updGroup 0 fun g => { g with status := .saved, slot := some 0 }) = true := by decide +kernel
theorem witness_TaskEventsOccur5 :
    occurs (.childCardRead 5) { idle with children := [(5, { root := 0, addr := 0x40000000, onDie := true, target := 0, source := 0, covers := [] })] } (fun t => t.children == []) = true := by decide +kernel

/-- The page of 4,096 bytes at 0x2000 is cached, readable and writable; its bytes in main memory. -/
def paged (s : State) (x : Nat := 0) : State := { s with tlb := [{ part := 0, ctx := 0, base := 0x2000, size := 4096, pa := 0x2000, r := true, w := true, x := false }], mem := s.mem.store (Base.lpddr + 0x2000) 256 x }
/-- The first piece of a copy from one address of a bank to another of the same is read, and in the next cycle written; TLBINV and its completion; a walk that finds no table, and one that finds a page of 4 GiB; verdicts on a fault that is heard and on one that is not; a fault record is posted (R317, R322, R450-R452). -/
theorem witness_CopyFaultAndMatrixEventsOccur1 :
    (let s := { thenDo (.cpy 8) (lane copyRegs) with turn := none };
      let r := thenDo (.copyPieceTransfer 0 0) { s with mem := s.mem.store (Base.slice 0) 4 0x11223344 };
      r.copies.any (fun e => (mget 0 e.2.fetched).isSome) && occurs (.copyPieceTransfer 0 0) { r with cyc := r.cyc + 1 } fun t => t.mem.load (Base.slice 0 + 0x800) 4 == 0x11223344 && t.copies == []) = true ∧
    (let s := { thenDo (.cpy 8) (lane copyRegs) with turn := none };
      let r := { s with copies := mupd 0 (fun k => { k with form := 1, idx := none, idxAddr := 0x40000100 }) s.copies, mem := s.mem.store (Base.slice 0 + 0x100) 4 7 };
      occurs (.copyPieceTransfer 0 0) r fun t => (mget 0 t.copies).any fun k => k.idx == some [7]) = true ∧
    (let t := { idle with tlb := [{ part := 0, ctx := 0, base := 0x2000, size := 4096, pa := 0, r := true, w := true, x := true }] };
      occurs (.tlbinv 0) t (fun u => u.invals == [2 ^ 63] && u.tlb.length == 1) && occurs (.tlbinvComplete 0) { t with invals := [2 ^ 63] } fun u => u.invals == []) = true ∧
    occurs (.translationWalk 0 0 0x5000 .read) idle (fun t => t == idle) = true ∧
    (let s := { bar (ctxOff 0 0) 8 0x2001 idle with mem := (idle.mem.store (Base.lpddr + 0x2000) 8 0x4001).store (Base.lpddr + 0x4000) 8 0x1F };
      occurs (.translationWalk 0 0 0x5000 .read) s fun t => (t.tlb.take 1).map (fun e => (e.base, e.size, e.pa)) == [(0, 2 ^ 32, 0)]) = true ∧
    (let f := { idle with faultRecs := [{ id := 3, part := 0, cluster := 0, ctx := 0, page := 0x5000, acc := 0, engine := 1, seq := some 7 }] };
      (heardFault f 0 8).isNone && (match exec (.fqverdRetry 0 8) f with | .next t => t == f | _ => false) && (heardFault f 0 7).isSome && occurs (.fqverdRetry 0 7) f (fun t => t.faultRecs == []) && occurs (.fqverdFail 0 7) f fun t => t.faultRecs == []) = true := by decide +kernel
/-- A matrix command starts when the engine is free and its tile is; AZERO's completion zeroes the tile; a stamped one starts at its SCY (R301, R302, R278). -/
theorem witness_CopyFaultAndMatrixEventsOccur2 :
    let s := { thenDo (.azero 4) core with turn := none }
    occurs (.matrixCommandStart 0) s (fun t => (t.cluster 0).matEnd == 8 && (t.cluster 0).cmds.all fun m => m.start.isSome) = true ∧
    (let l := { (thenDo (.azero 4) (stamped 200)).updLaunch 0 (fun l => { l with start := some 0 }) with turn := none };
      occurs (.stampedCommandStart 0 1) l (fun t => t == l) && occurs (.stampedCommandStart 0 1) { l with cyc := 200 } fun t => (t.cluster 0).cmds.all fun m => m.start.isSome) = true := by decide +kernel
/-- A command has run its time, and nothing of it is on its way (its tile is too large for the kernel); a held fault record goes to the partition's fault queue under its number (R303, R451). -/
theorem witness_CopyFaultAndMatrixEventsOccur3 :
    (let s := thenDo (.matrixCommandStart 0) { thenDo (.azero 4) core with turn := none };
      let u := { s with cyc := 10 ^ 6 };
      ((u.cluster 0).cmds.find? fun m => m.num == 1).any fun m => (cmdCtx u m).any (cmdDue u · m) && u.reqs.all fun r => r.wave != matWave 1) = true ∧
    (let s := bar (pcfgOff 0 + 32) 16 0x20040 idle;
      let f := { s.setPart 0 { s.partOf 0 with heldFaults := [(3, List.replicate 64 7#8)] } with faultRecs := [{ id := 3, part := 0, cluster := 0, ctx := 0, page := 0x5000, acc := 0, engine := 1, seq := none }] };
      occurs (.faultRecordPost 0) f fun t => (t.partOf 0).heldFaults == [] && t.faultRecs.map (·.seq) == [some 0]) = true := by decide +kernel

/-- A locked launch of a multi-package domain that runs, with tag 9 and a receive window of 128 bytes on port 0. -/
def domain (f : Launch → Launch := id) : State :=
  { withLaunch (idle id fun k => { lockedCard k with pgt := 64 }) (fun l => f { l with tag := 9, start := some 0 }) with
    windows := [{ launch := 0, port := 0, base := 0x40000000, len := 128, src := 2, any_ := false, from_ := 0, close := none }] }
def flit (kind src dst addr : Nat) : Flit := { src := src, dst := dst, port := 0, tag := 9, addr := addr, seq := 1, arrival := 0, kind := kind, poison := 0, data := List.replicate 64 5#8 }
/-- A SEND's flit is read 96 cycles before it leaves, and leaves at its cycle; a flit lands in its window; one beside it is dropped (R249, R251, R252). -/
theorem witness_FabricEventsOccur1 :
    let x : Send := { launch := 0, cluster := 0, pc := 0, src := 0x40000000, dst := 0x40000000, port := 0, dest := 2, count := 2, t := 40, read := [], next := 0 }
    occurs (.flitSourceRead 3 0) { domain with sends := [(3, x)] } (fun t => (mget 3 t.sends).any fun y => (mget 0 y.read).isSome) = true ∧
    occurs (.flitSend 3 0) { domain with sends := [(3, { x with t := 0, read := [(0, (List.replicate 64 5#8, 0))] })] } (fun t => (mget 3 t.sends).any (fun y => y.next == 1) && t.out.length == 1) = true ∧
    occurs (.flitLanding (flit 0 2 0 0x40000040)) domain (fun t => t.mem.byte (Base.slice 0 + 64) == 5 && t.mem.byte (Base.slice 0 + 127) == 5 && t.mem.byte (Base.slice 0 + 128) == 0) = true ∧
    occurs (.flitLanding (flit 0 3 0 0x40000040)) domain (fun t => t.mem.byte (Base.slice 0 + 64) == 0) = true ∧
    occurs (.flitLanding { flit 0 2 0 0x40000040 with arrival := 7 }) domain (fun t => t.padded.length == 1 && t.mem.byte (Base.slice 0 + 64) == 0) = true ∧
    (let s := { domain with hold := some (0, 256), sends := [(3, { x with t := 0, read := [(0, (List.replicate 64 5#8, 0))] })] };
      s.scyStands ((mget 0 s.launches).getD (Launch.fresh default 0 false 0 0 0 0 none)) && occurs (.flitSend 3 0) s fun t => t == s) = true := by decide +kernel
/-- A collision that concerns others, that names this package as target, that hit its own flits; a link error; a halt notice of a known tag and of another; best-effort answers and requests (R243, R252-R254, R284). -/
theorem witness_FabricEventsOccur2 :
    occurs (.collision (flit 0 2 3 0) 8) domain (fun t => t == domain) = true ∧ occurs (.collision (flit 0 2 0 0x40000040) 1) domain = true ∧ occurs (.collision (flit 0 0 3 0) 1) domain = true ∧
    occurs (.linkError (flit 1 2 0 0) 1) domain (fun t => t == domain) = true ∧ occurs (.linkError (flit 0 2 0 0) 1) domain = true ∧ occurs (.linkError { flit 0 2 0 0 with tag := 8 } 1) domain (fun t => t.launches == domain.launches) = true ∧
    occurs (.haltNotice { tag := 9, haltAt := 500, code := 8, src := 2 }) domain (fun t => (mget 0 t.launches).bind (·.haltAt) == some 500) = true ∧
    occurs (.haltNotice { tag := 8, haltAt := 500, code := 8, src := 2 }) domain (fun t => t == domain) = true ∧ occurs (.bestEffortFlit (flit 16 2 0 0)) domain (fun t => t == domain) = true ∧
    occurs (.bestEffortFlit (flit 1 2 0 0)) domain = true ∧
    (let s := { domain with bankBusy := (List.range 16).map fun b => (b, 9) };
      bankWaits s (partBanks (((bestEffortPlace s (flit 1 2 0 0)).map (·.2)).getD [])) == false || occurs (.bestEffortFlit (flit 1 2 0 0)) s fun t => t.inbox.length == 1) = true ∧
    -- a link error of a tag that no card runs: the others are told
    occurs (.linkError { flit 0 2 0 0 with tag := 8 } 1) { domain with domSize := 2 } (fun t => t.out.length == 1) = true := by decide +kernel
/-- The domain-wide halt at its CYC, the closing of its windows, the end of an insertion (R283, R284, R257). -/
theorem witness_FabricEventsOccur3 : occurs (.lockedHalt 0) (domain fun l => { l with haltAt := some 0 }) (fun t => ((mget 0 t.launches).any fun l => l.status == .halted && l.recorded && l.closeAt == some 0) &&
      (t.heldOf 2).map (fun r => (r.take 1, (r.drop 56).take 1)) == [([8#8], [0x0F#8])]) = true ∧
    occurs (.lockedHalt 0) (domain fun l => { l with haltAt := some 0, recorded := true }) (fun t => t.heldOf 2 == [] && statusIs t .halted) = true ∧
    occurs (.receiveWindowClose 0) (domain fun l => { l with closeAt := some 0 }) (fun t => t.windows == []) = true ∧
    occurs (.tuneInsertionEnd 0) { domain (fun l => { l with tune := some (1, 5) }) with cyc := 6 } (fun t => (mget 0 t.launches).any fun l => l.tune == none && l.stopped == 5) = true := by decide +kernel
/-- A mapping update and a hold announced by message; a hold requested of the master and of another package, announced, started and ended; mappings and PTP messages; a lost timebase; a failed port (R242, R241, R255, R246). -/
theorem witness_FabricEventsOccur4 :
    occurs (.domainControlMessage { kind := 0, args := [100, 50, 7, 9] }) idle (fun t => t.ptpNext == [(4096, { cyc := 50, base := 7, delta := 9 })]) = true ∧
    occurs (.domainControlMessage { kind := 0, args := [100, 50, 7, 9] }) (bar tbcfgOff 8 (2 ^ 8 + 2 ^ 16) { idle with domSize := 2 }) (fun t => t.ptpNext == [(100, { cyc := 50, base := 7, delta := 9 })]) = true ∧
    occurs (.domainControlMessage { kind := 2, args := [256, 10] }) idle (fun t => t.holds == [(4106, 256)]) = true ∧ occurs (.holdRequest 1024) idle (fun t => t.holdReqs == [1024]) = true ∧
    occurs (.holdRequest 1024) { idle with domSize := 4 } (fun t => t.holdReqs == [] && t.out.length == 1) = true ∧ occurs .holdAnnounce { idle with holdReqs := [256, 4096, 1024] } (fun t => t.holds == [(4096, 4096)] && t.holdReqs == []) = true ∧
    occurs .holdStart { idle with cyc := 4096, holds := [(4096, 256)] } (fun t => t.hold == some (4096, 256) && t.holds == []) = true ∧ occurs .holdEnd { domain with cyc := 4352, hold := some (4096, 256) } (fun t => t.hold == none && (mget 0 t.launches).map (·.stopped) == some 256) = true ∧
    occurs .mappingUpdate { idle with cyc := 5, ptpNext := [(4, { cyc := 1, base := 2, delta := 3 }), (3, { cyc := 2, base := 2, delta := 3 })] } (fun t => t.ptp == { cyc := 2, base := 2, delta := 3 } && t.ptpNext.length == 1) = true ∧
    occurs .mappingUpdate { idle with ptpNext := [(9, { cyc := 1, base := 2, delta := 3 })] } (fun t => t.ptpNext.length == 1 && t.ptp == idle.ptp) = true ∧
    occurs (.domainControlMessage { kind := 8, args := [1] }) (domain id) (fun t => t.lost == some 1 && ((mget 0 t.launches).bind (·.haltAt)).isSome) = true ∧
    occurs (.ptpMessage { kind := 2, sent := 0, correction := 0, seq := 1 }) idle (fun t => t == idle) = true ∧ occurs (.ptpMessage { kind := 2, sent := 0, correction := 0, seq := 1 }) (bar tbcfgOff 1 2 idle) (fun t => t.out.length == 1) = true ∧
    occurs (.timebaseEvent 1 5) idle (fun t => (t.heldOf 0).length == 1) = true ∧ occurs (.portFailure 3) { idle with bar := lane.bar } (fun t => !t.barFlag capsOff 35 && t.barFlag capsOff 36) = true ∧
    occurs (.portFailure 3) { idle with domSize := 2, bar := lane.bar } (fun t => t.domSize == 1 && t.lost == some 0) = true := by decide +kernel
/-- TUNEs of one SCY with two numbers; of one core where two run, and of the one that runs; the master's own report of a launch of two packages, and one that says otherwise (R257). -/
theorem witness_FabricEventsOccur5 :
    let agrees (s : State) : Bool := occurs (.tuneMismatch 9) s fun t => (mget 0 t.launches).any fun l => l.tunes == [] && l.reports == [] && !l.recorded
    let differs (s : State) : Bool := occurs (.tuneMismatch 9) s fun t => (mget 0 t.launches).any fun l => l.recorded && l.haltAt == some t.cyc
    let report (f : Launch → Launch) : State := domain fun l => f { l with pgt := [{ pkg := 0, dom := 0, pos := 0, neighbours := [], shareBase := 0, shareCount := 0 }, { pkg := 1, dom := 0, pos := 1, neighbours := [], shareBase := 0, shareCount := 0 }] }
    agrees (domain fun l => { l with tunes := [(8, 3, [0])] }) = true ∧ differs (domain fun l => { l with tunes := [(8, 3, [0]), (8, 4, [1])] }) = true ∧
    differs ((domain fun l => { l with tunes := [(8, 3, [1])] }).updGroup 0 fun g => { g with kind := .stream, waves := g.waves.map fun w => { w with nextIssue := 9 } }) = true ∧
    occurs (.tuneMismatch 9) (bar tbcfgOff 1 1 { domain (fun l => { l with tunes := [(8, 3, [0])] }) with domSize := 2 }) (fun t => (mget 0 t.launches).any fun l => l.reports == [(8, 3, 0, 0)]) = true ∧
    agrees (report fun l => { l with reports := [(8, 3, 0, 0), (8, 3, 1, 5)] }) = true ∧ differs (report fun l => { l with reports := [(8, 3, 0, 0), (8, 4, 1, 5)] }) = true := by decide +kernel

/-- A queue pair 1 that receives (R262): pair n's number and state as Table 08-9 lays them out, with the packet for it; an address that is asked for, and one that is not (R465). -/
def packet (q : Nat) : Packet := { op := 0, qp := q, psn := 0, rkey := 0, addr := 0, len := 8, src := 3, data := List.replicate 8 1#8 }
theorem witness_NetworkEventsOccur1 : (pairOf 0xFFFFFF).isNone = true ∧ occurs (.packetDelivery (packet 0xFFFFFF)) idle (fun t => t == idle) = true ∧ occurs (.rdmaWrite (packet 0xFFFFFF)) idle (fun t => t == idle) = true ∧
    occurs (.rdmaRead (packet 0xFFFFFF)) idle (fun t => t == idle) = true ∧ occurs (.rdmaAtomicRequest (packet 0xFFFFFF)) idle (fun t => t == idle) = true ∧
    occurs (.neighbourSolicitation { packet 1 with addr := 0x0A000001 }) (bar (portcfgOff + 8) 4 0x0A000001 idle) (fun t => t.out.length == 1) = true ∧ occurs (.neighbourSolicitation (packet 1)) idle (fun t => t == idle) = true ∧
    occurs (.connectionManagementMessage (packet 1)) idle (fun t => t.launches == idle.launches) = true ∧ occurs (.qdescStateOff 5) (bar (qdescOff 5) 6 (2 ^ 40) idle) (fun t => queueState t 5 == 0) = true ∧
    occurs (.qdescStateRun 5) idle (fun t => t == idle) = true := by decide +kernel
/-- Queue pair 0x100 (reliable, RTR) of partition 0 and packet queue 5 (16 slots of 64 bytes) for it, in a state; region 0 of 4,096 bytes at 0x2000, readable and writable. -/
def networked (st : Nat) : State :=
  bar (qpctxOff 0) 4 (2 * 2 ^ 2) (bar (qdescOff 5) 20 (0x40000000 + 4 * 2 ^ 32 + 6 * 2 ^ 36 + st * 2 ^ 40 + 0x40010000 * 2 ^ 64 + 0x100 * 2 ^ 128)
    (bar (mrtabOff 0) 24 (0x2000 + 7 * 2 ^ 52 + 4096 * 2 ^ 64) (paged idle)))
/-- A SEND to a queue that runs, that is off and that has no room for it; RDMA writes and reads inside the region and outside; an atomic (R262-R264). -/
theorem witness_NetworkEventsOccur2 : pairOf 0x100 = some 0 ∧ receives (networked 1) 0 = true ∧ pairRc (networked 1) 0 = true ∧
    occurs (.packetDelivery (packet 0x100)) (networked 1) (fun t => t.mem.load (Base.slice 0 + 0x10000) 8 == 1) = true ∧ occurs (.packetDelivery (packet 0x100)) (networked 0) (fun t => t.barBits (qdescOff 5) 223 192 == 1) = true ∧
    (let s := { networked 1 with bankBusy := (List.range 16).map fun b => (b, 9) };
      bankWaits s (packetBanks s 5 (packet 0x100)) && occurs (.packetDelivery (packet 0x100)) s fun t => t.inbox.length == 1 && t.mem == s.mem) = true ∧
    occurs (.packetDelivery { packet 0x100 with data := List.replicate 57 1#8 }) (networked 1) (fun t => t.barBits (qdescOff 5) 191 160 == 1) = true ∧
    occurs (.rdmaAtomicRequest (packet 0x100)) (networked 1) (fun t => t.out.length == 1) = true := by decide +kernel
theorem witness_NetworkEventsOccur3 : occurs (.rdmaWrite { packet 0x100 with addr := 0x2010 }) (networked 1) (fun t => t.mem.load (Base.lpddr + 0x2010) 8 == 0x0101010101010101) = true ∧
    occurs (.rdmaWrite { packet 0x100 with addr := 0x3010 }) (networked 1) (fun t => (t.heldOf 0).length == 1) = true ∧
    occurs (.rdmaRead { packet 0x100 with addr := 0x2010 }) (networked 1) (fun t => t.out.length == 1 && t.heldOf 0 == []) = true ∧ occurs (.rdmaRead { packet 0x100 with addr := 0x1FFC }) (networked 1) (fun t => (t.heldOf 0).length == 1) = true ∧
    (let s := bar (qpctxOff 0) 4 (3 * 2 ^ 2) idle;
      pairRc s 0 && pairState s 0 == 3 && occurs (.qpRetryExhausted 0) s fun t => pairState t 0 != 3) = true ∧
    occurs (.qdescStateRun 5) (networked 0) (fun t => queueState t 5 == 1) = true := by decide +kernel

/-- A strip card in service of head 0 whose start has come, one whose deadline has passed, a tile of a raster card that starts, a binning unit with a draw left, and a tile whose visibility becomes final (R350-R353, R364-R377). -/
theorem witness_GraphicsEventsOccur1 :
    let strip (f : Card → Card) : State := { withLaunch (ringed (idle id fun k => f { k with head := 0 })) id with ptp := { cyc := 0, base := 2 ^ 50, delta := 2 ^ 40 } }
    let raster (f : RasterJob → RasterJob) : State := withLaunch (idle id fun k => { k with queue := 0 }) fun l => { l with raster := some (f { emptyJob 0 [] with header := header }) }
    occurs (.stripStart 0) (strip id) (fun t => (mget 0 t.launches).any fun l => l.raster.isSome) = true ∧
    occurs (.stripDeadline 0) (strip fun k => { k with deadline := 1 }) (fun t => (mget 0 t.launches).any fun l => l.deadlineDone) = true ∧
    occurs (.tileStart 0 0) (raster id) (fun t => ((mget 0 t.launches).bind (·.raster)).any fun j => (j.tiles.map (·.1)) == [0]) = true ∧
    occurs (.binningPrimitive 0) (raster fun j => { j with units := [(0, 0, 0)] }) = true ∧
    occurs (.tileVisibilityFinal 0 0) (raster fun j => { j with header := header - 30 * 2 ^ 112, tiles := [(0, { tile0 with final := false })], rates := [(0, 1)] }) (fun t =>
      ((mget 0 t.launches).bind (·.raster)).any fun j => (mget 0 j.tiles).any fun x => x.final && x.rate == 1) = true := by decide +kernel
/-- A valid ray draw joins those of its card (R373). -/
theorem witness_GraphicsEventsOccur4 :
    let s := withLaunch { idle id (fun k => { k with queue := 0 }) with tlb := [{ part := 0, ctx := 0, base := 0, size := 4096, pa := 0, r := true, w := true, x := true }] } fun l =>
      { l with raster := some { emptyJob 0 [] with header := header, units := [(0, 0, 0)] } }
    drawOk (2 ^ 148) = true ∧ occurs (.binningPrimitive 0) { s with mem := s.mem.store Base.lpddr 64 (2 ^ 148) } (fun t =>
      ((mget 0 t.launches).bind (·.raster)).any fun j => j.rayDraws == [{ draw := 0, rec_ := 2 ^ 148, insts := [] }] && j.units == [(0, 4, 0)]) = true := by decide +kernel
/-- The primary rays of a tile of one pixel, without a camera and with a draw of no instance: its visibility may become final (R373). -/
theorem witness_GraphicsEventsOccur5 :
    let j := { emptyJob 0 [] with header := header - 63 * 2 ^ 96 - 31 * 2 ^ 112, rayDraws := [{ draw := 0, rec_ := 2 ^ 148, insts := [] }], tiles := [(0, { tile0 with final := false, traced := false })] }
    occurs (.primaryRayTrace 0 0) (withLaunch (idle id fun k => { k with queue := 0 }) fun l => { l with raster := some j }) (fun t =>
      ((mget 0 t.launches).bind (·.raster)).any fun j => j.tiles.all fun e => e.2.traced) = true := by decide +kernel
/-- TXQ of a texture of 64 by 32 texels has its five words; a table image of one dimension in slot 0 is loaded; a misaligned one fails; a store that is free goes to the card that waits (R412, R414-R416). -/
theorem witness_GraphicsEventsOccur6 :
    occurs (.textureServe 0 0 90) (paged (idle fun w => { w with deferred := [{ missing with job := .texture 4 [(4, 0x2000, [0])] }] }) (63 * 2 ^ 64 + 31 * 2 ^ 78)) (fun t =>
      ((wave t).deferred.map fun d => (d.value.getD []).map fun e => (e.1 / 32, e.2)) == [[(8, 64#32), (9, 32#32), (10, 1#32), (11, 1#32), (12, 0#32)]]) = true ∧
    (let s := withCluster (paged (idle id fun k => { k with qrt := 2 ^ 52 + 0x2000 }) 1) fun c => { c with store := { TableStore.init with holder := some 0, loaded := false } };
      imageHeader 1 1 == some ([1, 0, 0, 0], 0) && occurs (.tableStoreLoad 0) s fun t => (t.cluster 0).store.loaded && (t.cluster 0).store.dims == [1, 0, 0, 0]) = true := by decide +kernel
/-- A raster card whose header lies in the scratchpad at its argument's address (R346, R361). -/
theorem witness_GraphicsEventsOccur2 :
    let s := idle id fun k => { k with queue := 0, argBase := 0x40000000 }
    occurs (.tileStart 0 0) { s with mem := s.mem.store (Base.slice 0) 128 header } (fun t => ((mget 0 t.launches).bind (·.raster)).any fun j => j.header == header) = true := by decide +kernel
/-- The twelve words of thread 4's ray record in v8 to v19. -/
def rayWordsOf (w : Wave) : List Nat := (List.range 12).map fun i => (w.reg 4 (8 + i)).toNat
/-- A ray whose scene is not mapped stops on a fault; a binding that is not mapped makes the texture engine wait for a verdict; a store's image at a misaligned address fails its card (R395, R407, R416). -/
theorem witness_GraphicsEventsOccur3 :
    let x := rayWordsOf (workedRay Wave.init)
    (let s := { idle with rays := [(4, { ray 15 with words := x, tcur := 0x42C80000, visits := [{ entry := 0, above := 0, level := 0, kind := 1, index := 0, depth := 0 }] })] };
      (rayIn x).isSome && occurs (.rayRest 4) s fun t => (mget 4 t.rays).any fun r => r.fault.isSome || r.status != 15) = true ∧
    occurs (.textureServe 0 0 90) (idle fun w => { w with deferred := [{ missing with job := .texture 4 [(4, 0x1000, [0])] }] }) = true ∧
    (let s := withCluster (idle id fun k => { k with qrt := 2 ^ 52 + 8 }) fun c => { c with store := { TableStore.init with holder := some 0, loaded := false } };
      occurs (.tableStoreLoad 0) s fun t => (mget 0 t.launches).any fun l => l.status != .running) = true := by decide +kernel

/-- An entry that is due is skipped; a display line is fetched; RDOFF, RING_ENABLE and RING_DISABLE are written (R426-R437). -/
theorem witness_RingAndRegisterEventsOccur1 :
    let r := { ringed idle with ptp := { cyc := 0, base := 0, delta := 2 ^ 40 } }
    let late := r.updRing 0 fun x => { x with frame := 0, nextFrame := 0 }
    occurs (.entrySkip 0) late (fun t => (mget 0 t.rings).any fun x => x.prev == some none) = true ∧ occurs (.displayLineFetch 0) late (fun t => (mget 0 t.rings).any fun x => x.nextLine == 1) = true ∧
    occurs (.rdoffWrite 4 100) idle (fun t => t.barBits (encOff 4) 159 128 == 100) = true ∧ occurs (.rdoffWrite 3 100) idle (fun t => t == idle) = true ∧
    occurs (.ringcfgEnable 0) (bar (ringOff 0 + 14) 1 0 r) (fun t => ringEn t 0) = true ∧ occurs (.ringcfgEnable 0) idle (fun t => t == idle) = true ∧ occurs (.ringcfgDisable 0) r (fun t => !ringEn t 0 && t.rings == []) = true := by decide +kernel
/-- The ring of head 4 with one closed strip and its encoder, as given. -/
def encoding (frame : Nat) (x : Enc) (wr : Nat) : State :=
  { (bar (ringOff 4) 16 (0x40000000 + 2 * 2 ^ 32 + 8 * 2 ^ 40 + 64 * 2 ^ 64 + 16 * 2 ^ 80 + 16 * 2 ^ 96 + 2 ^ 114) (bar (encOff 4) 16 (0x8000 + wr * 2 ^ 96 + 0x8000 * 2 ^ 64) idle)) with
    rings := [(4, { frame := 5, last := none, prev := none, openUnder := false, entries := [{ frame := frame, strip := 0, slot := none, underrun := false }], late := [], holders := [], nextFrame := 5, nextLine := 0 })]
    encs := [(4, x)], tlb := [{ part := 0, ctx := 0, base := 0x8000, size := 0x10000, pa := 0x8000, r := true, w := true, x := false }] }
def encoder (lines : Nat) : Enc := { lines := List.replicate lines [0], frame := 1, coded := 0, sinceKey := 0, stalled := false, key := true }
/-- A strip of an older frame is passed over, a strip goes to the line buffer, a head without room stalls; a row of one temporal delimiter, sequence and frame headers and a tile group is written (R438-R440). -/
theorem witness_RingAndRegisterEventsOccur2 : occurs (.encoderStripCopy 4) (encoding 0 (encoder 0) 0) (fun t => (mget 4 t.rings).any fun r => r.entries == []) = true ∧
    occurs (.encoderStripCopy 4) (encoding 1 (encoder 0) 0) (fun t => (mget 4 t.encs).any fun x => x.lines.length == 8) = true ∧
    occurs (.encoderStripCopy 4) (bar (encOff 4 + 8) 4 0x1000 (encoding 1 (encoder 0) 0)) (fun t => (mget 4 t.encs).any fun x => x.stalled) = true ∧
    (let coded : List Byte := [0x12, 0, 0x0A, 0, 0x1A, 0, 0x22, 1, 9];
      obuTypes 10 coded == some (rowTypes true true) && occurs (.tileRowCode 4 coded) (encoding 1 (encoder 64) 0) fun t => t.mem.load (Base.lpddr + 0x8000) 2 == 0x12 && t.barBits (encOff 4) 127 96 == 9) = true := by decide +kernel
/-- Queues, templates, partitions, granules, the timebase, queue pairs, shares, plain registers and the host's writes; and the function-level reset (R8, R9, R331, R347, R442-R445, R453, R454, R459, R465, R472, R474). -/
theorem witness_RingAndRegisterEventsOccur3 :
    occurs (.qcfgEnable 1) { State.reset with bar := Mem.store (Mem.store [] 0 1 9) (qcfgOff 1 + 8) 2 4 } (fun t => t.barFlag (qcfgOff 1) 6) = true ∧ occurs (.qcfgEnable 2000) idle (fun t => t == idle) = true ∧
    occurs (.stplWithdraw 3) (bar (stplOff 3 + 36) 1 1 idle) (fun t => !t.barFlag (stplOff 3) 288) = true ∧ occurs (.stplValid 3) idle = true ∧ occurs (.pcfgEnable 1) (bar (pcfgOff 1) 4 (2 ^ 24 + 2 ^ 16 + 1) idle) (fun t => t.partEn 1) = true ∧ occurs (.pcfgEnable 1) idle (fun t => !t.partEn 1) = true := by decide +kernel
theorem witness_RingAndRegisterEventsOccur4 : occurs (.teardown 1) idle (fun t => t == idle) = true ∧ occurs (.teardown 0) idle (fun t => (t.partOf 0).teardown.isSome) = true ∧
    occurs (.teardownComplete 0) { idle.setPart 0 { idle.partOf 0 with teardown := some [0, 0, 0, 0, 0] } with cyc := 2 ^ 15 } (fun t => (t.partOf 0).teardown == none && (t.partOf 0).key == 1) = true ∧
    occurs (.mownWrite 0 0x40) idle (fun t => t.scrubs == []) = true ∧ occurs (.mownWrite 1 0x41) idle (fun t => t.scrubs == [1] && t.barBits (mownOff 1) 7 0 == 0xC1) = true ∧ occurs (.mownWrite 1024 1) idle (fun t => t.scrubs == []) = true ∧
    occurs (.scrubComplete 0) { idle with scrubs := [0], cyc := scrubCycles } (fun t => t.scrubs == [] && t.mem.byte (Base.lpddr + 0x1000) == 0 && !(idle.mem.load (Base.lpddr + 0x1000) 4 == 0)) = true := by decide +kernel
theorem witness_RingAndRegisterEventsOccur5 : occurs (.tbcfgWrite 2) idle (fun t => t.barFlag tbcfgOff 1) = true ∧ occurs (.tbcfgWrite 2) { idle with domSize := 2 } (fun t => !t.barFlag tbcfgOff 1) = true ∧ occurs (.tbcfgWrite 2) (bar 0 1 7 { idle with domSize := 2 }) (fun t => t.barFlag tbcfgOff 1) = true ∧
    occurs (.qpctxState 3 1) idle (fun t => pairState t 3 == 1) = true ∧ occurs (.qpctxState 3 3) idle (fun t => pairState t 3 == 0) = true ∧ occurs (.channelShare 0 200) { idle with bar := Mem.store [] 0 1 9 } (fun t => t.barBits (shareOff 0) 7 0 == 200) = true ∧
    occurs (.channelShare 1 57) { idle with bar := Mem.store (Mem.store [] 0 1 9) (shareOff 0) 1 200 } (fun t => t.barBits (shareOff 1) 7 0 == 0) = true ∧
    isPriv 0x100000 = true ∧ occurs (.registerWrite true 0x100000 5) idle (fun t => t.out.length == 1 && t.bar == idle.bar) = true ∧ occurs (.registerWrite false 0x100090 0x7000) idle (fun t => t.bar.load 0x100090 8 == 0x7000) = true := by decide +kernel
/-- Before bring-up opens BAR0, and before it accepts configuration, the writes change nothing (R475). -/
theorem witness_RingAndRegisterEventsOccur7 : [Instr.registerWrite true 0x100000 5, .registerWrite false 0x100090 0x7000, .qcfgEnable 1, .pcfgEnable 1, .teardown 0, .mownWrite 1 0x41, .qpctxState 3 1,
    .channelShare 0 1, .stplValid 3, .stplWithdraw 3, .ringcfgEnable 0, .ringcfgDisable 0, .qdescStateOff 5].all (fun i => let s := bar 0 1 3 idle; occurs i s fun t => t == s) = true := by decide +kernel
theorem witness_RingAndRegisterEventsOccur6 :
    occurs .functionLevelReset { idle with doorbell := some 3 } (fun t => t.doorbell == none) = true := by decide +kernel

/-- A mailbox command: opcode, length and parameters (Table 19-8). -/
def command (op len params n : Nat) (s : State) : State := { bar 0x40 2 op (bar 0x42 2 len (bar 0x44 n params s)) with doorbell := some 7 }
/-- The answer: sequence number, result code, and the first eight bytes. -/
def answers (i : Instr) (s : State) (result : Nat) (data : Nat → Bool := fun _ => true) : Bool := occurs i s fun t => t.bar.load 8 4 == 7 && t.bar.load 0xC 4 == result && data (t.bar.load 0x800 8) && t.doorbell == none
/-- REGRD and REGWR of the power cap, of a register that is not reserved to them, and with a bad length (R459). -/
theorem witness_MailboxCommandsOccur1 : answers .regrd (command 1 8 0x119000 8 idle) 0 (· == 1600) = true ∧ answers .regrd (command 1 8 0 8 idle) 2 = true ∧ answers .regrd (command 1 9 0x119000 8 idle) 2 = true ∧
    answers .regwr (command 2 24 (0x119000 + 900 * 2 ^ 64 + 0xFFFF * 2 ^ 128) 24 idle) 0 = true ∧ answers .regwr (command 2 24 0 24 idle) 2 = true ∧ answers .attest (command 0x10 33 (64 * 2 ^ 256) 33 idle) 2 = true ∧
    (let s := command 0x10 33 (3 * 2 ^ 256) 33 idle; s.doorbell.isSome && mboxOp s == 0x10 && mboxLen s == 33 && mboxParam s 263 256 == 3) = true := by decide +kernel
/-- GRPCTL names card 0 (VA 0, partition 0) or a card that is not there: LOCATE of a group in slot 2, RESUME, KILL and PREEMPT of a group and of a card, in their regimes (R460, R461). -/
def grpctl (action : Nat) (s : State) : State := command 0x20 24 action 24 s
/-- A trapped group, saved in slot 2. -/
def trapped : State := idle.updGroup 0 fun g => { g with trapped := true, slot := some 2, status := .saved }
theorem witness_MailboxCommandsOccur2 :
    answers .locate (grpctl 1 State.reset) 2 = true ∧ answers .killcard (grpctl 4 State.reset) 2 = true ∧ answers .killcard (grpctl 4 idle) 0 = true := by decide +kernel
theorem witness_MailboxCommandsOccur4 : answers .locate (grpctl 1 trapped) 0 (· == 2) = true ∧ answers .locate (grpctl 1 idle) 3 = true ∧
    answers .locate (grpctl 1 (bar (pcfgOff 0 + 24) 2 1 ((idle id light).updGroup 0 fun g => { g with status := .halted }))) 3 = true := by decide +kernel
theorem witness_MailboxCommandsOccur5 : answers .grpctlResume (grpctl 2 trapped) 0 = true ∧ answers .grpctlResume (grpctl 2 idle) 3 = true ∧ answers .killgroup (grpctl 3 idle) 0 = true ∧ answers .killgroup (grpctl 3 (idle id lockedCard)) 3 = true := by decide +kernel
theorem witness_MailboxCommandsOccur6 : answers .preempt (grpctl 5 idle) 0 = true ∧ answers .preempt (grpctl 5 (idle id lockedCard)) 3 = true := by decide +kernel
/-- DPLINK of a head without a ring, of one that is stopped, and of one that is trained; MEMWR and MEMRD of the window, of mapped and unmapped memory, and of bad sizes (R462, R463). -/
theorem witness_MailboxCommandsOccur3 :
    let mapped := paged idle
    let link := 16 * 2 ^ 16 + 16 * 2 ^ 48 + 16 * 2 ^ 80
    answers .dplink (command 0x30 16 0 16 idle) 2 = true ∧ answers .dplink (command 0x30 16 link 16 (ringed idle)) 0 (· == 0) = true ∧ occurs .dplink (command 0x30 16 (link + 2 ^ 8) 16 (ringed idle)) (fun t => t.links == [0]) = true ∧
    occurs .memwr (command 0x40 24 (0x40000000 + 2 ^ 70 + 8 * 2 ^ 80 + 0x55 * 2 ^ 128) 24 idle) (fun t => t.bar.load 0xC 4 == 0 && t.mem.load (Base.slice 0) 8 == 0x55) = true ∧
    occurs .memwr (command 0x40 24 (0x2000 + 8 * 2 ^ 80 + 0x55 * 2 ^ 128) 24 mapped) (fun t => t.bar.load 0xC 4 == 0 && t.mem.load (Base.lpddr + 0x2000) 8 == 0x55) = true ∧
    answers .memwr (command 0x40 (16 + 1025) (1025 * 2 ^ 80) 16 idle) 2 = true ∧ answers .memrd (command 0x41 16 0 16 idle) 2 = true ∧ answers .memrd (command 0x41 16 (0x40000000 + 2 ^ 70 + 8 * 2 ^ 80) 16 idle) 0 (· == 0) = true ∧
    answers .memrd (command 0x41 16 (0x2000 + 8 * 2 ^ 80) 16 mapped) 0 (· == 0) = true := by decide +kernel

/-- A checkpoint is announced, begins without a locked launch, sends a line, and ends (the copy of a launch is too large for the kernel); its flits land or are dropped; heartbeats are missed once and for the third time; the loss is recovered; power and its caps (R465-R475). -/
theorem witness_ServiceEventsOccur1 : occurs .checkpointAnnounce idle (fun t => t.ckpt.isSome) = true ∧
    (let s := { idle with ckpt := some (0, 16384, false), hold := some (0, 16384) };
      occurs .checkpoint s (fun t => t.ckptDone && t.ckptOut == some []) &&
      occurs .checkpoint { s with domSize := 2, bar := lane.bar, ckptOut := some [(64, List.replicate 64 5#8, 0)] } fun t => t.ckptDone && t.out.length == 1) = true ∧
    (lockedLaunches (idle id lockedCard)).map (fun e => banksQuiet (idle id lockedCard) e.1) = [true] ∧
    occurs .checkpointEnd { idle with ckpt := some (0, 16384, false), cyc := 16384 } (fun t => t.ckpt == none) = true ∧
    occurs (.checkpointFlit { flit 2 1 0 64 with port := 0 }) (bar ckinOff 8 (2 ^ 63 + 1) idle) (fun t => t.mem.byte (Base.lpddr + 64) == 5) = true ∧ occurs (.checkpointFlit (flit 2 1 0 64)) idle (fun t => t.mem.byte (Base.lpddr + 64) == 0) = true ∧
    occurs (.heartbeatMiss 1) { idle with domSize := 2 } (fun t => t.lost == none && t.missed == [(1, 1)]) = true ∧ occurs (.heartbeatMiss 1) { idle with domSize := 2, missed := [(1, 2)] } (fun t => t.lost == some 1) = true ∧
    occurs .recovery { idle with lost := some 1, missed := [(1, 3)] } (fun t => t.lost == none && t.missed == []) = true := by decide +kernel
theorem witness_ServiceEventsOccur2 : occurs (.powerMeasurement 1000) idle (fun t => t.power == [1000] && !t.powerHold) = true ∧ occurs .throttleRestore { idle with powerHold := true, below := 100 } (fun t => !t.powerHold) = true ∧
    (1 ≤ bringUpStep State.reset ∧ bringUpStep State.reset ≤ 8) := by decide +kernel
theorem witness_StepKeepsMemoryCanonical : Safety.MemoryOk lane ∧ isNext (step lane) = true := by unfold Safety.MemoryOk; decide +kernel
end Sys2Proof.Tests
end

section
/-! PROOFS. The instructions that read and write a wave's state by index (01 R28; 02 R70-R73, Tables 02-15 and 02-16). An instruction of a
ready party whose meaning lands a result goes on with that landing; what is left of each statement is the landed value, and the latch of
R28. -/

namespace Sys2Proof.Proofs.StateReads
open Sys2Proof Sys2Proof.Machine Sys2Proof.Rules Sys2Proof.Laws

/-! ### A plain form of a ready party -/

/-- Legal register operands pass the decode check of R49. -/
theorem legal_of_mem {c : Ctx} {us : List Use} (h : Legal c us) : ∀ u ∈ us, c.legal u = true := fun u hu => by
  simpa [Ctx.legal] using h u hu

/-- A form that asks only for its issuer and its registers, of a party that is ready and may issue it, goes on with the state and
the wave that its meaning answers. -/
theorem issue_goesOn {s t : State} {c : Ctx} {w : Wave} {i : Instr} {who : Issuers} {us : List Use} {body : State → Ctx → Res}
    (hr : Ready s c) (hl : Legal c us) (hwho : who = .both ∨ who = .wave ∧ c.isCore = false) (hb : body s c = .done t w) :
    s.issue { ins := i, who := who, uses := us } body = goesOn t c w := by
  have hd : c.decodeTrap { ins := i, who := who, uses := us } = none :=
    decodeTrap_none (by rintro rfl; simpa using hwho) (by rintro rfl; simp at hwho) (legal_of_mem hl) (by simp)
  rw [issue_ready hr.issuer hr.sound hr.arrived hr.fret hd (.inl hr.active) hr.clean (by simp), hb]
  rfl

/-! ### Results that land -/

/-- A result that only lands is the wave's next state. -/
theorem landAt_landing (s : State) (c : Ctx) (dist width : Nat) (mask : BitVec 32) (what : LandWhat) (raise : List (Nat × BitVec 5)) :
    landAt s c (landing s c dist width mask what raise) = .done s.fresh (withLanding s c dist width mask what raise) := rfl

@[simp] theorem resultWords_one (r t x : Nat) : resultWords r 1 t x = [(r * 32 + t, BitVec.ofNat 32 x)] := by
  simp [resultWords]

/-- A lane form of one word without flags lands each active thread's own value. -/
theorem laneResult_word (s : State) (c : Ctx) (d : Reg) (dist : Nat) (f : Nat → Nat) :
    laneResult s c d 1 dist (fun t => (f t, 0)) = .done s.fresh (withLanding s c dist 32 c.w.active
      (.regs (c.active.map fun t => (d.toNat * 32 + t, BitVec.ofNat 32 (f t)))) []) := by
  have hflags : (c.active.map fun t => (t, f t, 0#5)).filter (·.2.2 != 0#5) = [] := by simp
  simp [laneResult, landAt_landing, hflags, List.flatMap_map, ← List.map_eq_flatMap]

/-- A uniform form of one word without flags lands the one value in every thread. -/
theorem uniformResult_word (s : State) (c : Ctx) (d : Reg) (dist x : Nat) :
    uniformResult s c d 1 dist (x, 0) = .done s.fresh (withLanding s c dist 32 (maskOf c.all)
      (.regs (c.all.map fun t => (d.toNat * 32 + t, BitVec.ofNat 32 x))) []) := by
  simp [uniformResult, landAt_landing, ← List.map_eq_flatMap]

/-! ### The values of the state indexes, and the latch -/

/-- An index reads its entry of Table 02-15, and 0 past its end. Most entries are what the model computes, word for word; the others differ in
the order of a product (index 0) or of the conditions: the card's count of groups, SCY and its high half, the fret, the helper bit. -/
theorem stateIndexes_getD (s : State) (c : Ctx) (t i : Nat) : (stateIndexes s c t).getD i 0 = rdsValue s c t i := by
  match i with
  | 0 => simp [stateIndexes, rdsValue, Nat.mul_comm 32]
  | 4 => exact (ite_not ..).symm
  | 8 => by_cases hr : c.l.card.regime = 2 <;> simp [stateIndexes, rdsValue, Ctx.locked, Ctx.card, hr]
  | 9 =>
    by_cases hr : c.l.card.regime = 2 <;> cases hh : c.w.scyHigh <;>
      simp [stateIndexes, rdsValue, Ctx.locked, Ctx.card, hr, hh]
  | 10 => cases hk : c.isCore <;> simp [stateIndexes, rdsValue, Ctx.ordered, Ctx.card, hk]
  | 18 => cases hb : c.w.helper.getLsbD t <;> simp [stateIndexes, rdsValue, Ctx.isHelper, hb]
  | 1 | 2 | 3 | 5 | 6 | 7 | 11 | 12 | 13 | 14 | 15 | 16 | 17 | 19 | 20 | 21 | 22 | 23 | 24 | 25 | 26 | 27 | 28
  | _ + 29 => rfl

/-- The latch of R28 goes by the number of the index. -/
theorem latch_eq (s : State) (c : Ctx) (w : Wave) (i : BitVec 7) : latch s c w i.toNat = latching s c i w := by
  simp [latch, latching, Ctx.locked, Ctx.card, BitVec.toNat_eq]

/-- What a write of index 17, 26 or 27 lands goes by the number of the index (Table 02-16). -/
theorem wrsWhat_eq (c : Ctx) (i : BitVec 7) (a : Reg) (flags : List (Nat × BitVec 5)) : wrsWhat c i.toNat a flags =
    if i = 17 then .setFlags flags else if i = 26 then .rmode ((c.w.reg c.leader a.toNat).setWidth 2)
    else .ftz ((c.w.reg c.leader a.toNat).setWidth 4) := by
  simp [wrsWhat, BitVec.toNat_eq]

/-! ### The six instructions -/

section
variable {s : State} {c : Ctx} {d a : Reg} {i : BitVec 7}

/-- RDS lands each active thread's value of Table 02-15, and latches. -/
theorem execRds_goesOn (hr : Ready s c) (hl : Legal c [w1 d]) (hc : c.isCore = false) :
    execRds d i s = goesOn s.fresh c (latching s c i (withLanding s c 1 32 c.w.active
      (.regs (c.active.map fun t => (d.toNat * 32 + t, BitVec.ofNat 32 ((stateIndexes s c t).getD i.toNat 0)))) [])) := by
  apply issue_goesOn hr hl (.inr ⟨rfl, hc⟩)
  simp only [laneResult_word, latched, latch_eq, stateIndexes_getD]

/-- URDS lands the leader's value, or the core's, in every thread. -/
theorem execUrds_goesOn (hr : Ready s c) (hl : Legal c [w1 d]) :
    execUrds d i s = goesOn s.fresh c (latching s c i (withLanding s c 1 32 (maskOf c.all)
      (.regs (c.all.map fun t => (d.toNat * 32 + t, BitVec.ofNat 32 ((stateIndexes s c c.leader).getD i.toNat 0)))) [])) := by
  apply issue_goesOn hr hl (.inl rfl)
  simp only [uniformResult_word, latched, latch_eq, stateIndexes_getD]

/-- WRS lands the active threads' own flags, or the leader's rounding mode or flush options. -/
theorem execWrs_goesOn (hr : Ready s c) (hl : Legal c [r1 a]) (hc : c.isCore = false) :
    execWrs a i s = goesOn s.fresh c (withLanding s c 1 32 c.w.active
      (wrsWhat c i.toNat a (c.active.map fun t => (t, (c.w.reg t a.toNat).setWidth 5))) []) :=
  issue_goesOn hr hl (.inr ⟨rfl, hc⟩) (landAt_landing ..)

/-- UWRS lands the leader's flags in every thread. -/
theorem execUwrs_goesOn (hr : Ready s c) (hl : Legal c [r1 a]) :
    execUwrs a i s = goesOn s.fresh c (withLanding s c 1 32 (maskOf c.all)
      (wrsWhat c i.toNat a (c.all.map fun t => (t, (c.w.reg c.leader a.toNat).setWidth 5))) []) :=
  issue_goesOn hr hl (.inl rfl) (landAt_landing ..)

/-- FLGRD lands the OR of the flags as they stand before its landing slot, in the active threads. -/
theorem execFlgrd_goesOn (hr : Ready s c) (hl : Legal c [w1 d]) (hc : c.isCore = false) :
    execFlgrd d s = goesOn s.fresh c (withLanding s c 1 32 c.w.active (.readFlags d.toNat c.w.active) []) :=
  issue_goesOn hr hl (.inr ⟨rfl, hc⟩) (landAt_landing ..)

/-- UFLGRD lands it in every thread. -/
theorem execUflgrd_goesOn (hr : Ready s c) (hl : Legal c [w1 d]) :
    execUflgrd d s = goesOn s.fresh c (withLanding s c 1 32 (maskOf c.all) (.readFlags d.toNat (maskOf c.all)) []) :=
  issue_goesOn hr hl (.inl rfl) (landAt_landing ..)

end

/-- Settles O22: each of the six issues as a plain form of a ready party, and lands what its table says. -/
theorem stateReadsComplete : Obligations.StateReadsComplete := by
  intro d a i s c hr hw hu
  refine ⟨fun _ => ⟨execRds_goesOn hr hw, execUrds_goesOn hr hw⟩, fun _ => ⟨fun hc => ?_, ?_⟩, execFlgrd_goesOn hr hw,
    execUflgrd_goesOn hr hw⟩
  · exact (execWrs_goesOn hr hu hc).trans (by rw [wrsWhat_eq])
  · exact (execUwrs_goesOn hr hu).trans (by rw [wrsWhat_eq])

end Sys2Proof.Proofs.StateReads
end
